-- ==== Sys2Proof/Word.lean ====
section
/-!
DEFINITION. The word types of the KRN-7640 and their plainest arithmetic (00 R5, R7): bytes, 32-bit words,
64-bit double words, lane masks, and the sparse tables that hold the large register and memory arrays as plain data.
-/

namespace Sys2Proof

/-- One byte of memory (00 R5). -/
abbrev Byte := BitVec 8

/-- One 32-bit code word or v register of one lane (06 R113, R121). -/
abbrev Word := BitVec 32

/-- One 64-bit s register, address operand or window register (06 R113). -/
abbrev DWord := BitVec 64

/-- A set of logical lanes 0 to 63, bit l for lane l (15 R349). -/
abbrev Lanes := BitVec 64

/-- A sparse table: (key, value) pairs with strictly rising keys; what an unlisted key reads as is fixed by the operation
that reads the table. -/
abbrev Sp (α : Type) := List (Nat × α)

/-- Bits [hi:lo] of a natural number (00 R7). -/
def bits (x hi lo : Nat) : Nat := (x / 2 ^ lo) % 2 ^ (hi - lo + 1)

/-- The value of bit i of a natural number. -/
def bitOf (x i : Nat) : Bool := x.testBit i

/-- x read as a two's-complement number of w bits (08 R189). -/
def signed (w x : Nat) : Int :=
  let r := x % 2 ^ w
  if r < 2 ^ (w - 1) then (r : Int) else (r : Int) - (2 ^ w : Nat)

/-- An exact integer taken modulo 2^w (08 R200). -/
def wrap (w : Nat) (x : Int) : Nat := (x % ((2 ^ w : Nat) : Int)).toNat

/-- Ceil(a / b). -/
def ceilDiv (a b : Nat) : Nat := (a + b - 1) / b

/-- a rounded up to a multiple of b. -/
def roundUp (a b : Nat) : Nat := ceilDiv a b * b

/-- The lanes below n. -/
def lanesBelow (n : Nat) : Lanes := BitVec.ofNat 64 (2 ^ n - 1)

/-- Lane l belongs to the set. -/
def hasLane (m : Lanes) (l : Nat) : Bool := m.toNat.testBit l

/-- The set that holds lane l alone. -/
def oneLane (l : Nat) : Lanes := BitVec.ofNat 64 (2 ^ l)

/-- The lanes of a set in ascending order. -/
def lanesOf (m : Lanes) : List Nat := (List.range 64).filter (hasLane m)

end Sys2Proof
end

