-- ==== Sys2Proof/Config.lean ====
section
/-!
DEFINITION. The values the spec leaves open, as constants without a body: nothing can be proved of what they are. A draw is numbered
by the counter `State.free`, which the step that draws advances.
-/

namespace Sys2Proof

/-- The energy counted between two reads of an energy counter, in 1/16 uJ (18 R438 gives the counters, and no figure for what
an instruction costs; log 9). -/
opaque Config.freeEnergy : Nat → BitVec 64

/-- A value for which the spec gives a place and no rule: the DT of a first event older than its port's enable time (13 R320), the DT
field of a frame without long packets (22 R472), PC and GROUP of the sample of an idle slot (18 R432), the bytes of a saved
group's record (17 R412) (logs 19, 88). -/
opaque Config.freeValue : Nat → BitVec 64

/-- The fused MINVER (22 R476 gives the field and no value; log 10). -/
opaque Config.minver : BitVec 32

/-- The SHA-512 digest of a firmware image (22 R477 names the function and does not define it; log 10). -/
opaque Config.imageHash : List Byte → BitVec 512

end Sys2Proof
end

