-- ==== Sys2Proof/Syntax.lean ====
section
/-!
DEFINITION. The instructions and agent steps of the KRN-7640: one constructor of `Instr` for each row of the opcode table.
An instruction carries the raw fields of its words (06 R123, R124, R130), so that no bit of an encoding is dropped; a step
of an agent, which has no encoding, carries the message or the input it acts on as plain data.
-/

namespace Sys2Proof

/-- The fields of a one-word B-form instruction (06 R123). `h` is bit 7 of the word, which in classes 00 and 01 selects the
scalar half (R144); in classes 10 and 11 the same bit is part of the opcode and `h` is not used. -/
structure BForm where
  g : BitVec 4
  b : BitVec 6
  a : BitVec 6
  d : BitVec 6
  h : Bool
  deriving DecidableEq, Repr

/-- The fields of a three-word E-form instruction, or of the five-word literal form when `lit` is present (06 R124).
`z` is word 1 bit 31, which must be 0. -/
structure EForm where
  g0 : BitVec 4
  a : BitVec 8
  d : BitVec 8
  z : Bool
  gc : BitVec 3
  g1 : BitVec 4
  e : BitVec 8
  c : BitVec 8
  b : BitVec 8
  mod : BitVec 6
  span : BitVec 4
  cache : BitVec 4
  fsel : BitVec 2
  sc : Bool
  sb : Bool
  sa : Bool
  ord : BitVec 2
  scope : BitVec 3
  sat : Bool
  rnd : BitVec 3
  type : BitVec 4
  lit : Option (BitVec 64)
  deriving DecidableEq, Repr

/-- MOD[i]. -/
def EForm.modBit (f : EForm) (i : Nat) : Bool := f.mod.toNat.testBit i

/-- MOD[hi:lo]. -/
def EForm.modBits (f : EForm) (hi lo : Nat) : Nat := bits f.mod.toNat hi lo

/-- The fields of a run header (06 R130). -/
structure HForm where
  prio : BitVec 4
  rgn : Bool
  len : BitVec 5
  setB : BitVec 4
  setA : BitVec 4
  wait : BitVec 12
  deriving DecidableEq, Repr

/-- The directory's request messages (03 R47). -/
inductive ReqKind where
  | rdS | rdO | upg | rdU | wrU | atm
  deriving DecidableEq, Repr

/-- What a Data message grants (03 R47): clean, owned, frozen replica or uncached; `cmp` is Cmp, the end of a write, without data. -/
inductive Grant where
  | s | o | f | u | cmp
  deriving DecidableEq, Repr

/-- The unit that waits for a request's answer. -/
inductive Waiter where
  /-- The LSU access `op` of group `g`. -/
  | lsu (g op : Nat)
  /-- Entry `id` of a cluster's store queue. -/
  | store (c id : Nat)
  /-- A prefetch of cluster `c` for access `op` of group `g`. -/
  | pfg (g op : Nat)
  /-- Window `win` of a core's collector. -/
  | gsc (core win : Nat)
  /-- The page walk of a region in a cluster (02 R36). -/
  | walk (c asid region : Nat)
  /-- Part `k` of an engine's access `id` (03 R43). -/
  | eng (id k : Nat)
  /-- The instruction cache of a core, for a fetch of group `g` at `va` (06 R158). -/
  | fetch (core g va : Nat)
  /-- The host or a peer. -/
  | host
  /-- An agent that waits for nothing. -/
  | none
  deriving DecidableEq, Repr

/-- What a recall, invalidation or back-invalidate serves: an open-transaction slot of the frame (03 R48), the eviction of its L2 slot
(R42), a host snoop of a line (R55), the scan of a freeze entry (R60), or a thaw (R64). -/
inductive RclFor where
  | slot (n : Nat)
  | evict
  | snoop (line : Nat)
  | freeze (h : Nat)
  | thaw (h : Nat)
  deriving DecidableEq, Repr

/-- What a recall, an invalidation and their acknowledgment are about: a frame, and what its sectors are taken back for (03 R52). -/
structure RclRef where
  frame : Nat
  t : RclFor
  deriving DecidableEq, Repr

/-- The host's answer to a back-invalidate snoop: the line, the bytes it brings when the host had changed it, and what it was snooped for
(03 R54). -/
structure SnoopRes where
  line : Nat
  bytes : List (BitVec 8)
  t : RclFor
  deriving DecidableEq, Repr

/-- A request at the directory: frame, sector mask, byte mask of a write, agent number, age stamp and SYNC bit (03 R47), with
the bytes of a WrU in ascending order of the set bits of `bmask`; `alloc` is false for UC memory, which no level allocates (02 R29). -/
structure Req where
  kind : ReqKind
  frame : Nat
  smask : BitVec 32
  bmask : BitVec 512
  agent : Nat
  age : BitVec 24
  sync : Bool
  who : Waiter
  bytes : List (BitVec 8)
  alloc : Bool
  deriving DecidableEq, Repr

/-- The outcome of a read of a protected store (02 R23, 22 R478). -/
inductive ErrKind where
  | none | corrected | uncorrectable
  deriving DecidableEq, Repr

/-- The levels of the hardware barriers (15 R359). -/
inductive BarLevel where
  | block | cluster | grid
  deriving DecidableEq, Repr

/-- One hardware barrier: its level, number, and the block, cluster placement or launch it belongs to (15 R359). -/
structure BarRef where
  level : BarLevel
  k : Nat
  owner : Nat
  place : Nat
  deriving DecidableEq, Repr

/-- What the boot ROM finds when it verifies the stored firmware image (22 R476): whether the header magic and the
signature hold, and the image's VERSION. These are inputs: the fused key and the image's bytes lie outside the model. -/
structure BootImage where
  magicOk : Bool
  sigOk : Bool
  version : BitVec 32
  deriving DecidableEq, Repr

/-- The steps of the part: one constructor per row of the opcode table. -/
inductive Instr where
  /-- A run header wins an issue slot. Its WAIT flags are checked and cleared, its instructions issue, and PEND is armed for each counted long-latency instruction. (R135) -/
  | run (h : HForm)
  /-- Integer add, B-form; bit h selects the vector or scalar half. (R213) -/
  | iaddB (f : BForm)
  /-- Integer add, E-form or literal form, with TYPE and SAT. (R213) -/
  | iaddE (f : EForm)
  /-- Integer subtract, B-form. (R213) -/
  | isubB (f : BForm)
  /-- Integer subtract, E-form or literal form. (R213) -/
  | isubE (f : EForm)
  /-- Integer multiply (low bits), B-form. (R213) -/
  | imulB (f : BForm)
  /-- Integer multiply, E-form or literal form. (R213) -/
  | imulE (f : EForm)
  /-- High half of the integer product, B-form. (R213) -/
  | imulhB (f : BForm)
  /-- High half of the integer product, E-form or literal form. (R213) -/
  | imulhE (f : EForm)
  /-- Integer multiply-add, B-form, with C taken from D. (R213) -/
  | imadB (f : BForm)
  /-- Integer multiply-add, E-form or literal form. (R213) -/
  | imadE (f : EForm)
  /-- Integer minimum, B-form. (R213) -/
  | iminB (f : BForm)
  /-- Integer minimum, E-form or literal form. (R213) -/
  | iminE (f : EForm)
  /-- Integer maximum, B-form. (R213) -/
  | imaxB (f : BForm)
  /-- Integer maximum, E-form or literal form. (R213) -/
  | imaxE (f : EForm)
  /-- Integer absolute value, B-form. (R213) -/
  | iabsB (f : BForm)
  /-- Integer absolute value, E-form. (R213) -/
  | iabsE (f : EForm)
  /-- Bitwise AND, B-form. (R215) -/
  | andB (f : BForm)
  /-- Bitwise AND, E-form or literal form. (R215) -/
  | andE (f : EForm)
  /-- Bitwise OR, B-form. (R215) -/
  | orB (f : BForm)
  /-- Bitwise OR, E-form or literal form. (R215) -/
  | orE (f : EForm)
  /-- Bitwise XOR, B-form. (R215) -/
  | xorB (f : BForm)
  /-- Bitwise XOR, E-form or literal form. (R215) -/
  | xorE (f : EForm)
  /-- a AND NOT b, B-form. (R215) -/
  | andnB (f : BForm)
  /-- a AND NOT b, E-form or literal form. (R215) -/
  | andnE (f : EForm)
  /-- Shift left by a register amount, B-form. (R215) -/
  | shlB (f : BForm)
  /-- Shift left, E-form or literal form. (R215) -/
  | shlE (f : EForm)
  /-- Logical shift right, B-form. (R215) -/
  | shrB (f : BForm)
  /-- Logical shift right, E-form or literal form. (R215) -/
  | shrE (f : EForm)
  /-- Arithmetic shift right, B-form. (R215) -/
  | sarB (f : BForm)
  /-- Arithmetic shift right, E-form or literal form. (R215) -/
  | sarE (f : EForm)
  /-- Bitwise NOT, B-form. (R215) -/
  | notB (f : BForm)
  /-- Bitwise NOT, E-form. (R215) -/
  | notE (f : EForm)
  /-- Register move, B-form. (R219) -/
  | movB (f : BForm)
  /-- Register move, E-form, with TYPE and S bits. (R219) -/
  | movE (f : EForm)
  /-- Load a sign-extended 6-bit immediate, B-form. (R219) -/
  | liB (f : BForm)
  /-- Load an 8-bit immediate (E-form) or a 64-bit literal (literal form). (R219) -/
  | liE (f : EForm)
  /-- 64-bit address computation, B-form, with scale 1 and no displacement. (R220) -/
  | leaB (f : BForm)
  /-- Address computation with scale and displacement, E-form or literal form. (R220) -/
  | leaE (f : EForm)
  /-- Add a sign-extended IMM6, B-form. (R213) -/
  | iaddImmB (f : BForm)
  /-- Add an 8-bit immediate, E-form. (R213) -/
  | iaddImmE (f : EForm)
  /-- Shift left by IMM6, B-form. (R215) -/
  | shlImmB (f : BForm)
  /-- Shift left by an 8-bit immediate, E-form. (R215) -/
  | shlImmE (f : EForm)
  /-- Logical shift right by IMM6, B-form. (R215) -/
  | shrImmB (f : BForm)
  /-- Logical shift right by an 8-bit immediate, E-form. (R215) -/
  | shrImmE (f : EForm)
  /-- Arithmetic shift right by IMM6, B-form. (R215) -/
  | sarImmB (f : BForm)
  /-- Arithmetic shift right by an 8-bit immediate, E-form. (R215) -/
  | sarImmE (f : EForm)
  /-- AND with a zero-extended IMM6, B-form. (R215) -/
  | andImmB (f : BForm)
  /-- AND with an 8-bit immediate, E-form. (R215) -/
  | andImmE (f : EForm)
  /-- Rotate left, or right with .R, by n mod w. (R215) -/
  | rot (f : EForm)
  /-- Bit-field extract with sign or zero extension. (R217) -/
  | bfe (f : EForm)
  /-- Bit-field insert. (R217) -/
  | bfi (f : EForm)
  /-- Population count per element. (R218) -/
  | popc (f : EForm)
  /-- Count leading zeros per element. (R218) -/
  | clz (f : EForm)
  /-- Bit reversal per element. (R218) -/
  | brev (f : EForm)
  /-- Per-lane select by a predicate or an s-register condition. (R221) -/
  | sel (f : EForm)
  /-- Integer compare writing two predicates, optionally combined with a third. (R222) -/
  | icmp (f : EForm)
  /-- Three-input predicate logic by an 8-bit truth table. (R223) -/
  | plop (f : EForm)
  /-- Barrett reduction step a − ((a×b) >> (w+k)) × c. (R225) -/
  | brmh (f : EForm)
  /-- Float add, B-form. (R231) -/
  | faddB (f : BForm)
  /-- Float add, E-form or literal form, with TYPE, RND and SAT. (R231) -/
  | faddE (f : EForm)
  /-- Float subtract, B-form. (R231) -/
  | fsubB (f : BForm)
  /-- Float subtract, E-form or literal form. (R231) -/
  | fsubE (f : EForm)
  /-- Float multiply, B-form. (R231) -/
  | fmulB (f : BForm)
  /-- Float multiply, E-form or literal form. (R231) -/
  | fmulE (f : EForm)
  /-- Fused multiply-add, B-form, with C taken from D. (R231) -/
  | ffmaB (f : BForm)
  /-- Fused multiply-add, E-form or literal form. (R231) -/
  | ffmaE (f : EForm)
  /-- Float minimum, B-form. (R231) -/
  | fminB (f : BForm)
  /-- Float minimum, E-form or literal form. (R231) -/
  | fminE (f : EForm)
  /-- Float maximum, B-form. (R231) -/
  | fmaxB (f : BForm)
  /-- Float maximum, E-form or literal form. (R231) -/
  | fmaxE (f : EForm)
  /-- Clear the sign bit, B-form. (R231) -/
  | fabsB (f : BForm)
  /-- Clear the sign bit, E-form. (R231) -/
  | fabsE (f : EForm)
  /-- Invert the sign bit, B-form. (R231) -/
  | fnegB (f : BForm)
  /-- Invert the sign bit, E-form. (R231) -/
  | fnegE (f : EForm)
  /-- Reciprocal, B-form. (R242) -/
  | rcpB (f : BForm)
  /-- Reciprocal, E-form. (R242) -/
  | rcpE (f : EForm)
  /-- Reciprocal square root, B-form. (R242) -/
  | rsqB (f : BForm)
  /-- Reciprocal square root, E-form. (R242) -/
  | rsqE (f : EForm)
  /-- Correctly rounded square root, B-form. (R242) -/
  | sqrtB (f : BForm)
  /-- Square root, E-form. (R242) -/
  | sqrtE (f : EForm)
  /-- Base-2 exponential, B-form. (R242) -/
  | exp2B (f : BForm)
  /-- Base-2 exponential, E-form. (R242) -/
  | exp2E (f : EForm)
  /-- Base-2 logarithm, B-form. (R242) -/
  | log2B (f : BForm)
  /-- Base-2 logarithm, E-form. (R242) -/
  | log2E (f : EForm)
  /-- Hyperbolic tangent, B-form. (R242) -/
  | tanhB (f : BForm)
  /-- Hyperbolic tangent, E-form. (R242) -/
  | tanhE (f : EForm)
  /-- Logistic sigmoid, B-form. (R242) -/
  | sigmB (f : BForm)
  /-- Logistic sigmoid, E-form. (R242) -/
  | sigmE (f : EForm)
  /-- Float compare writing two predicates. (R233) -/
  | fcmp (f : EForm)
  /-- Two-element 16-bit dot product plus FP32 C, rounded once. (R235) -/
  | dot2 (f : EForm)
  /-- Four-element FP8 dot product plus FP32 C, rounded once. (R235) -/
  | dot4 (f : EForm)
  /-- Format conversion of one part of a packed register. (R237) -/
  | cvt (f : EForm)
  /-- Conversion with stochastic rounding from random bits in B. (R238) -/
  | cvtsr (f : EForm)
  /-- Round each element to an integral value in its own format. (R234) -/
  | frnd (f : EForm)
  /-- Counter-based generator producing 128 bits per lane from a key and a counter. (R241) -/
  | rng (f : EForm)
  /-- Sine evaluated bit-exactly by the SFU procedure. (R481) -/
  | sin (f : EForm)
  /-- Cosine evaluated bit-exactly by the SFU procedure. (R481) -/
  | cos (f : EForm)
  /-- GELU activation by the SFU procedure. (R481) -/
  | gelu (f : EForm)
  /-- SiLU activation by the SFU procedure. (R481) -/
  | silu (f : EForm)
  /-- Error function by the SFU procedure. (R481) -/
  | erf (f : EForm)
  /-- Evaluate programmable activation table k on each element. (R246) -/
  | act (f : EForm)
  /-- Load an activation table image from core scratchpad; PEND sets at issue. (R247) -/
  | atload (f : EForm)
  /-- Read an activation table's state word. (R249) -/
  | atstat (f : EForm)
  /-- Global load, B-form. (R166) -/
  | ldgB (f : BForm)
  /-- Global load, E-form or literal form, with size, scale, ordering, scope and hints. (R166) -/
  | ldgE (f : EForm)
  /-- Global store, B-form. (R166) -/
  | stgB (f : BForm)
  /-- Global store, E-form or literal form. (R166) -/
  | stgE (f : EForm)
  /-- Core-scratchpad load, B-form. (R166) -/
  | ldsB (f : BForm)
  /-- Core-scratchpad load, E-form or literal form. (R166) -/
  | ldsE (f : EForm)
  /-- Core-scratchpad store, B-form. (R166) -/
  | stsB (f : BForm)
  /-- Core-scratchpad store, E-form or literal form. (R166) -/
  | stsE (f : EForm)
  /-- Cluster-window load, B-form. (R166) -/
  | ldkB (f : BForm)
  /-- Cluster-window load, E-form or literal form. (R166) -/
  | ldkE (f : EForm)
  /-- Cluster-window store, B-form. (R166) -/
  | stkB (f : BForm)
  /-- Cluster-window store, E-form or literal form. (R166) -/
  | stkE (f : EForm)
  /-- Chip-scratchpad load, B-form. (R166) -/
  | ldxB (f : BForm)
  /-- Chip-scratchpad load, E-form or literal form. (R166) -/
  | ldxE (f : EForm)
  /-- Chip-scratchpad store, B-form. (R166) -/
  | stxB (f : BForm)
  /-- Chip-scratchpad store, E-form or literal form. (R166) -/
  | stxE (f : EForm)
  /-- Lane-private load, B-form. (R166) -/
  | ldlB (f : BForm)
  /-- Lane-private load, E-form or literal form. (R166) -/
  | ldlE (f : EForm)
  /-- Lane-private store, B-form. (R166) -/
  | stlB (f : BForm)
  /-- Lane-private store, E-form or literal form. (R166) -/
  | stlE (f : EForm)
  /-- Gather through the GSC, B-form. (R168) -/
  | ldgcB (f : BForm)
  /-- Gather through the GSC, E-form or literal form. (R168) -/
  | ldgcE (f : EForm)
  /-- Scatter through the GSC, B-form. (R168) -/
  | stgcB (f : BForm)
  /-- Scatter through the GSC, E-form or literal form. (R168) -/
  | stgcE (f : EForm)
  /-- Prefetch into the cluster cache, B-form. (R169) -/
  | pfgB (f : BForm)
  /-- Prefetch into the cluster cache, E-form or literal form. (R169) -/
  | pfgE (f : EForm)
  /-- Write back and remove a VA range from every cluster cache and send written sectors to DRAM. (R170) -/
  | cflush (f : EForm)
  /-- Remove a VA range from the issuer's cluster cache, writing dirty sectors back first. (R170) -/
  | cinv (f : EForm)
  /-- Write back dirty sectors of a VA range and keep them in S. (R170) -/
  | cclean (f : EForm)
  /-- Freeze a DRAM range through the freeze table and return a handle. (R172) -/
  | freeze (f : EForm)
  /-- Decrement a freeze entry's COUNT, thawing it when the count reaches zero. (R173) -/
  | thaw (f : EForm)
  /-- Query a freeze entry's state. (R174) -/
  | frzq (f : EForm)
  /-- Join a share group and map the block's window. (R175) -/
  | join (f : EForm)
  /-- Withdraw the block's share-group window. (R176) -/
  | leave (f : EForm)
  /-- Define a tile slot, optionally READY (.R). (R177) -/
  | tdef (f : EForm)
  /-- BCE copy from global memory into a tile slot, or into chip scratchpad (.X). (R178) -/
  | tcopy (f : EForm)
  /-- BCE copy from a tile slot, or from chip scratchpad (.X), to global memory. (R178) -/
  | tstore (f : EForm)
  /-- Read half of a tile slot's record. (R179) -/
  | tstat (f : EForm)
  /-- Global atomic read-modify-write, performed at the L2 slice. (R181) -/
  | atomG (f : EForm)
  /-- Core-scratchpad atomic. (R181) -/
  | atomS (f : EForm)
  /-- Cluster-window atomic. (R181) -/
  | atomK (f : EForm)
  /-- Chip-scratchpad atomic. (R181) -/
  | atomX (f : EForm)
  /-- Global compare-and-swap. (R181) -/
  | casG (f : EForm)
  /-- Core-scratchpad compare-and-swap. (R181) -/
  | casS (f : EForm)
  /-- Cluster-window compare-and-swap. (R181) -/
  | casK (f : EForm)
  /-- Chip-scratchpad compare-and-swap. (R181) -/
  | casX (f : EForm)
  /-- Enter a matrix multiply over an accumulator range into the TSCH. (R292) -/
  | tmm (f : EForm)
  /-- Read, check and accept a chain of tile-task records. (R293) -/
  | ttask (f : EForm)
  /-- Set or add to a dependence counter, returning its old word. (R294) -/
  | tdep (f : EForm)
  /-- Zero an accumulator range and clear POIS. (R295) -/
  | azero (f : EForm)
  /-- Drain an accumulator range with epilogue, in store or add-on-store mode. (R296) -/
  | adrain (f : EForm)
  /-- Return a tile's state word and take its ownership. (R297) -/
  | aown (f : EForm)
  /-- Write an accumulator tile's 4 KiB image to global memory. (R298) -/
  | asave (f : EForm)
  /-- Load an accumulator tile from a 4 KiB image. (R298) -/
  | aload (f : EForm)
  /-- Bind or unbind a baton queue. (R300) -/
  | leafcfg (f : EForm)
  /-- Push one row per lane into a baton queue, holding a future per lane. (R301) -/
  | leaf (f : EForm)
  /-- Fire a baton queue's open batch. (R302) -/
  | leafFlush (f : EForm)
  /-- Per-lane ray query over a frozen octree into a future. (R312) -/
  | cqray (f : EForm)
  /-- Per-lane swept-sphere query. (R313) -/
  | cqsph (f : EForm)
  /-- Per-lane rotated-box query. (R314) -/
  | cqbox (f : EForm)
  /-- Wait until the lanes' futures resolve and read them. (R307) -/
  | fwait (f : EForm)
  /-- Read futures without waiting. (R307) -/
  | fpoll (f : EForm)
  /-- Release future slots. (R308) -/
  | fdrop (f : EForm)
  /-- Bind or unbind the cluster's hash accumulator and its spill ring. (R316) -/
  | hcfg (f : EForm)
  /-- Merge per-lane key/value pairs into the hash accumulator. (R317) -/
  | hadd (f : EForm)
  /-- Write the hash accumulator's entries to memory and clear it. (R318) -/
  | hdrain (f : EForm)
  /-- Pop events from a spike queue, blocking while it is empty. (R321) -/
  | spkpop (f : EForm)
  /-- Read a spike queue's status or LASTT, optionally clearing its counts. (R322) -/
  | spkstat (f : EForm)
  /-- Pop nodes from an Orchard pool, one per lane. (R324) -/
  | alloc (f : EForm)
  /-- Push nodes back onto an Orchard pool. (R324) -/
  | free (f : EForm)
  /-- Load an Orchard pool from a record, or read it back (.RD). (R323) -/
  | poolcfg (f : EForm)
  /-- Relative branch with an 18-bit offset, B-form. (R355) -/
  | brB (f : BForm)
  /-- Branch with a 24-bit offset (E-form) or an absolute target (literal form). (R355) -/
  | brE (f : EForm)
  /-- Call with a 12-bit offset, writing the link pair, B-form. (R355) -/
  | callB (f : BForm)
  /-- Call, E-form or literal form. (R355) -/
  | callE (f : EForm)
  /-- Return to the address in a v pair, B-form. (R355) -/
  | retB (f : BForm)
  /-- Return through a v pair or an s register, E-form. (R355) -/
  | retE (f : EForm)
  /-- End the active lanes, B-form. (R355) -/
  | exitB (f : BForm)
  /-- End the active lanes, E-form. (R355) -/
  | exitE (f : EForm)
  /-- Indirect branch through a v pair, B-form. (R355) -/
  | brxB (f : BForm)
  /-- Indirect branch through a v pair or an s register, E-form. (R355) -/
  | brxE (f : EForm)
  /-- No operation, B-form. (R374) -/
  | nopB (f : BForm)
  /-- No operation, E-form. (R374) -/
  | nopE (f : EForm)
  /-- Become a blocking point at the run's end if a pre-emption is pending, B-form. (R374) -/
  | yieldB (f : BForm)
  /-- Yield, E-form. (R374) -/
  | yieldE (f : EForm)
  /-- Indexed shuffle across lanes, B-form. (R258) -/
  | shflIdxB (f : BForm)
  /-- Indexed shuffle, E-form. (R258) -/
  | shflIdxE (f : EForm)
  /-- Shuffle up by IMM6, B-form. (R258) -/
  | shflUpB (f : BForm)
  /-- Shuffle up, E-form. (R258) -/
  | shflUpE (f : EForm)
  /-- Shuffle down by IMM6, B-form. (R258) -/
  | shflDownB (f : BForm)
  /-- Shuffle down, E-form. (R258) -/
  | shflDownE (f : EForm)
  /-- Butterfly shuffle by IMM6, B-form. (R258) -/
  | shflXorB (f : BForm)
  /-- Butterfly shuffle, E-form. (R258) -/
  | shflXorE (f : EForm)
  /-- Broadcast lane IMM6 to the active lanes, B-form. (R259) -/
  | bcastB (f : BForm)
  /-- Broadcast, E-form, including BCAST.S to an s register. (R259) -/
  | bcastE (f : EForm)
  /-- Vote over the active lanes' predicates (AND, OR, SAME, GATHER). (R260) -/
  | vote (f : EForm)
  /-- Rank, count, first or mask over the active lanes. (R260) -/
  | laneq (f : EForm)
  /-- Peer masks or counts of lanes holding equal bits. (R260) -/
  | match (f : EForm)
  /-- Read a control register into an s register, B-form. (R417) -/
  | csrrB (f : BForm)
  /-- Read a control register, E-form, including .V to a v register. (R417) -/
  | csrrE (f : EForm)
  /-- Write a control register from an s register, B-form. (R417) -/
  | csrwB (f : BForm)
  /-- Write a control register, E-form. (R417) -/
  | csrwE (f : EForm)
  /-- Enrol the active lanes in a join barrier. (R357) -/
  | benrol (f : EForm)
  /-- Arrive at a join barrier and wait for its release. (R357) -/
  | bjoin (f : EForm)
  /-- Barrier arrive, wait, sync or phase read at block, cluster or grid level. (R361) -/
  | bar (f : EForm)
  /-- Set a guard range of a barrier or semaphore. (R363) -/
  | guard (f : EForm)
  /-- Take a semaphore token, or wait for a grant. (R364) -/
  | semp (f : EForm)
  /-- Add a count to a semaphore. (R364) -/
  | semv (f : EForm)
  /-- Enter a child group into the core's spawn queue. (R367) -/
  | spawn (f : EForm)
  /-- Create a subtree id below the current one. (R369) -/
  | subtree (f : EForm)
  /-- Cancel a subtree and every descendant. (R370) -/
  | cancel (f : EForm)
  /-- Offer per-lane scores and data to the launch's BEST pair. (R373) -/
  | bestmax (f : EForm)
  /-- Push records onto the stage queue. (R366) -/
  | qpush (f : EForm)
  /-- Pop records from the previous stage's queue. (R366) -/
  | qpop (f : EForm)
  /-- Request a new width grant. (R254) -/
  | setw (f : EForm)
  /-- Reduce the active lanes' values in tree or linear order. (R262) -/
  | reduce (f : EForm)
  /-- Inclusive or exclusive scan over the active lanes. (R263) -/
  | scan (f : EForm)
  /-- Compact the predicated lanes' values into the lowest active lanes. (R264) -/
  | compact (f : EForm)
  /-- Deposit lane records into the relay table and retire the depositing lanes. (R266) -/
  | regroup (f : EForm)
  /-- Fire matching relay buckets of the block. (R268) -/
  | regroupFlush (f : EForm)
  /-- Scoped acquire, release, AR or SC fence on the LSU path, and optionally the GSC path. (R341) -/
  | fence (f : EForm)
  /-- Order accesses of the before paths ahead of accesses of the after paths. (R343) -/
  | xfence (f : EForm)
  /-- Raise cause TRAP with a code. (R419) -/
  | trap (f : EForm)
  /-- Return from the handler, restoring state from the frame. (R420) -/
  | eret (f : EForm)
  /-- Invalidate translations by range, ASID, non-global or all scope. (R422) -/
  | tlbi (f : EForm)
  /-- Switch the group's data ASID. (R423) -/
  | asidsw (f : EForm)
  /-- Change the number of lane-private ways of a cluster-cache bank. (R424) -/
  | carve (f : EForm)
  /-- Breakpoint: trap, or stop for the debug agent. (R419) -/
  | bkpt (f : EForm)
  /-- Stand the issuing entry at the HALT blocking point. (R425) -/
  | halt (f : EForm)
  /-- Write a USER Leuth record. (R440) -/
  | trace (f : EForm)
  /-- A counted long-latency instruction completes: PEND decrements and SET is raised at zero. (R135) -/
  | instrComplete (g op : Nat)
  /-- A fault found after issue rolls the trap lanes back to their region entries and takes the trap. (R403) -/
  | deferredFault (g : Nat)
  /-- A block ends once its last group has ended and its accumulator operations are done, and its allocations are released. (R348) -/
  | blockEnd (b : Nat)
  /-- Every 4 µs each channel scrubs one 64-byte unit, correcting it or poisoning it. (R23) -/
  | dramScrub (line : Nat) (e : ErrKind)
  /-- A pending page walk starts on a free walker, oldest first. (R35) -/
  | walkStart (c : Nat)
  /-- A walk ends, installs its leaf and completes or faults its waiters. (R34) -/
  | walkComplete (c asid region : Nat)
  /-- Combined WC stores are sent to the L2 when the 256-fclk limit expires. (R29) -/
  | wcFlush (c : Nat)
  /-- An invalidation finishes its removals and waits, then sets its flag or status. (R39) -/
  | invalidationComplete (id : Nat)
  /-- A clean-copy request is taken at the directory. (R52) -/
  | rds (r : Req)
  /-- An ownership-with-data request is taken at the directory. (R52) -/
  | rdo (r : Req)
  /-- An ownership upgrade request is taken at the directory. (R52) -/
  | upg (r : Req)
  /-- An uncached read is taken at the directory. (R52) -/
  | rdu (r : Req)
  /-- An uncached write is taken at the directory. (R52) -/
  | wru (r : Req)
  /-- An atomic is taken and performed at the slice. (R52) -/
  | atm (r : Req)
  /-- A write-back of dirty sectors reaches the directory. (R52) -/
  | wb (c frame : Nat) (mask : BitVec 32) (keep : Bool)
  /-- A cache's acknowledgment of Inv or Rcl reaches the directory. (R52) -/
  | ack (c : Nat) (m : RclRef)
  /-- An invalidation reaches a cluster cache, which removes the named sectors. (R71) -/
  | inv (c : Nat) (m : RclRef) (mask : BitVec 32)
  /-- A recall reaches a cluster cache, which writes the sectors back and keeps or drops them. (R71) -/
  | rcl (c : Nat) (m : RclRef) (mask : BitVec 32) (keep : Bool)
  /-- Fill data reaches a cluster cache and is installed or delivered. (R75) -/
  | data (r : Req) (gr : Grant) (race ue : BitVec 32)
  /-- A fault reply from the directory reaches the requester. (R47) -/
  | flt (r : Req) (cause sub : Nat)
  /-- A request held at a slice for 2^22 ns is retired and answered with a fault. (R44) -/
  | l2Watchdog (frame agent age : Nat)
  /-- A host CXL.cache snoop is answered after recalling the line from cluster caches. (R55) -/
  | hostSnoop (line : Nat) (drop : Bool)
  /-- The host answers a back-invalidate snoop. (R54) -/
  | bisnpResponse (r : SnoopRes)
  /-- The host answers a device CXL.cache request for host or peer memory. (R55) -/
  | cxlCacheResponse (line : Nat) (bytes : List (BitVec 8))
  /-- Every unit has acknowledged a RECALLING entry, and the slices begin their scans. (R60) -/
  | freezeAck (h : Nat)
  /-- A slice finishes its recall scan; at the last report the entry becomes FROZEN. (R60) -/
  | freezeSliceReport (h slice : Nat)
  /-- A thaw collect reaches a cluster cache or engine port, which drops the F sectors and acknowledges. (R81) -/
  | collect (h c : Nat)
  /-- The collect and snoop acknowledgements have all arrived; the entry becomes FREE. (R64) -/
  | thawAck (h : Nat)
  /-- A queued gather or scatter enters a window when buffer entries free. (R84) -/
  | gscInputDequeue (core : Nat)
  /-- A GSC window closes 64 fclk after it opened. (R85) -/
  | gscWindowTimeout (core win : Nat)
  /-- A frame's reply reaches the GSC and writes its lanes' registers. (R87) -/
  | gscReply (core win frame : Nat) (race : BitVec 32)
  /-- All four cores hold the new window mapping; JOIN completes. (R94) -/
  | joinComplete (g op : Nat)
  /-- Accesses checked before revocation are performed; the slot frees. (R96) -/
  | leaveComplete (g op : Nat)
  /-- A queued BCE command starts when fewer than 4 are in flight. (R106) -/
  | bceStart (core : Nat)
  /-- A copy's writes are all performed: slot state, counter and flag change in order. (R107) -/
  | bceComplete (core id : Nat)
  /-- A copy stops on a translation or permission fault. (R108) -/
  | bceFault (core id cause sub addr : Nat)
  /-- After earlier ACTs finish, the table image is read and installed. (R247) -/
  | atloadComplete (core k : Nat)
  /-- A stalled accumulator instruction is accepted once queue entries free. (R281) -/
  | tschAccept (core : Nat)
  /-- An accepted accumulator operation starts on a free engine or drain path. (R282) -/
  | tschStart (core id : Nat)
  /-- A chunk's operands have arrived; its K steps are summed and RPROG advances. (R276) -/
  | matrixChunk (core id : Nat)
  /-- A load-pipe translation fault parks the operation at RPROG. (R278) -/
  | enginePark (core id : Nat)
  /-- A drain, AZERO, ASAVE or ALOAD finishes its writes. (R286) -/
  | drainComplete (core id : Nat)
  /-- A task completes: drain performed, counter decremented, flag counted. (R285) -/
  | taskComplete (core id : Nat)
  /-- An open baton batch reaches its timeout. (R299) -/
  | batonTimeout (c q : Nat)
  /-- A waiting batch proceeds once ownership passes or 32 ring entries are free. (R299) -/
  | batonResume (c q : Nat)
  /-- A stalled LEAF is accepted when the batches can take all its rows. (R301) -/
  | leafAccept (c q : Nat)
  /-- An octree node read returns and the query's walk proceeds. (R311) -/
  | cqeNodeRead (c id : Nat)
  /-- A query parks on a translation fault. (R315) -/
  | cqePark (c id : Nat)
  /-- A relay bucket fires 2 µs after its first record. (R267) -/
  | relayTimeout (core id : Nat)
  /-- A fired bucket's group is placed and starts at the target PC. (R267) -/
  | relayGroupPlace (core id : Nat)
  /-- The head of the spawn queue is placed as a child group. (R367) -/
  | spawnPlace (core : Nat)
  /-- An arrival is counted after its guard write-back. (R360) -/
  | barrierArrival (g : Nat) (bar : BarRef)
  /-- After the guard-range drop, the waiters of the phase proceed. (R82) -/
  | phasePass (g : Nat) (bar : BarRef)
  /-- A SEMV's count is added after its write-back. (R364) -/
  | semvAdd (b k : Nat)
  /-- Waiting QPUSH records enter a queue with room. (R366) -/
  | stageQueuePush (l k : Nat)
  /-- TIME reaches DEADLINE.AT, and subtree 0 is cancelled. (R372) -/
  | deadlineExpiry (l : Nat)
  /-- An eligible group idle for 4096 aclk rises one priority level. (R387) -/
  | priorityAging (g : Nat)
  /-- A group ineligible for WDOG ns takes WATCHDOG. (R395) -/
  | groupWatchdog (g : Nat)
  /-- The time slice expires, making pre-emption pending for another context's waiting group. (R411) -/
  | tsliceExpiry (core : Nat)
  /-- A group with a pending pre-emption at a blocking point is saved to the pool. (R412) -/
  | groupSave (g : Nat)
  /-- A saved group whose wake condition holds is restored. (R412) -/
  | groupRestore (g : Nat)
  /-- The watcher re-reads a queue's tail line after its copy is removed. (R378) -/
  | tailLineReread (q : Nat)
  /-- A due launch record returns and is checked, pended or sent to admission. (R379) -/
  | launchRecordRead (q : Nat)
  /-- Waiting blocks are placed on cores once they fit. (R386) -/
  | blockPlace (l : Nat)
  /-- A finished launch writes its completion record and decrements its SC counters. (R390) -/
  | launchComplete (l : Nat)
  /-- A rewritten class mask takes effect once the class has no incomplete launch. (R383) -/
  | resvTakeEffect (c : Nat)
  /-- A host write to QCFG; setting EN resets HEAD, CTAIL and CHEAD. (R377) -/
  | qcfgWrite (q : Nat) (v : BitVec 64)
  /-- The host writes CHEAD, freeing completion-ring room for buffered records. (R377) -/
  | qptrWrite (q : Nat) (v : BitVec 64)
  /-- The host writes a launch counter. (R382) -/
  | launchCounterWrite (c : Nat) (v : BitVec 64)
  /-- The host writes a class reservation mask. (R383) -/
  | resvWrite (c : Nat) (v : BitVec 64)
  /-- The host writes a class's minimum deadline, clamped to 4000. (R383) -/
  | mindlWrite (c : Nat) (v : BitVec 64)
  /-- The host writes SAVEBASE or SAVESIZE, ignored while any group is saved. (R413) -/
  | savePoolWrite (ofs : Nat) (v : BitVec 64)
  /-- The host writes a context-table entry, ignored while the context has an incomplete launch. (R414) -/
  | contextTableWrite (asid dw : Nat) (v : BitVec 64)
  /-- The chip-scratchpad layout is rewritten and the spike queues emptied. (R470) -/
  | cspcfgWrite (v : BitVec 64)
  /-- A receive-port configuration write; setting EN clears counts and records the enable time. (R471) -/
  | rxcfgWrite (p : Nat) (v : BitVec 64)
  /-- A new transmit TAIL is written. (R473) -/
  | txtailWrite (t : Nat) (v : BitVec 64)
  /-- A transmit port reads a descriptor and sends its frame. (R473) -/
  | txSendDescriptor (t : Nat)
  /-- A trace configuration write; setting EN clears WIX and CONS. (R433) -/
  | trcfgWrite (v : BitVec 64)
  /-- A write freezes the event recorders, or resumes them and clears CAUSE. (R436) -/
  | rfrzWrite (v : BitVec 64)
  /-- Stop the named groups at their next run boundary. (R428) -/
  | dbgstop (v : BitVec 64)
  /-- Resume the named stopped groups. (R428) -/
  | dbgres (v : BitVec 64)
  /-- A host write to a register without behaviour of its own, applied by its access rule. (R6) -/
  | regWrite (ofs : Nat) (v : BitVec 64)
  /-- Host command 0x01: invalidate by ASID and range. (R469) -/
  | hcmdTlbiRange (seq : BitVec 8)
  /-- Host command 0x02: invalidate one ASID. (R469) -/
  | hcmdTlbiAsid (seq : BitVec 8)
  /-- Host command 0x03: invalidate every non-global entry. (R469) -/
  | hcmdTlbiNonglobal (seq : BitVec 8)
  /-- Host command 0x04: invalidate every entry. (R469) -/
  | hcmdTlbiAll (seq : BitVec 8)
  /-- Host command 0x10: force a freeze entry to thaw. (R469) -/
  | frzkill (seq : BitVec 8)
  /-- Host command 0x20: one I3C private transfer. (R475) -/
  | hcmdI3cTransfer (seq : BitVec 8) (nack : Bool) (bytes : List (BitVec 8))
  /-- Host command 0x30: write a signed attestation report. (R477) -/
  | attest (seq : BitVec 8) (sig : List (BitVec 8))
  /-- Host command 0x31: write the identity certificate. (R469) -/
  | idcert (seq : BitVec 8) (cert : List (BitVec 8))
  /-- A host command finishes, and HCSTAT shows its SEQ and RESULT. (R468) -/
  | hcmdComplete (seq result : BitVec 8)
  /-- A frame-start packet takes ring slot WIX, or drops the frame when the ring is full. (R472) -/
  | csiFrameStart (p vc : Nat) (fnum : BitVec 16)
  /-- A long packet's payload is written into the frame slot. (R472) -/
  | csiLongPacket (p vc dt : Nat) (bad : Bool) (bytes : List (BitVec 8))
  /-- A frame end writes the header, raises WIX and decrements the EOF counter. (R472) -/
  | csiFrameEnd (p vc : Nat)
  /-- A link or fabric retry is counted. (R466) -/
  | linkRetry
  /-- Every SPER × 64 aclk a core samples an issue slot and writes a SAMPLE record. (R434) -/
  | traceSample (core : Nat)
  /-- The board controller sets the power limit, clamped to 180–320 W. (R474) -/
  | i3cPlimWrite (v : BitVec 16)
  /-- RESET register value 0x5A01 warm-resets the part. (R474) -/
  | i3cWarmReset (img : BootImage)
  /-- RESET register value 0x5A02 cold-resets the part. (R474) -/
  | i3cColdReset (img : BootImage)
  /-- RECOV bits request RECOVERY at the next reset, or request RETAIN. (R479) -/
  | i3cRecovWrite (v : BitVec 16)
  /-- A burst streams a firmware image in RECOVERY; the complete image is verified and stored. (R476) -/
  | rdata (bytes : List (BitVec 8)) (last sigOk : Bool)
  /-- A reset ends all launches; the boot ROM verifies the firmware and starts it, or enters RECOVERY. (R476) -/
  | reset (img : BootImage)
  /-- A junction at 105 °C sets ALERT bit 0. (R479) -/
  | thermalAlert (tj : BitVec 16)
  /-- A junction at 115 °C resets the part. (R479) -/
  | thermalReset (tj : BitVec 16) (img : BootImage)
  /-- The aclk governor steps the clock to hold power and temperature. (R479) -/
  | governorStep (up : Bool) (tj pwr : BitVec 16)
  /-- After 100 µs without a launch the part enters IDLE. (R479) -/
  | idleEntry
  /-- 50 µs after the RETAIN request clears, the part leaves RETAIN. (R479) -/
  | retainExit
  /-- SRAM scrubbing reads every word within 10 s, counting or poisoning errors. (R478) -/
  | sramScrub (cls idx : Nat) (e : ErrKind)
  /-- A read of 64-byte units from DRAM returns to the L2 slice, is checked by inline ECC (corrected and written back, or poisoned), installed, and answers the waiting transaction. (R42) -/
  | dramFill (line : Nat) (e : ErrKind)
  /-- A host write of HCMD with GO = 1 and an OP that R469 does not list runs a command that ends with RESULT 0x01. (R468) -/
  | hcmdBadOp (op seq : BitVec 8)
  /-- The board controller writes the I3C ALERT register, clearing the bits written as 1, which may end the in-band interrupt and MSI-X vector 3 condition. (R474) -/
  | alertClear (v : BitVec 16)
  /-- The board controller assigns the I3C target a dynamic address, after which it no longer answers at static address 0x2C. (R474) -/
  | dynamicAddressAssign (a : BitVec 7)  deriving DecidableEq, Repr

end Sys2Proof
end

