-- ==== Sys2Proof/Machine/Fields.lean ====
section
/-!
DEFINITION. The field rules of the instruction words: what each E-form opcode does with every field (06 R117, R125 to R129,
R138, R144 to R150 and the encoding table of each entry), the registers an encoding names, and the E-form each B-form means
(R129, R149). Instructions are named here by OP10, as the opcode map names them (R145 to R148).
-/

namespace Sys2Proof.Machine

/-- What an operand field holds. `r` is a register, v or s by its S bit; `d` a destination, v or s by MOD[5]. -/
inductive Kind where
  | zero | v | s | p | r | d | imm
  deriving DecidableEq, Repr

/-- The operand a literal replaces (R127). -/
inductive LitUse where
  | none | b | c | disp | target
  deriving DecidableEq, Repr

/-- How an opcode uses FSEL (R138): short-latency, may arm a flag, must arm one, or must unless D is 63 (12 R291). -/
inductive FlagUse where
  | short | opt | dest | dest63
  deriving DecidableEq, Repr

/-- The use one opcode makes of the fields: operand kinds, assigned MOD bits, whether MOD[5] is SD, S bits accepted, and the
accepted values of TYPE, RND, SCOPE and ORD as bit masks. -/
structure OpSpec where
  d : Kind := .zero
  a : Kind := .zero
  b : Kind := .zero
  c : Kind := .zero
  e : Kind := .zero
  mod : Nat := 0
  sd : Bool := false
  types : Nat := 1
  rnd : Nat := 1
  sat : Bool := false
  scope : Nat := 1
  ord : Nat := 1
  lit : LitUse := .none
  flag : FlagUse := .short
  group : Bool := false
  deriving DecidableEq, Repr

/-- Integer TYPE codes of 09 R207. -/
def intTypes : Nat := 0xF3C1
/-- TYPE 0000, 1110, 1100 and 1101. -/
def wideTypes : Nat := 0x7001

def spInt (sat : Bool) : OpSpec := { d := .d, a := .r, b := .r, sd := true, types := intTypes, sat := sat, lit := .b }
def spImm (sat : Bool) : OpSpec := { d := .d, a := .r, b := .imm, sd := true, types := intTypes, sat := sat }
def spUn (ty : Nat) (sat : Bool) : OpSpec := { d := .d, a := .r, sd := true, types := ty, sat := sat }
def spFlt (rnd sat : Bool) : OpSpec :=
  { d := .d, a := .r, b := .r, sd := true, types := 7, rnd := if rnd then 0xF else 1, sat := sat, lit := .b }
def spLoad : OpSpec :=
  { d := .v, a := .s, b := .r, c := .imm, e := .imm, mod := 0x3F, scope := 0x1F, ord := 3, lit := .disp, flag := .dest }
def spStore : OpSpec := { spLoad with ord := 5, flag := .opt }
def spAtom : OpSpec :=
  { d := .v, a := .s, b := .r, c := .r, e := .imm, mod := 0x3F, scope := 0x1F, ord := 0xF, lit := .c, flag := .dest }
def spCas : OpSpec := { spAtom with mod := 0x38, lit := .none }
def spGrp (flag : FlagUse) : OpSpec := { flag := flag, group := true }
def spBr : OpSpec := { b := .imm, c := .imm, e := .imm, lit := .target }

/-- Class 00 (R145; 09 R212 to R225). TYPE 1111, to which R207 gives the meaning of 0000 and which some entries do not list, is taken in every
entry but those that give another TYPE a fault: LEA, ICMP and BRMH fault on it, BFE and BFI take it (log 43). -/
def opSpec0 (op : Nat) : Option OpSpec :=
  match op with
  | 0x000 | 0x001 | 0x002 => some (spInt true)
  | 0x003 | 0x005 | 0x006 => some (spInt false)
  | 0x004 => some { spInt true with c := .r }
  | 0x007 => some (spUn 0x9141 true)
  | 0x008 | 0x009 | 0x00A | 0x00B | 0x00C | 0x00D | 0x00E => some (spInt false)
  | 0x00F | 0x010 => some (spUn intTypes false)
  | 0x011 => some { d := .d, b := .imm, sd := true, types := intTypes, lit := .b }
  | 0x012 => some { d := .d, a := .r, b := .r, c := .imm, e := .imm, mod := 3, sd := true, types := wideTypes, lit := .disp }
  | 0x013 => some (spImm true)
  | 0x014 | 0x015 | 0x016 | 0x017 => some (spImm false)
  | 0x020 => some { spInt false with mod := 1 }
  | 0x021 => some { spInt false with types := 0xF001 }
  | 0x022 => some { spInt false with c := .r, types := 0xF001, lit := .c }
  | 0x023 | 0x024 | 0x025 => some (spUn intTypes false)
  | 0x026 => some { spInt false with c := .imm }
  | 0x027 => some { d := .p, e := .p, a := .r, b := .r, c := .p, mod := 0x1F, types := wideTypes, lit := .b }
  | 0x028 => some { d := .p, a := .p, b := .p, c := .p, e := .imm }
  | 0x029 => some { spInt false with c := .r, mod := 0x1F, types := wideTypes }
  | _ => none

/-- Class 01 (R146; 10 R230). -/
def opSpec1 (op : Nat) : Option OpSpec :=
  match op with
  | 0x100 | 0x101 | 0x102 => some (spFlt true true)
  | 0x103 => some { spFlt true true with c := .r }
  | 0x104 | 0x105 => some (spFlt false false)
  | 0x106 | 0x107 | 0x108 | 0x109 | 0x10A | 0x10B | 0x10C | 0x10D | 0x10E => some (spUn 7 false)
  | 0x120 => some { d := .p, e := .p, a := .r, b := .r, c := .p, mod := 0x1F, types := 7, lit := .b }
  | 0x121 => some { spFlt true true with c := .r, types := 6 }
  | 0x122 => some { spFlt true true with c := .r, types := 0x18 }
  | 0x123 => some { spUn 0xFFFF true with c := .imm, mod := 0xF, rnd := 0xF }
  | 0x124 => some { spFlt false true with c := .imm, mod := 0xF, types := 0x3F }
  | 0x125 => some { spUn 7 false with rnd := 0xF }
  | 0x126 => some { d := .v, a := .r, b := .r, lit := .b }
  | 0x127 | 0x128 | 0x129 | 0x12A | 0x12B => some (spUn 7 false)
  | 0x12C => some { spUn 7 false with c := .imm }
  | 0x12D => some { spGrp .opt with a := .s, c := .imm }
  | 0x12E => some { spGrp .short with d := .s, c := .imm }
  | _ => none

/-- Class 10 (R147; 07 R165 to R182, 12 R291, 13 R304). -/
def opSpec2 (op : Nat) : Option OpSpec :=
  match op with
  | 0x200 | 0x202 | 0x204 | 0x206 | 0x208 => some spLoad
  | 0x201 | 0x203 | 0x205 | 0x207 | 0x209 => some spStore
  | 0x20A => some { spLoad with ord := 1, scope := 0x18 }
  | 0x20B => some { spStore with ord := 1, scope := 0x18 }
  | 0x20C => some { spLoad with d := .zero, flag := .opt }
  | 0x240 | 0x241 | 0x242 => some { spGrp .opt with a := .s, b := .s }
  | 0x243 => some { spGrp .dest with d := .s, a := .s, b := .s }
  | 0x244 => some { spGrp .opt with a := .s, e := .imm }
  | 0x245 => some { spGrp .dest with d := .s, a := .s }
  | 0x246 => some { spGrp .dest with d := .s, a := .s, b := .s, c := .imm }
  | 0x247 => some (spGrp .opt)
  | 0x248 => some { spGrp .opt with d := .imm, a := .s, b := .s, mod := 1 }
  | 0x249 | 0x24A => some { spGrp .opt with d := .imm, a := .s, b := .s, c := .imm, e := .imm, mod := 1 }
  | 0x24B => some { spGrp .dest with d := .s, a := .imm, mod := 1 }
  | 0x250 | 0x251 | 0x252 | 0x253 => some spAtom
  | 0x254 | 0x255 | 0x256 | 0x257 => some spCas
  | 0x260 => some { spGrp .opt with a := .s, b := .s, c := .s, e := .s, mod := 3 }
  | 0x261 => some { spGrp .opt with a := .s }
  | 0x262 => some { spGrp .dest63 with d := .s, b := .imm, c := .imm, mod := 3, lit := .b }
  | 0x263 => some { spGrp .opt with a := .s }
  | 0x264 => some { spGrp .opt with a := .s, b := .s, c := .s, e := .s, mod := 1, scope := 0x1F }
  | 0x265 => some { spGrp .dest63 with d := .s, a := .s }
  | 0x266 | 0x267 => some { spGrp .opt with a := .s, b := .s, scope := 0x1F }
  | 0x268 => some { spGrp .opt with a := .s, c := .imm }
  | 0x269 => some { d := .imm, a := .v, c := .imm, mod := 1, flag := .opt }
  | 0x26A => some { spGrp .opt with c := .imm }
  | 0x270 | 0x271 | 0x272 => some { d := .imm, a := .v, b := .s, c := .s, flag := .opt }
  | 0x273 | 0x274 => some { d := .v, a := .imm, c := .p, e := .p, mod := 1, flag := .dest }
  | 0x275 => some { a := .imm, flag := .opt }
  | 0x276 => some { spGrp .opt with a := .s, b := .s, mod := 1 }
  | 0x277 => some { a := .v, b := .v, flag := .opt }
  | 0x278 => some { spGrp .dest with d := .s, a := .s }
  | 0x279 => some { d := .v, c := .imm, e := .p, flag := .dest }
  | 0x27A => some { spGrp .dest with d := .s, c := .imm, mod := 3 }
  | 0x27B => some { d := .v, c := .imm, flag := .dest }
  | 0x27C => some { a := .v, c := .imm, flag := .opt }
  | 0x27D => some { spGrp .opt with d := .s, a := .s, c := .imm, mod := 1 }
  | _ => none

/-- Class 11 (R148; 11 R253 to R268, 14 R340, R343, 15 R353, 17 R417 to R425, 18 R440). -/
def opSpec3 (op : Nat) : Option OpSpec :=
  match op with
  | 0x300 => some spBr
  | 0x301 => some { spBr with d := .v }
  | 0x302 | 0x304 => some { a := .r }
  | 0x303 => some {}
  | 0x305 | 0x306 => some { group := true }
  | 0x308 | 0x30B => some { d := .v, a := .v, b := .r, mod := 2, types := 0x3001 }
  | 0x309 | 0x30A => some { d := .v, a := .v, b := .r, mod := 3, types := 0x3001 }
  | 0x30C => some { d := .d, a := .v, b := .imm, mod := 0x22, types := wideTypes }
  | 0x30D => some { d := .p, a := .p, mod := 7 }
  | 0x30E => some { d := .d, c := .p, mod := 0x23 }
  | 0x310 => some { d := .d, b := .imm, c := .imm, mod := 1 }
  | 0x311 => some { a := .s, b := .imm, c := .imm }
  | 0x340 | 0x341 => some { c := .imm }
  | 0x342 => some { spGrp .short with d := .s, a := .s, c := .imm, mod := 0xF }
  | 0x343 => some { spGrp .opt with a := .s, b := .s, c := .imm, e := .imm, mod := 0xC }
  | 0x344 => some { spGrp .short with c := .imm }
  | 0x345 => some { spGrp .short with b := .imm, c := .imm, mod := 2 }
  | 0x346 => some { spGrp .opt with a := .s, b := .s, e := .imm }
  | 0x347 => some { spGrp .short with d := .s }
  | 0x348 => some { spGrp .opt with a := .s }
  | 0x349 => some { a := .r, b := .r, flag := .opt }
  | 0x34A => some { a := .v, flag := .opt }
  | 0x34B => some { d := .v, e := .p, flag := .dest }
  | 0x350 => some { d := .s, b := .imm, mod := 2 }
  | 0x351 => some { d := .d, a := .v, mod := 0x3F, types := wideTypes, rnd := 0xF }
  | 0x352 => some { d := .v, a := .v, mod := 0x1F, types := wideTypes, rnd := 0xF }
  | 0x353 => some { d := .v, a := .v, e := .p, mod := 1, types := 0x3001 }
  | 0x354 => some { d := .v, a := .v, c := .p, e := .s, types := 0x3001 }
  | 0x355 => some { a := .v, b := .s, c := .s, mod := 7 }
  | 0x356 => some { spGrp .short with b := .s }
  | 0x360 => some { spGrp .opt with mod := 3, scope := 0x1F, ord := 0xE }
  | 0x361 => some { spGrp .opt with b := .imm, c := .imm, scope := 0x1F }
  | 0x370 | 0x375 => some { b := .imm }
  | 0x371 => some {}
  | 0x372 => some { spGrp .opt with a := .s, b := .s, c := .s, mod := 3 }
  | 0x373 => some { spGrp .short with d := .s, a := .s }
  | 0x374 => some { spGrp .dest with d := .s, a := .s }
  | 0x376 => some (spGrp .short)
  | 0x377 => some { spGrp .short with a := .s, b := .imm }
  | _ => none

/-- The field use of an OP10 value, or none where the value is unassigned (R143, R145 to R148). -/
def opSpec (op : Nat) : Option OpSpec :=
  match op / 256 with
  | 0 => opSpec0 op
  | 1 => opSpec1 op
  | 2 => opSpec2 op
  | 3 => opSpec3 op
  | _ => none

/-- TYPE names a 64-bit format (08 R184). -/
def is64 (ty : Nat) : Bool := ty == 12 || ty == 13

/-- Element width of a TYPE code (08 R184). -/
def typeWidth (ty : Nat) : Nat :=
  match ty with
  | 1 | 2 | 6 | 7 => 16
  | 3 | 4 | 8 | 9 => 8
  | 5 | 10 | 11 => 4
  | 12 | 13 => 64
  | _ => 32

/-- Slots(w) of 10 R236. -/
def slotsOf (w : Nat) : Nat := if w == 64 then 1 else 32 / w

/-- SIZE of a load or store in bytes (07 R165); 0 where reserved. -/
def sizeBytes (n : Nat) : Nat :=
  match n with
  | 0 => 4 | 1 => 1 | 2 => 2 | 3 => 8 | 4 => 16 | _ => 0

/-- The counter field E of TCOPY, TSTORE and THAW is well-formed (07 R163). -/
def dcOk (e : BitVec 8) : Bool := e == 0 || (128 ≤ e.toNat && e.toNat < 192)

/-- The entry's own conditions on fields beyond the table of kinds; false is ILLEGAL, BAD_FIELD. -/
def fieldsExtra (op : Nat) (f : EForm) : Bool :=
  let c := f.c.toNat
  let sz := f.modBits 2 0
  match op with
  | 0x026 => !f.modBit 5 || f.sc
  | 0x027 | 0x120 => f.modBits 2 0 ≤ (if op == 0x120 then 6 else 5) && f.modBits 4 3 ≠ 3 && (f.modBits 4 3 ≠ 0 || c == 0)
      && (f.d ≠ f.e || f.d == 15)
  | 0x123 | 0x124 =>
      let ss := slotsOf (typeWidth (f.modBits 3 0))
      let sd := slotsOf (typeWidth f.type.toNat)
      if f.modBit 5 then c == 0 else c < max ss sd / min ss sd
  | 0x12C | 0x12D | 0x12E | 0x340 | 0x341 => c < 8
  | 0x200 | 0x202 | 0x204 | 0x206 | 0x208 => sz ≤ 4 && (!f.modBit 3 || sz == 1 || sz == 2)
  | 0x201 | 0x203 | 0x205 | 0x207 | 0x209 => sz ≤ 4 && !f.modBit 3
  | 0x20A => sz ≤ 3 && (!f.modBit 3 || sz == 1 || sz == 2)
  | 0x20B => sz ≤ 3 && !f.modBit 3
  | 0x20C => sz ≤ 4 && !f.modBit 3
  | 0x244 => dcOk f.e
  | 0x246 => c < 16
  | 0x248 => f.d.toNat < 64
  | 0x249 | 0x24A => dcOk f.e && (if f.modBit 0 then f.d == 0 else c == 0)
  | 0x24B => f.a.toNat < 64
  | 0x250 | 0x251 | 0x252 | 0x253 => f.modBits 5 4 ≤ 1 && f.modBits 3 0 ≤ 10 && (f.modBits 3 0 ≠ 10 || f.modBits 5 4 == 0)
  | 0x254 | 0x255 | 0x256 | 0x257 => f.modBits 5 4 ≤ 1
  | 0x262 => c < 64
  | 0x269 => f.d.toNat < 16 && c < 8
  | 0x270 | 0x271 | 0x272 => f.d.toNat < 16
  | 0x273 | 0x274 | 0x275 => f.a.toNat < 16
  | 0x279 | 0x27A | 0x27B | 0x27C => c < 16
  | 0x27D => c < 16 && (if f.modBit 0 then f.a == 63 else f.d == 0)
  | 0x308 | 0x309 | 0x30A | 0x30B => !(f.sb && f.modBit 1)
  | 0x30C | 0x345 | 0x350 => (f.sb != f.modBit 1) && (op ≠ 0x350 || (f.gc == 0 && f.g1 == 0))
  | 0x30E => (f.modBits 1 0 ≠ 0 || !f.modBit 5) && (f.modBits 1 0 ≠ 3 || f.modBit 5)
  | 0x342 => f.modBits 3 2 ≠ 3 && (f.modBits 1 0 == 0 || f.modBits 1 0 == 3 || f.d == 0) && (f.modBits 1 0 == 1 || f.a == 0)
  | 0x343 => f.e.toNat < 4
  | 0x346 => 4 ≤ f.e.toNat && f.e.toNat ≤ 64
  | 0x351 | 0x352 =>
      let o := f.modBits 3 0
      (o ≤ 5 || (8 ≤ o && o ≤ 10)) && (o ≤ 5 || f.type == 0) && (o == 8 || f.rnd == 0)
  | 0x360 => !f.modBit 0 || f.ord == 3
  | 0x361 => f.b ≠ 0 && f.c ≠ 0 && f.b.toNat < 128 && c < 32
  | 0x372 => (f.modBits 1 0 == 0 || (f.a == 0 && f.b == 0)) && (f.modBits 1 0 ≤ 1 || f.c == 0)
  | 0x377 => f.b.toNat < 128
  | _ => true

/-- S bits the opcode accepts: operands of kind `r`, and the exceptions that R162 and the entries name. -/
def sBitsOk (op : Nat) (sp : OpSpec) (f : EForm) : Bool :=
  (!f.sa || (sp.a == .r)) &&
  (!f.sb || (sp.b == .r && !(f.lit.isSome && sp.lit == .b)) || op == 0x345 || op == 0x350 || op == 0x30C) &&
  (!f.sc || (sp.c == .r && !(f.lit.isSome && sp.lit == .c)) || op == 0x026)

/-- In the scalar half no register operand may be a v register (R117). -/
def halfOk (sp : OpSpec) (f : EForm) : Bool :=
  !(sp.sd && f.modBit 5) ||
    ((sp.a ≠ .r || f.sa) && (sp.b ≠ .r || f.sb || (f.lit.isSome && sp.lit == .b)) &&
     (sp.c ≠ .r || f.sc || (f.lit.isSome && sp.lit == .c)))

/-- The literal is allowed, and the field it replaces is zero (R127). -/
def litOk (sp : OpSpec) (f : EForm) : Bool :=
  match f.lit, sp.lit with
  | none, _ => true
  | some _, .none => false
  | some _, .b => f.b == 0
  | some _, .c => f.c == 0
  | some _, .disp => f.c == 0 && f.e == 0
  | some _, .target => f.b == 0 && f.c == 0 && f.e == 0

/-- The immediate MOD bit of TDEP excludes the literal form; otherwise its B is an s register (12 R294). -/
def immOk (op : Nat) (f : EForm) : Bool :=
  op ≠ 0x262 || !f.lit.isSome || !f.modBit 1

/-- No field breaks a rule that gives ILLEGAL, BAD_FIELD (R126 to R128, R150). -/
def fieldsOk (op : Nat) (sp : OpSpec) (f : EForm) : Bool :=
  !f.z && f.gc.toNat < 6 && (2 ≤ f.gc.toNat || f.g1 == 0) && f.fsel ≠ 3 &&
  (sp.d ≠ .zero || f.d == 0) && (sp.a ≠ .zero || f.a == 0) && (sp.b ≠ .zero || f.b == 0) &&
  (sp.c ≠ .zero || f.c == 0) && (sp.e ≠ .zero || f.e == 0) &&
  sp.types.testBit f.type.toNat && sp.rnd.testBit f.rnd.toNat && (sp.sat || !f.sat) &&
  sp.scope.testBit f.scope.toNat && sp.ord.testBit f.ord.toNat &&
  (f.mod.toNat &&& (63 - (sp.mod ||| (if sp.sd then 32 else 0)))) == 0 &&
  sBitsOk op sp f && halfOk sp f && litOk sp f && immOk op f &&
  (sp.flag ≠ .short || f.fsel == 0) && fieldsExtra op f

/-- The kind of register file an operand names. -/
inductive RegKind where
  | v | s | p
  deriving DecidableEq, Repr

/-- A use of `cnt` consecutive registers from `n`, which must be a multiple of `al`; `wr` when the instruction writes them. -/
structure RegUse where
  k : RegKind
  n : Nat
  cnt : Nat
  al : Nat
  wr : Bool
  deriving DecidableEq, Repr

def useV (n : BitVec 8) (cnt al : Nat) (wr : Bool) : RegUse := ⟨.v, n.toNat, cnt, al, wr⟩
def useS (n : BitVec 8) (wr : Bool) : RegUse := ⟨.s, n.toNat, 1, 1, wr⟩
def useP (n : BitVec 8) (wr : Bool) : RegUse := ⟨.p, n.toNat, 1, 1, wr⟩

/-- The register use of one operand field of kind `k`, `w` registers wide. -/
def useOf (k : Kind) (n : BitVec 8) (sbit : Bool) (w : Nat) (wr : Bool) : List RegUse :=
  match k with
  | .v => [useV n w w wr]
  | .s => [useS n wr]
  | .p => [useP n wr]
  | .r | .d => if sbit then [useS n wr] else [useV n w w wr]
  | .zero | .imm => []

/-- Registers the generic operands name, `w` v registers per operand. -/
def usesGen (sp : OpSpec) (f : EForm) (w : Nat) : List RegUse :=
  useOf sp.d f.d (f.modBit 5) w true ++ useOf sp.a f.a f.sa w false ++
  (if f.lit.isSome && sp.lit == .b then [] else useOf sp.b f.b f.sb w false) ++
  (if f.lit.isSome && sp.lit == .c then [] else useOf sp.c f.c f.sc w false) ++
  useOf sp.e f.e false w (sp.e == .p)

/-- v registers a memory access of N bytes occupies (07 R165). -/
def dataRegs (n : Nat) : Nat := max (n / 4) 1

/-- The registers an encoding names, read or written, as its entry states. Registers whose number depends on the machine's
state (a stage-queue record, a LEAF row) are checked by the instruction itself. -/
def regUses (op : Nat) (f : EForm) : List RegUse :=
  match opSpec op with
  | none => []
  | some sp =>
    let w := if is64 f.type.toNat then 2 else 1
    let n := sizeBytes (f.modBits 2 0)
    let aw := f.modBits 5 4 + 1
    let sB := useOf .r f.b f.sb 1 false
    let sA := useS f.a false
    let aR := useOf .r f.a f.sa 2 false
    match op with
    | 0x012 => useOf .d f.d (f.modBit 5) 2 true ++ aR ++ useOf .r f.b f.sb w false
    | 0x026 => usesGen sp f w ++ (if f.sc then [useS f.c false] else [useP f.c false])
    | 0x027 | 0x120 => [useP f.d true, useP f.e true] ++ (if f.modBits 4 3 == 0 then [] else [useP f.c false]) ++ useOf .r f.a f.sa w false ++
        (if f.lit.isSome then [] else useOf .r f.b f.sb w false)
    | 0x123 | 0x124 =>
        let sw := if is64 (f.modBits 3 0) then 2 else 1
        useOf .d f.d (f.modBit 5) w true ++ useOf .r f.a f.sa sw false ++
        (if op == 0x124 && !f.lit.isSome then sB else [])
    | 0x126 => [useV f.d 4 4 true] ++ aR ++ (if f.lit.isSome then [] else useOf .r f.b f.sb 2 false)
    | 0x200 | 0x202 | 0x204 | 0x206 | 0x208 | 0x20A => [useV f.d (dataRegs n) (dataRegs n) true, sA] ++ sB
    | 0x201 | 0x203 | 0x205 | 0x207 | 0x209 | 0x20B => [useV f.d (dataRegs n) (dataRegs n) false, sA] ++ sB
    | 0x20C => [sA] ++ sB
    | 0x249 | 0x24A => [sA, useS f.b false] ++ (if f.modBit 0 then [useS f.c false] else [])
    | 0x250 | 0x251 | 0x252 | 0x253 => [useV f.d aw aw true, sA] ++ sB ++ (if f.lit.isSome then [] else useOf .r f.c f.sc aw false)
    | 0x254 | 0x255 | 0x256 | 0x257 => [useV f.d aw aw true, sA] ++ sB ++ useOf .r f.c f.sc aw false ++
        useOf .r f.e (f.modBit 3) aw false
    | 0x262 => [useS f.d true] ++ (if f.modBit 1 || f.lit.isSome then [] else [useS f.b false])
    | 0x264 | 0x260 => [sA, useS f.b false, useS f.c false, useS f.e false]
    | 0x270 => [useV f.a 6 1 false, useS f.b false, useS f.c false]
    | 0x271 | 0x272 => [useV f.a 7 1 false, useS f.b false, useS f.c false]
    | 0x273 | 0x274 => [useV f.d 2 2 true, useP f.c true, useP f.e true]
    | 0x279 => [useV f.d 2 2 true, useP f.e true]
    | 0x27B => [useV f.d 2 2 true]
    | 0x27C => [useV f.a 2 2 false]
    | 0x27D => if f.modBit 0 then [useS f.d true] else [sA]
    | 0x301 => [useV f.d 2 2 true]
    | 0x302 | 0x304 => aR
    | 0x308 | 0x309 | 0x30A | 0x30B => [useV f.d w w true, useV f.a w w false] ++ (if f.modBit 1 then [] else sB)
    | 0x30C => useOf .d f.d (f.modBit 5) w true ++ [useV f.a w w false] ++ (if f.sb then [useS f.b false] else [])
    | 0x30D => (if f.modBits 1 0 == 3 then [useS f.d true] else [useP f.d true]) ++ [useP f.a false]
    | 0x310 => if f.modBit 0 then [useV f.d 1 1 true] else [useS f.d true]
    | 0x342 => (if f.modBits 1 0 == 0 || f.modBits 1 0 == 3 then [useS f.d true] else []) ++
        (if f.modBits 1 0 == 1 then [sA] else [])
    | 0x345 => if f.sb then [useS f.b false] else []
    | 0x349 => useOf .r f.a f.sa 1 false ++ sB
    | 0x34B => [useV f.d 1 1 true, useP f.e true]
    | 0x350 => [useS f.d true] ++ (if f.sb then [useS f.b false] else [])
    | 0x353 => [useV f.d 2 2 true, useV f.a w w false, useP f.e true]
    | 0x354 => [useV f.d w w true, useV f.a w w false, useP f.c false, useS f.e true]
    | 0x355 => [useV f.a (f.modBits 2 0 + 1) 1 false, useS f.b false, useS f.c false]
    | 0x372 => (if f.modBits 1 0 == 0 then [sA, useS f.b false] else []) ++ (if f.modBits 1 0 ≤ 1 then [useS f.c false] else [])
    | _ => usesGen sp f w

/-- An s or p field holds a number its kind has (R117). -/
def RegUse.numOk (u : RegUse) : Bool :=
  match u.k with
  | .v => true
  | .s => u.n < 64
  | .p => u.n < 16

/-- The register a v number names under REGS (R116), or none; v240 to v255 are the last sixteen of every allocation (log 70). -/
def vReg (regs n : Nat) : Option Nat :=
  if 240 ≤ n && n < 256 then (if regs < 256 then some (regs - 16 + (n - 240)) else some n)
  else if n < regs then some n
  else none

/-- Every v register of the use lies within the allocation (R116). -/
def RegUse.rangeOk (regs : Nat) (u : RegUse) : Bool :=
  match u.k with
  | .v => (List.range u.cnt).all fun j => (vReg regs (u.n + j)).isSome
  | _ => true

/-- A v operand of several registers starts at a multiple of its alignment (R116, R165). -/
def RegUse.alignOk (u : RegUse) : Bool :=
  match u.k with
  | .v => u.n % u.al == 0
  | _ => true

/-- The encoding breaks no rule that can be checked without the machine's state: WellFormed's content. -/
def staticOk (op : Nat) (f : EForm) : Bool :=
  match opSpec op with
  | none => false
  | some sp => fieldsOk op sp f && (regUses op f).all fun u => u.numOk && u.alignOk

/-- The subcode of ILLEGAL the encoding raises at issue under REGS and the flag it arms, in this order (17 R397; log 4): BAD_OP 1,
BAD_FIELD 2, BAD_REG 3, REG_ALIGN 5, REG_RANGE 4, NO_FLAG 9. -/
def illegalSub (op : Nat) (f : EForm) (regs : Nat) (arms : Bool) : Option Nat :=
  match opSpec op with
  | none => some 1
  | some sp =>
    let us := regUses op f
    let need := match sp.flag with
      | .dest => true
      | .dest63 => f.d ≠ 63
      | .opt => op == 0x27D && f.modBit 0
      | .short => false
    if !fieldsOk op sp f then some 2
    else if !us.all RegUse.numOk then some 3
    else if !us.all RegUse.alignOk then some 5
    else if !us.all (RegUse.rangeOk regs) then some 4
    else if need && !arms then some 9
    else none

/-- A 6-bit field zero-extended to the 8 bits of the E-form field. -/
def zx6 (x : BitVec 6) : BitVec 8 := x.setWidth 8
/-- A 6-bit field sign-extended to the 8 bits of the E-form field. -/
def sx6 (x : BitVec 6) : BitVec 8 := x.signExtend 8

/-- The E-form with every field at its B-form default (R129). -/
def bBase (f : BForm) : EForm :=
  { g0 := f.g, a := zx6 f.a, d := zx6 f.d, z := false, gc := 0, g1 := 0, e := 0, c := 0, b := zx6 f.b, mod := 0, span := 0,
    cache := 0, fsel := 0, sc := false, sb := false, sa := false, ord := 0, scope := 0, sat := false, rnd := 0, type := 0,
    lit := none }

/-- OFS18 or OFS12 of a B-form branch as the 24-bit offset of the E-form (15 R354). -/
def ofs24 (w : Nat) (x : Nat) : BitVec 24 := (BitVec.ofNat w x).signExtend 24

/-- The E-form a B-form means (R129, R144, R149, 11 R257, 15 R354, 17 R417). -/
def bToE (op : Nat) (f : BForm) : EForm :=
  let base := bBase f
  if op < 0x200 then
    let h := f.h
    let md : BitVec 6 := if h then 32 else 0
    match op with
    | 0x004 | 0x103 => { base with mod := md, sa := h, sb := h, sc := h, c := zx6 f.d }
    | 0x007 | 0x00F | 0x010 | 0x106 | 0x107 | 0x108 | 0x109 | 0x10A | 0x10B | 0x10C | 0x10D | 0x10E =>
        { base with mod := md, sa := h }
    | 0x011 => { base with mod := md, b := sx6 f.b }
    | 0x013 => { base with mod := md, sa := h, b := sx6 f.b }
    | 0x014 | 0x015 | 0x016 | 0x017 => { base with mod := md, sa := h }
    | _ => { base with mod := md, sa := h, sb := h }
  else if op < 0x300 then { base with scope := 3, fsel := 1 }
  else
    match op with
    | 0x300 =>
        let o := ofs24 18 (f.d.toNat + 64 * f.a.toNat + 4096 * f.b.toNat)
        { base with d := 0, a := 0, b := o.extractLsb' 0 8, c := o.extractLsb' 8 8, e := o.extractLsb' 16 8 }
    | 0x301 =>
        let o := ofs24 12 (f.a.toNat + 64 * f.b.toNat)
        { base with a := 0, b := o.extractLsb' 0 8, c := o.extractLsb' 8 8, e := o.extractLsb' 16 8 }
    | 0x309 | 0x30A | 0x30B | 0x30C => { base with mod := 2 }
    | 0x310 => { base with a := 0, b := BitVec.ofNat 8 (f.a.toNat + 64 * f.b.toNat), c := BitVec.ofNat 8 (f.b.toNat / 4) }
    | 0x311 => { base with d := 0, b := BitVec.ofNat 8 (f.d.toNat + 64 * f.b.toNat), c := BitVec.ofNat 8 (f.b.toNat / 4) }
    | _ => base

end Sys2Proof.Machine
end

