-- ==== Sys2Proof/WellFormed.lean ====
section
/-!
DEFINITION. Which instructions are well formed: the encoding breaks no rule that can be checked without the machine's
state (06 R117, R125 to R129, R150; 06 R134 for run headers); the numbers of an agent step name units that exist (01 R12).
-/

namespace Sys2Proof

open Sys2Proof.Machine

/-- A run header that breaks no rule of its own fields (06 R134). -/
def headerOk (h : HForm) : Bool :=
  (1 ≤ h.len.toNat && h.len.toNat ≤ 24) && (h.setA.toNat < 12 || h.setA == 15) && (h.setB.toNat < 12 || h.setB == 15)

/-- A B-form whose E-form (R129) is well formed; in classes 10 and 11 bit 7 belongs to the opcode. -/
def bFormOk (op : Nat) (f : BForm) : Bool := staticOk op (bToE op f) && (op < 0x200 || !f.h)

/-- The static rules of every instruction and step. -/
def wellFormed (i : Instr) : Bool :=
  match i with
  | .run h => headerOk h
  | .iaddB f => bFormOk 0x000 f
  | .iaddE f => staticOk 0x000 f
  | .isubB f => bFormOk 0x001 f
  | .isubE f => staticOk 0x001 f
  | .imulB f => bFormOk 0x002 f
  | .imulE f => staticOk 0x002 f
  | .imulhB f => bFormOk 0x003 f
  | .imulhE f => staticOk 0x003 f
  | .imadB f => bFormOk 0x004 f
  | .imadE f => staticOk 0x004 f
  | .iminB f => bFormOk 0x005 f
  | .iminE f => staticOk 0x005 f
  | .imaxB f => bFormOk 0x006 f
  | .imaxE f => staticOk 0x006 f
  | .iabsB f => bFormOk 0x007 f
  | .iabsE f => staticOk 0x007 f
  | .andB f => bFormOk 0x008 f
  | .andE f => staticOk 0x008 f
  | .orB f => bFormOk 0x009 f
  | .orE f => staticOk 0x009 f
  | .xorB f => bFormOk 0x00A f
  | .xorE f => staticOk 0x00A f
  | .andnB f => bFormOk 0x00B f
  | .andnE f => staticOk 0x00B f
  | .shlB f => bFormOk 0x00C f
  | .shlE f => staticOk 0x00C f
  | .shrB f => bFormOk 0x00D f
  | .shrE f => staticOk 0x00D f
  | .sarB f => bFormOk 0x00E f
  | .sarE f => staticOk 0x00E f
  | .notB f => bFormOk 0x00F f
  | .notE f => staticOk 0x00F f
  | .movB f => bFormOk 0x010 f
  | .movE f => staticOk 0x010 f
  | .liB f => bFormOk 0x011 f
  | .liE f => staticOk 0x011 f
  | .leaB f => bFormOk 0x012 f
  | .leaE f => staticOk 0x012 f
  | .iaddImmB f => bFormOk 0x013 f
  | .iaddImmE f => staticOk 0x013 f
  | .shlImmB f => bFormOk 0x014 f
  | .shlImmE f => staticOk 0x014 f
  | .shrImmB f => bFormOk 0x015 f
  | .shrImmE f => staticOk 0x015 f
  | .sarImmB f => bFormOk 0x016 f
  | .sarImmE f => staticOk 0x016 f
  | .andImmB f => bFormOk 0x017 f
  | .andImmE f => staticOk 0x017 f
  | .rot f => staticOk 0x020 f
  | .bfe f => staticOk 0x021 f
  | .bfi f => staticOk 0x022 f
  | .popc f => staticOk 0x023 f
  | .clz f => staticOk 0x024 f
  | .brev f => staticOk 0x025 f
  | .sel f => staticOk 0x026 f
  | .icmp f => staticOk 0x027 f
  | .plop f => staticOk 0x028 f
  | .brmh f => staticOk 0x029 f
  | .faddB f => bFormOk 0x100 f
  | .faddE f => staticOk 0x100 f
  | .fsubB f => bFormOk 0x101 f
  | .fsubE f => staticOk 0x101 f
  | .fmulB f => bFormOk 0x102 f
  | .fmulE f => staticOk 0x102 f
  | .ffmaB f => bFormOk 0x103 f
  | .ffmaE f => staticOk 0x103 f
  | .fminB f => bFormOk 0x104 f
  | .fminE f => staticOk 0x104 f
  | .fmaxB f => bFormOk 0x105 f
  | .fmaxE f => staticOk 0x105 f
  | .fabsB f => bFormOk 0x106 f
  | .fabsE f => staticOk 0x106 f
  | .fnegB f => bFormOk 0x107 f
  | .fnegE f => staticOk 0x107 f
  | .rcpB f => bFormOk 0x108 f
  | .rcpE f => staticOk 0x108 f
  | .rsqB f => bFormOk 0x109 f
  | .rsqE f => staticOk 0x109 f
  | .sqrtB f => bFormOk 0x10A f
  | .sqrtE f => staticOk 0x10A f
  | .exp2B f => bFormOk 0x10B f
  | .exp2E f => staticOk 0x10B f
  | .log2B f => bFormOk 0x10C f
  | .log2E f => staticOk 0x10C f
  | .tanhB f => bFormOk 0x10D f
  | .tanhE f => staticOk 0x10D f
  | .sigmB f => bFormOk 0x10E f
  | .sigmE f => staticOk 0x10E f
  | .fcmp f => staticOk 0x120 f
  | .dot2 f => staticOk 0x121 f
  | .dot4 f => staticOk 0x122 f
  | .cvt f => staticOk 0x123 f
  | .cvtsr f => staticOk 0x124 f
  | .frnd f => staticOk 0x125 f
  | .rng f => staticOk 0x126 f
  | .sin f => staticOk 0x127 f
  | .cos f => staticOk 0x128 f
  | .gelu f => staticOk 0x129 f
  | .silu f => staticOk 0x12A f
  | .erf f => staticOk 0x12B f
  | .act f => staticOk 0x12C f
  | .atload f => staticOk 0x12D f
  | .atstat f => staticOk 0x12E f
  | .ldgB f => bFormOk 0x200 f
  | .ldgE f => staticOk 0x200 f
  | .stgB f => bFormOk 0x201 f
  | .stgE f => staticOk 0x201 f
  | .ldsB f => bFormOk 0x202 f
  | .ldsE f => staticOk 0x202 f
  | .stsB f => bFormOk 0x203 f
  | .stsE f => staticOk 0x203 f
  | .ldkB f => bFormOk 0x204 f
  | .ldkE f => staticOk 0x204 f
  | .stkB f => bFormOk 0x205 f
  | .stkE f => staticOk 0x205 f
  | .ldxB f => bFormOk 0x206 f
  | .ldxE f => staticOk 0x206 f
  | .stxB f => bFormOk 0x207 f
  | .stxE f => staticOk 0x207 f
  | .ldlB f => bFormOk 0x208 f
  | .ldlE f => staticOk 0x208 f
  | .stlB f => bFormOk 0x209 f
  | .stlE f => staticOk 0x209 f
  | .ldgcB f => bFormOk 0x20A f
  | .ldgcE f => staticOk 0x20A f
  | .stgcB f => bFormOk 0x20B f
  | .stgcE f => staticOk 0x20B f
  | .pfgB f => bFormOk 0x20C f
  | .pfgE f => staticOk 0x20C f
  | .cflush f => staticOk 0x240 f
  | .cinv f => staticOk 0x241 f
  | .cclean f => staticOk 0x242 f
  | .freeze f => staticOk 0x243 f
  | .thaw f => staticOk 0x244 f
  | .frzq f => staticOk 0x245 f
  | .join f => staticOk 0x246 f
  | .leave f => staticOk 0x247 f
  | .tdef f => staticOk 0x248 f
  | .tcopy f => staticOk 0x249 f
  | .tstore f => staticOk 0x24A f
  | .tstat f => staticOk 0x24B f
  | .atomG f => staticOk 0x250 f
  | .atomS f => staticOk 0x251 f
  | .atomK f => staticOk 0x252 f
  | .atomX f => staticOk 0x253 f
  | .casG f => staticOk 0x254 f
  | .casS f => staticOk 0x255 f
  | .casK f => staticOk 0x256 f
  | .casX f => staticOk 0x257 f
  | .tmm f => staticOk 0x260 f
  | .ttask f => staticOk 0x261 f
  | .tdep f => staticOk 0x262 f
  | .azero f => staticOk 0x263 f
  | .adrain f => staticOk 0x264 f
  | .aown f => staticOk 0x265 f
  | .asave f => staticOk 0x266 f
  | .aload f => staticOk 0x267 f
  | .leafcfg f => staticOk 0x268 f
  | .leaf f => staticOk 0x269 f
  | .leafFlush f => staticOk 0x26A f
  | .cqray f => staticOk 0x270 f
  | .cqsph f => staticOk 0x271 f
  | .cqbox f => staticOk 0x272 f
  | .fwait f => staticOk 0x273 f
  | .fpoll f => staticOk 0x274 f
  | .fdrop f => staticOk 0x275 f
  | .hcfg f => staticOk 0x276 f
  | .hadd f => staticOk 0x277 f
  | .hdrain f => staticOk 0x278 f
  | .spkpop f => staticOk 0x279 f
  | .spkstat f => staticOk 0x27A f
  | .alloc f => staticOk 0x27B f
  | .free f => staticOk 0x27C f
  | .poolcfg f => staticOk 0x27D f
  | .brB f => bFormOk 0x300 f
  | .brE f => staticOk 0x300 f
  | .callB f => bFormOk 0x301 f
  | .callE f => staticOk 0x301 f
  | .retB f => bFormOk 0x302 f
  | .retE f => staticOk 0x302 f
  | .exitB f => bFormOk 0x303 f
  | .exitE f => staticOk 0x303 f
  | .brxB f => bFormOk 0x304 f
  | .brxE f => staticOk 0x304 f
  | .nopB f => bFormOk 0x305 f
  | .nopE f => staticOk 0x305 f
  | .yieldB f => bFormOk 0x306 f
  | .yieldE f => staticOk 0x306 f
  | .shflIdxB f => bFormOk 0x308 f
  | .shflIdxE f => staticOk 0x308 f
  | .shflUpB f => bFormOk 0x309 f
  | .shflUpE f => staticOk 0x309 f
  | .shflDownB f => bFormOk 0x30A f
  | .shflDownE f => staticOk 0x30A f
  | .shflXorB f => bFormOk 0x30B f
  | .shflXorE f => staticOk 0x30B f
  | .bcastB f => bFormOk 0x30C f
  | .bcastE f => staticOk 0x30C f
  | .vote f => staticOk 0x30D f
  | .laneq f => staticOk 0x30E f
  | .match f => staticOk 0x353 f
  | .csrrB f => bFormOk 0x310 f
  | .csrrE f => staticOk 0x310 f
  | .csrwB f => bFormOk 0x311 f
  | .csrwE f => staticOk 0x311 f
  | .benrol f => staticOk 0x340 f
  | .bjoin f => staticOk 0x341 f
  | .bar f => staticOk 0x342 f
  | .guard f => staticOk 0x343 f
  | .semp f => staticOk 0x344 f
  | .semv f => staticOk 0x345 f
  | .spawn f => staticOk 0x346 f
  | .subtree f => staticOk 0x347 f
  | .cancel f => staticOk 0x348 f
  | .bestmax f => staticOk 0x349 f
  | .qpush f => staticOk 0x34A f
  | .qpop f => staticOk 0x34B f
  | .setw f => staticOk 0x350 f
  | .reduce f => staticOk 0x351 f
  | .scan f => staticOk 0x352 f
  | .compact f => staticOk 0x354 f
  | .regroup f => staticOk 0x355 f
  | .regroupFlush f => staticOk 0x356 f
  | .fence f => staticOk 0x360 f
  | .xfence f => staticOk 0x361 f
  | .trap f => staticOk 0x370 f
  | .eret f => staticOk 0x371 f
  | .tlbi f => staticOk 0x372 f
  | .asidsw f => staticOk 0x373 f
  | .carve f => staticOk 0x374 f
  | .bkpt f => staticOk 0x375 f
  | .halt f => staticOk 0x376 f
  | .trace f => staticOk 0x377 f
  | .instrComplete _ _ => true
  | .deferredFault _ => true
  | .blockEnd _ => true
  | .dramScrub _ _ => true
  | .walkStart c => decide (c < 16)
  | .walkComplete c asid _ => decide (c < 16) && decide (asid < 65536)
  | .wcFlush c => decide (c < 16)
  | .invalidationComplete _ => true
  | .rds _ => true
  | .rdo _ => true
  | .upg _ => true
  | .rdu _ => true
  | .wru _ => true
  | .atm _ => true
  | .wb c _ _ _ => decide (c < 17)
  | .ack c _ => decide (c < 17)
  | .inv c _ _ => decide (c < 16)
  | .rcl c _ _ _ => decide (c < 16)
  | .data _ _ _ _ => true
  | .flt _ _ _ => true
  | .l2Watchdog _ _ _ => true
  | .hostSnoop _ _ => true
  | .bisnpResponse _ => true
  | .cxlCacheResponse _ _ => true
  | .freezeAck h => decide (h < 256)
  | .freezeSliceReport h slice => decide (h < 256) && decide (slice < 32)
  | .collect h c => decide (h < 256) && decide (c < 16)
  | .thawAck h => decide (h < 256)
  | .gscInputDequeue core => decide (core < 64)
  | .gscWindowTimeout core win => decide (core < 64) && decide (win < 4)
  | .gscReply core win _ _ => decide (core < 64) && decide (win < 4)
  | .joinComplete _ _ => true
  | .leaveComplete _ _ => true
  | .bceStart core => decide (core < 64)
  | .bceComplete core _ => decide (core < 64)
  | .bceFault core _ _ _ _ => decide (core < 64)
  | .atloadComplete core k => decide (core < 64) && decide (k < 8)
  | .tschAccept core => decide (core < 64)
  | .tschStart core _ => decide (core < 64)
  | .matrixChunk core _ => decide (core < 64)
  | .enginePark core _ => decide (core < 64)
  | .drainComplete core _ => decide (core < 64)
  | .taskComplete core _ => decide (core < 64)
  | .batonTimeout c q => decide (c < 16) && decide (q < 8)
  | .batonResume c q => decide (c < 16) && decide (q < 8)
  | .leafAccept c q => decide (c < 16) && decide (q < 8)
  | .cqeNodeRead c _ => decide (c < 16)
  | .cqePark c _ => decide (c < 16)
  | .relayTimeout core _ => decide (core < 64)
  | .relayGroupPlace core _ => decide (core < 64)
  | .spawnPlace core => decide (core < 64)
  | .barrierArrival _ _ => true
  | .phasePass _ _ => true
  | .semvAdd _ k => decide (k < 16)
  | .stageQueuePush _ k => decide (k < 7)
  | .deadlineExpiry _ => true
  | .priorityAging _ => true
  | .groupWatchdog _ => true
  | .tsliceExpiry core => decide (core < 64)
  | .groupSave _ => true
  | .groupRestore _ => true
  | .tailLineReread q => decide (q < 64)
  | .launchRecordRead q => decide (q < 64)
  | .blockPlace _ => true
  | .launchComplete _ => true
  | .resvTakeEffect c => decide (c < 4)
  | .qcfgWrite q _ => decide (q < 64)
  | .qptrWrite q _ => decide (q < 64)
  | .launchCounterWrite c _ => decide (c < 256)
  | .resvWrite c _ => decide (c < 4)
  | .mindlWrite c _ => decide (c < 4)
  | .savePoolWrite _ _ => true
  | .contextTableWrite asid dw _ => decide (asid < 65536) && decide (dw < 8)
  | .cspcfgWrite _ => true
  | .rxcfgWrite p _ => decide (p < 16)
  | .txtailWrite t _ => decide (t < 4)
  | .txSendDescriptor t => decide (t < 4)
  | .trcfgWrite _ => true
  | .rfrzWrite _ => true
  | .dbgstop _ => true
  | .dbgres _ => true
  | .regWrite _ _ => true
  | .hcmdTlbiRange _ => true
  | .hcmdTlbiAsid _ => true
  | .hcmdTlbiNonglobal _ => true
  | .hcmdTlbiAll _ => true
  | .frzkill _ => true
  | .hcmdI3cTransfer _ _ _ => true
  | .attest _ _ => true
  | .idcert _ _ => true
  | .hcmdComplete _ _ => true
  | .csiFrameStart p vc _ => decide (p < 16) && decide (vc < 16)
  | .csiLongPacket p vc dt _ _ => decide (p < 16) && decide (vc < 16) && decide (dt < 64)
  | .csiFrameEnd p vc => decide (p < 16) && decide (vc < 16)
  | .linkRetry => true
  | .traceSample core => decide (core < 64)
  | .i3cPlimWrite _ => true
  | .i3cWarmReset _ => true
  | .i3cColdReset _ => true
  | .i3cRecovWrite _ => true
  | .rdata _ _ _ => true
  | .reset _ => true
  | .thermalAlert _ => true
  | .thermalReset _ _ => true
  | .governorStep _ _ _ => true
  | .idleEntry => true
  | .retainExit => true
  | .sramScrub _ _ _ => true
  | .dramFill _ _ => true
  | .hcmdBadOp _ _ => true
  | .alertClear _ => true
  | .dynamicAddressAssign _ => true

end Sys2Proof
end

