-- ==== Sys2Proof/Decode.lean ====
section
/-!
DEFINITION. The decoder and the encoder, from the same tables of 06 R121 to R124, R130 and R144 to R148. Decoding is total:
every list of words or bytes gives an instruction or a refusal by name. The encoder gives the words of an instruction; a step
of an agent has none.
-/

namespace Sys2Proof

open Sys2Proof.Machine

/-- Why words are no instruction. -/
inductive DecodeError where
  /-- An unassigned OP8 or OP10, the emulation ranges included (06 R143, R150). -/
  | badOp
  /-- Fewer words than LL calls for (06 R122). -/
  | truncated
  deriving DecidableEq, Repr

/-- The E-form or literal-form instruction of an OP10 value (06 R145 to R148). -/
def eInstr (op : Nat) (f : EForm) : Option Instr :=
  match op with
  | 0x000 => some (.iaddE f)
  | 0x001 => some (.isubE f)
  | 0x002 => some (.imulE f)
  | 0x003 => some (.imulhE f)
  | 0x004 => some (.imadE f)
  | 0x005 => some (.iminE f)
  | 0x006 => some (.imaxE f)
  | 0x007 => some (.iabsE f)
  | 0x008 => some (.andE f)
  | 0x009 => some (.orE f)
  | 0x00A => some (.xorE f)
  | 0x00B => some (.andnE f)
  | 0x00C => some (.shlE f)
  | 0x00D => some (.shrE f)
  | 0x00E => some (.sarE f)
  | 0x00F => some (.notE f)
  | 0x010 => some (.movE f)
  | 0x011 => some (.liE f)
  | 0x012 => some (.leaE f)
  | 0x013 => some (.iaddImmE f)
  | 0x014 => some (.shlImmE f)
  | 0x015 => some (.shrImmE f)
  | 0x016 => some (.sarImmE f)
  | 0x017 => some (.andImmE f)
  | 0x020 => some (.rot f)
  | 0x021 => some (.bfe f)
  | 0x022 => some (.bfi f)
  | 0x023 => some (.popc f)
  | 0x024 => some (.clz f)
  | 0x025 => some (.brev f)
  | 0x026 => some (.sel f)
  | 0x027 => some (.icmp f)
  | 0x028 => some (.plop f)
  | 0x029 => some (.brmh f)
  | 0x100 => some (.faddE f)
  | 0x101 => some (.fsubE f)
  | 0x102 => some (.fmulE f)
  | 0x103 => some (.ffmaE f)
  | 0x104 => some (.fminE f)
  | 0x105 => some (.fmaxE f)
  | 0x106 => some (.fabsE f)
  | 0x107 => some (.fnegE f)
  | 0x108 => some (.rcpE f)
  | 0x109 => some (.rsqE f)
  | 0x10A => some (.sqrtE f)
  | 0x10B => some (.exp2E f)
  | 0x10C => some (.log2E f)
  | 0x10D => some (.tanhE f)
  | 0x10E => some (.sigmE f)
  | 0x120 => some (.fcmp f)
  | 0x121 => some (.dot2 f)
  | 0x122 => some (.dot4 f)
  | 0x123 => some (.cvt f)
  | 0x124 => some (.cvtsr f)
  | 0x125 => some (.frnd f)
  | 0x126 => some (.rng f)
  | 0x127 => some (.sin f)
  | 0x128 => some (.cos f)
  | 0x129 => some (.gelu f)
  | 0x12A => some (.silu f)
  | 0x12B => some (.erf f)
  | 0x12C => some (.act f)
  | 0x12D => some (.atload f)
  | 0x12E => some (.atstat f)
  | 0x200 => some (.ldgE f)
  | 0x201 => some (.stgE f)
  | 0x202 => some (.ldsE f)
  | 0x203 => some (.stsE f)
  | 0x204 => some (.ldkE f)
  | 0x205 => some (.stkE f)
  | 0x206 => some (.ldxE f)
  | 0x207 => some (.stxE f)
  | 0x208 => some (.ldlE f)
  | 0x209 => some (.stlE f)
  | 0x20A => some (.ldgcE f)
  | 0x20B => some (.stgcE f)
  | 0x20C => some (.pfgE f)
  | 0x240 => some (.cflush f)
  | 0x241 => some (.cinv f)
  | 0x242 => some (.cclean f)
  | 0x243 => some (.freeze f)
  | 0x244 => some (.thaw f)
  | 0x245 => some (.frzq f)
  | 0x246 => some (.join f)
  | 0x247 => some (.leave f)
  | 0x248 => some (.tdef f)
  | 0x249 => some (.tcopy f)
  | 0x24A => some (.tstore f)
  | 0x24B => some (.tstat f)
  | 0x250 => some (.atomG f)
  | 0x251 => some (.atomS f)
  | 0x252 => some (.atomK f)
  | 0x253 => some (.atomX f)
  | 0x254 => some (.casG f)
  | 0x255 => some (.casS f)
  | 0x256 => some (.casK f)
  | 0x257 => some (.casX f)
  | 0x260 => some (.tmm f)
  | 0x261 => some (.ttask f)
  | 0x262 => some (.tdep f)
  | 0x263 => some (.azero f)
  | 0x264 => some (.adrain f)
  | 0x265 => some (.aown f)
  | 0x266 => some (.asave f)
  | 0x267 => some (.aload f)
  | 0x268 => some (.leafcfg f)
  | 0x269 => some (.leaf f)
  | 0x26A => some (.leafFlush f)
  | 0x270 => some (.cqray f)
  | 0x271 => some (.cqsph f)
  | 0x272 => some (.cqbox f)
  | 0x273 => some (.fwait f)
  | 0x274 => some (.fpoll f)
  | 0x275 => some (.fdrop f)
  | 0x276 => some (.hcfg f)
  | 0x277 => some (.hadd f)
  | 0x278 => some (.hdrain f)
  | 0x279 => some (.spkpop f)
  | 0x27A => some (.spkstat f)
  | 0x27B => some (.alloc f)
  | 0x27C => some (.free f)
  | 0x27D => some (.poolcfg f)
  | 0x300 => some (.brE f)
  | 0x301 => some (.callE f)
  | 0x302 => some (.retE f)
  | 0x303 => some (.exitE f)
  | 0x304 => some (.brxE f)
  | 0x305 => some (.nopE f)
  | 0x306 => some (.yieldE f)
  | 0x308 => some (.shflIdxE f)
  | 0x309 => some (.shflUpE f)
  | 0x30A => some (.shflDownE f)
  | 0x30B => some (.shflXorE f)
  | 0x30C => some (.bcastE f)
  | 0x30D => some (.vote f)
  | 0x30E => some (.laneq f)
  | 0x353 => some (.match f)
  | 0x310 => some (.csrrE f)
  | 0x311 => some (.csrwE f)
  | 0x340 => some (.benrol f)
  | 0x341 => some (.bjoin f)
  | 0x342 => some (.bar f)
  | 0x343 => some (.guard f)
  | 0x344 => some (.semp f)
  | 0x345 => some (.semv f)
  | 0x346 => some (.spawn f)
  | 0x347 => some (.subtree f)
  | 0x348 => some (.cancel f)
  | 0x349 => some (.bestmax f)
  | 0x34A => some (.qpush f)
  | 0x34B => some (.qpop f)
  | 0x350 => some (.setw f)
  | 0x351 => some (.reduce f)
  | 0x352 => some (.scan f)
  | 0x354 => some (.compact f)
  | 0x355 => some (.regroup f)
  | 0x356 => some (.regroupFlush f)
  | 0x360 => some (.fence f)
  | 0x361 => some (.xfence f)
  | 0x370 => some (.trap f)
  | 0x371 => some (.eret f)
  | 0x372 => some (.tlbi f)
  | 0x373 => some (.asidsw f)
  | 0x374 => some (.carve f)
  | 0x375 => some (.bkpt f)
  | 0x376 => some (.halt f)
  | 0x377 => some (.trace f)
  | _ => none

/-- The B-form instruction that corresponds to an OP10 value (06 R144). -/
def bInstr (op : Nat) (f : BForm) : Option Instr :=
  match op with
  | 0x000 => some (.iaddB f)
  | 0x001 => some (.isubB f)
  | 0x002 => some (.imulB f)
  | 0x003 => some (.imulhB f)
  | 0x004 => some (.imadB f)
  | 0x005 => some (.iminB f)
  | 0x006 => some (.imaxB f)
  | 0x007 => some (.iabsB f)
  | 0x008 => some (.andB f)
  | 0x009 => some (.orB f)
  | 0x00A => some (.xorB f)
  | 0x00B => some (.andnB f)
  | 0x00C => some (.shlB f)
  | 0x00D => some (.shrB f)
  | 0x00E => some (.sarB f)
  | 0x00F => some (.notB f)
  | 0x010 => some (.movB f)
  | 0x011 => some (.liB f)
  | 0x012 => some (.leaB f)
  | 0x013 => some (.iaddImmB f)
  | 0x014 => some (.shlImmB f)
  | 0x015 => some (.shrImmB f)
  | 0x016 => some (.sarImmB f)
  | 0x017 => some (.andImmB f)
  | 0x100 => some (.faddB f)
  | 0x101 => some (.fsubB f)
  | 0x102 => some (.fmulB f)
  | 0x103 => some (.ffmaB f)
  | 0x104 => some (.fminB f)
  | 0x105 => some (.fmaxB f)
  | 0x106 => some (.fabsB f)
  | 0x107 => some (.fnegB f)
  | 0x108 => some (.rcpB f)
  | 0x109 => some (.rsqB f)
  | 0x10A => some (.sqrtB f)
  | 0x10B => some (.exp2B f)
  | 0x10C => some (.log2B f)
  | 0x10D => some (.tanhB f)
  | 0x10E => some (.sigmB f)
  | 0x200 => some (.ldgB f)
  | 0x201 => some (.stgB f)
  | 0x202 => some (.ldsB f)
  | 0x203 => some (.stsB f)
  | 0x204 => some (.ldkB f)
  | 0x205 => some (.stkB f)
  | 0x206 => some (.ldxB f)
  | 0x207 => some (.stxB f)
  | 0x208 => some (.ldlB f)
  | 0x209 => some (.stlB f)
  | 0x20A => some (.ldgcB f)
  | 0x20B => some (.stgcB f)
  | 0x20C => some (.pfgB f)
  | 0x300 => some (.brB f)
  | 0x301 => some (.callB f)
  | 0x302 => some (.retB f)
  | 0x303 => some (.exitB f)
  | 0x304 => some (.brxB f)
  | 0x305 => some (.nopB f)
  | 0x306 => some (.yieldB f)
  | 0x308 => some (.shflIdxB f)
  | 0x309 => some (.shflUpB f)
  | 0x30A => some (.shflDownB f)
  | 0x30B => some (.shflXorB f)
  | 0x30C => some (.bcastB f)
  | 0x310 => some (.csrrB f)
  | 0x311 => some (.csrwB f)
  | _ => none

/-- OP10 and, for an instruction, its E-form (06 R129). -/
def Instr.parts (i : Instr) : Option (Nat × EForm) :=
  match i with
  | .run _ => none
  | .iaddB f => some (0x000, bToE 0x000 f)
  | .iaddE f => some (0x000, f)
  | .isubB f => some (0x001, bToE 0x001 f)
  | .isubE f => some (0x001, f)
  | .imulB f => some (0x002, bToE 0x002 f)
  | .imulE f => some (0x002, f)
  | .imulhB f => some (0x003, bToE 0x003 f)
  | .imulhE f => some (0x003, f)
  | .imadB f => some (0x004, bToE 0x004 f)
  | .imadE f => some (0x004, f)
  | .iminB f => some (0x005, bToE 0x005 f)
  | .iminE f => some (0x005, f)
  | .imaxB f => some (0x006, bToE 0x006 f)
  | .imaxE f => some (0x006, f)
  | .iabsB f => some (0x007, bToE 0x007 f)
  | .iabsE f => some (0x007, f)
  | .andB f => some (0x008, bToE 0x008 f)
  | .andE f => some (0x008, f)
  | .orB f => some (0x009, bToE 0x009 f)
  | .orE f => some (0x009, f)
  | .xorB f => some (0x00A, bToE 0x00A f)
  | .xorE f => some (0x00A, f)
  | .andnB f => some (0x00B, bToE 0x00B f)
  | .andnE f => some (0x00B, f)
  | .shlB f => some (0x00C, bToE 0x00C f)
  | .shlE f => some (0x00C, f)
  | .shrB f => some (0x00D, bToE 0x00D f)
  | .shrE f => some (0x00D, f)
  | .sarB f => some (0x00E, bToE 0x00E f)
  | .sarE f => some (0x00E, f)
  | .notB f => some (0x00F, bToE 0x00F f)
  | .notE f => some (0x00F, f)
  | .movB f => some (0x010, bToE 0x010 f)
  | .movE f => some (0x010, f)
  | .liB f => some (0x011, bToE 0x011 f)
  | .liE f => some (0x011, f)
  | .leaB f => some (0x012, bToE 0x012 f)
  | .leaE f => some (0x012, f)
  | .iaddImmB f => some (0x013, bToE 0x013 f)
  | .iaddImmE f => some (0x013, f)
  | .shlImmB f => some (0x014, bToE 0x014 f)
  | .shlImmE f => some (0x014, f)
  | .shrImmB f => some (0x015, bToE 0x015 f)
  | .shrImmE f => some (0x015, f)
  | .sarImmB f => some (0x016, bToE 0x016 f)
  | .sarImmE f => some (0x016, f)
  | .andImmB f => some (0x017, bToE 0x017 f)
  | .andImmE f => some (0x017, f)
  | .rot f => some (0x020, f)
  | .bfe f => some (0x021, f)
  | .bfi f => some (0x022, f)
  | .popc f => some (0x023, f)
  | .clz f => some (0x024, f)
  | .brev f => some (0x025, f)
  | .sel f => some (0x026, f)
  | .icmp f => some (0x027, f)
  | .plop f => some (0x028, f)
  | .brmh f => some (0x029, f)
  | .faddB f => some (0x100, bToE 0x100 f)
  | .faddE f => some (0x100, f)
  | .fsubB f => some (0x101, bToE 0x101 f)
  | .fsubE f => some (0x101, f)
  | .fmulB f => some (0x102, bToE 0x102 f)
  | .fmulE f => some (0x102, f)
  | .ffmaB f => some (0x103, bToE 0x103 f)
  | .ffmaE f => some (0x103, f)
  | .fminB f => some (0x104, bToE 0x104 f)
  | .fminE f => some (0x104, f)
  | .fmaxB f => some (0x105, bToE 0x105 f)
  | .fmaxE f => some (0x105, f)
  | .fabsB f => some (0x106, bToE 0x106 f)
  | .fabsE f => some (0x106, f)
  | .fnegB f => some (0x107, bToE 0x107 f)
  | .fnegE f => some (0x107, f)
  | .rcpB f => some (0x108, bToE 0x108 f)
  | .rcpE f => some (0x108, f)
  | .rsqB f => some (0x109, bToE 0x109 f)
  | .rsqE f => some (0x109, f)
  | .sqrtB f => some (0x10A, bToE 0x10A f)
  | .sqrtE f => some (0x10A, f)
  | .exp2B f => some (0x10B, bToE 0x10B f)
  | .exp2E f => some (0x10B, f)
  | .log2B f => some (0x10C, bToE 0x10C f)
  | .log2E f => some (0x10C, f)
  | .tanhB f => some (0x10D, bToE 0x10D f)
  | .tanhE f => some (0x10D, f)
  | .sigmB f => some (0x10E, bToE 0x10E f)
  | .sigmE f => some (0x10E, f)
  | .fcmp f => some (0x120, f)
  | .dot2 f => some (0x121, f)
  | .dot4 f => some (0x122, f)
  | .cvt f => some (0x123, f)
  | .cvtsr f => some (0x124, f)
  | .frnd f => some (0x125, f)
  | .rng f => some (0x126, f)
  | .sin f => some (0x127, f)
  | .cos f => some (0x128, f)
  | .gelu f => some (0x129, f)
  | .silu f => some (0x12A, f)
  | .erf f => some (0x12B, f)
  | .act f => some (0x12C, f)
  | .atload f => some (0x12D, f)
  | .atstat f => some (0x12E, f)
  | .ldgB f => some (0x200, bToE 0x200 f)
  | .ldgE f => some (0x200, f)
  | .stgB f => some (0x201, bToE 0x201 f)
  | .stgE f => some (0x201, f)
  | .ldsB f => some (0x202, bToE 0x202 f)
  | .ldsE f => some (0x202, f)
  | .stsB f => some (0x203, bToE 0x203 f)
  | .stsE f => some (0x203, f)
  | .ldkB f => some (0x204, bToE 0x204 f)
  | .ldkE f => some (0x204, f)
  | .stkB f => some (0x205, bToE 0x205 f)
  | .stkE f => some (0x205, f)
  | .ldxB f => some (0x206, bToE 0x206 f)
  | .ldxE f => some (0x206, f)
  | .stxB f => some (0x207, bToE 0x207 f)
  | .stxE f => some (0x207, f)
  | .ldlB f => some (0x208, bToE 0x208 f)
  | .ldlE f => some (0x208, f)
  | .stlB f => some (0x209, bToE 0x209 f)
  | .stlE f => some (0x209, f)
  | .ldgcB f => some (0x20A, bToE 0x20A f)
  | .ldgcE f => some (0x20A, f)
  | .stgcB f => some (0x20B, bToE 0x20B f)
  | .stgcE f => some (0x20B, f)
  | .pfgB f => some (0x20C, bToE 0x20C f)
  | .pfgE f => some (0x20C, f)
  | .cflush f => some (0x240, f)
  | .cinv f => some (0x241, f)
  | .cclean f => some (0x242, f)
  | .freeze f => some (0x243, f)
  | .thaw f => some (0x244, f)
  | .frzq f => some (0x245, f)
  | .join f => some (0x246, f)
  | .leave f => some (0x247, f)
  | .tdef f => some (0x248, f)
  | .tcopy f => some (0x249, f)
  | .tstore f => some (0x24A, f)
  | .tstat f => some (0x24B, f)
  | .atomG f => some (0x250, f)
  | .atomS f => some (0x251, f)
  | .atomK f => some (0x252, f)
  | .atomX f => some (0x253, f)
  | .casG f => some (0x254, f)
  | .casS f => some (0x255, f)
  | .casK f => some (0x256, f)
  | .casX f => some (0x257, f)
  | .tmm f => some (0x260, f)
  | .ttask f => some (0x261, f)
  | .tdep f => some (0x262, f)
  | .azero f => some (0x263, f)
  | .adrain f => some (0x264, f)
  | .aown f => some (0x265, f)
  | .asave f => some (0x266, f)
  | .aload f => some (0x267, f)
  | .leafcfg f => some (0x268, f)
  | .leaf f => some (0x269, f)
  | .leafFlush f => some (0x26A, f)
  | .cqray f => some (0x270, f)
  | .cqsph f => some (0x271, f)
  | .cqbox f => some (0x272, f)
  | .fwait f => some (0x273, f)
  | .fpoll f => some (0x274, f)
  | .fdrop f => some (0x275, f)
  | .hcfg f => some (0x276, f)
  | .hadd f => some (0x277, f)
  | .hdrain f => some (0x278, f)
  | .spkpop f => some (0x279, f)
  | .spkstat f => some (0x27A, f)
  | .alloc f => some (0x27B, f)
  | .free f => some (0x27C, f)
  | .poolcfg f => some (0x27D, f)
  | .brB f => some (0x300, bToE 0x300 f)
  | .brE f => some (0x300, f)
  | .callB f => some (0x301, bToE 0x301 f)
  | .callE f => some (0x301, f)
  | .retB f => some (0x302, bToE 0x302 f)
  | .retE f => some (0x302, f)
  | .exitB f => some (0x303, bToE 0x303 f)
  | .exitE f => some (0x303, f)
  | .brxB f => some (0x304, bToE 0x304 f)
  | .brxE f => some (0x304, f)
  | .nopB f => some (0x305, bToE 0x305 f)
  | .nopE f => some (0x305, f)
  | .yieldB f => some (0x306, bToE 0x306 f)
  | .yieldE f => some (0x306, f)
  | .shflIdxB f => some (0x308, bToE 0x308 f)
  | .shflIdxE f => some (0x308, f)
  | .shflUpB f => some (0x309, bToE 0x309 f)
  | .shflUpE f => some (0x309, f)
  | .shflDownB f => some (0x30A, bToE 0x30A f)
  | .shflDownE f => some (0x30A, f)
  | .shflXorB f => some (0x30B, bToE 0x30B f)
  | .shflXorE f => some (0x30B, f)
  | .bcastB f => some (0x30C, bToE 0x30C f)
  | .bcastE f => some (0x30C, f)
  | .vote f => some (0x30D, f)
  | .laneq f => some (0x30E, f)
  | .match f => some (0x353, f)
  | .csrrB f => some (0x310, bToE 0x310 f)
  | .csrrE f => some (0x310, f)
  | .csrwB f => some (0x311, bToE 0x311 f)
  | .csrwE f => some (0x311, f)
  | .benrol f => some (0x340, f)
  | .bjoin f => some (0x341, f)
  | .bar f => some (0x342, f)
  | .guard f => some (0x343, f)
  | .semp f => some (0x344, f)
  | .semv f => some (0x345, f)
  | .spawn f => some (0x346, f)
  | .subtree f => some (0x347, f)
  | .cancel f => some (0x348, f)
  | .bestmax f => some (0x349, f)
  | .qpush f => some (0x34A, f)
  | .qpop f => some (0x34B, f)
  | .setw f => some (0x350, f)
  | .reduce f => some (0x351, f)
  | .scan f => some (0x352, f)
  | .compact f => some (0x354, f)
  | .regroup f => some (0x355, f)
  | .regroupFlush f => some (0x356, f)
  | .fence f => some (0x360, f)
  | .xfence f => some (0x361, f)
  | .trap f => some (0x370, f)
  | .eret f => some (0x371, f)
  | .tlbi f => some (0x372, f)
  | .asidsw f => some (0x373, f)
  | .carve f => some (0x374, f)
  | .bkpt f => some (0x375, f)
  | .halt f => some (0x376, f)
  | .trace f => some (0x377, f)
  | .instrComplete _ _ => none
  | .deferredFault _ => none
  | .blockEnd _ => none
  | .dramScrub _ _ => none
  | .walkStart _ => none
  | .walkComplete _ _ _ => none
  | .wcFlush _ => none
  | .invalidationComplete _ => none
  | .rds _ => none
  | .rdo _ => none
  | .upg _ => none
  | .rdu _ => none
  | .wru _ => none
  | .atm _ => none
  | .wb _ _ _ _ => none
  | .ack _ _ => none
  | .inv _ _ _ => none
  | .rcl _ _ _ _ => none
  | .data _ _ _ _ => none
  | .flt _ _ _ => none
  | .l2Watchdog _ _ _ => none
  | .hostSnoop _ _ => none
  | .bisnpResponse _ => none
  | .cxlCacheResponse _ _ => none
  | .freezeAck _ => none
  | .freezeSliceReport _ _ => none
  | .collect _ _ => none
  | .thawAck _ => none
  | .gscInputDequeue _ => none
  | .gscWindowTimeout _ _ => none
  | .gscReply _ _ _ _ => none
  | .joinComplete _ _ => none
  | .leaveComplete _ _ => none
  | .bceStart _ => none
  | .bceComplete _ _ => none
  | .bceFault _ _ _ _ _ => none
  | .atloadComplete _ _ => none
  | .tschAccept _ => none
  | .tschStart _ _ => none
  | .matrixChunk _ _ => none
  | .enginePark _ _ => none
  | .drainComplete _ _ => none
  | .taskComplete _ _ => none
  | .batonTimeout _ _ => none
  | .batonResume _ _ => none
  | .leafAccept _ _ => none
  | .cqeNodeRead _ _ => none
  | .cqePark _ _ => none
  | .relayTimeout _ _ => none
  | .relayGroupPlace _ _ => none
  | .spawnPlace _ => none
  | .barrierArrival _ _ => none
  | .phasePass _ _ => none
  | .semvAdd _ _ => none
  | .stageQueuePush _ _ => none
  | .deadlineExpiry _ => none
  | .priorityAging _ => none
  | .groupWatchdog _ => none
  | .tsliceExpiry _ => none
  | .groupSave _ => none
  | .groupRestore _ => none
  | .tailLineReread _ => none
  | .launchRecordRead _ => none
  | .blockPlace _ => none
  | .launchComplete _ => none
  | .resvTakeEffect _ => none
  | .qcfgWrite _ _ => none
  | .qptrWrite _ _ => none
  | .launchCounterWrite _ _ => none
  | .resvWrite _ _ => none
  | .mindlWrite _ _ => none
  | .savePoolWrite _ _ => none
  | .contextTableWrite _ _ _ => none
  | .cspcfgWrite _ => none
  | .rxcfgWrite _ _ => none
  | .txtailWrite _ _ => none
  | .txSendDescriptor _ => none
  | .trcfgWrite _ => none
  | .rfrzWrite _ => none
  | .dbgstop _ => none
  | .dbgres _ => none
  | .regWrite _ _ => none
  | .hcmdTlbiRange _ => none
  | .hcmdTlbiAsid _ => none
  | .hcmdTlbiNonglobal _ => none
  | .hcmdTlbiAll _ => none
  | .frzkill _ => none
  | .hcmdI3cTransfer _ _ _ => none
  | .attest _ _ => none
  | .idcert _ _ => none
  | .hcmdComplete _ _ => none
  | .csiFrameStart _ _ _ => none
  | .csiLongPacket _ _ _ _ _ => none
  | .csiFrameEnd _ _ => none
  | .linkRetry => none
  | .traceSample _ => none
  | .i3cPlimWrite _ => none
  | .i3cWarmReset _ => none
  | .i3cColdReset _ => none
  | .i3cRecovWrite _ => none
  | .rdata _ _ _ => none
  | .reset _ => none
  | .thermalAlert _ => none
  | .thermalReset _ _ => none
  | .governorStep _ _ _ => none
  | .idleEntry => none
  | .retainExit => none
  | .sramScrub _ _ _ => none
  | .dramFill _ _ => none
  | .hcmdBadOp _ _ => none
  | .alertClear _ => none
  | .dynamicAddressAssign _ => none

/-- The fields of a B-form word (06 R123). -/
def bFields (w : Word) : BForm :=
  { g := w.extractLsb' 28 4, b := w.extractLsb' 22 6, a := w.extractLsb' 16 6, d := w.extractLsb' 10 6,
    h := !(w.getLsbD 9) && w.getLsbD 7 }

/-- OP10 of a B-form word: class and code of OP8, without the half bit of classes 00 and 01 (06 R144). -/
def bOp (w : Word) : Nat :=
  let cls := (w.extractLsb' 8 2).toNat
  if cls < 2 then 256 * cls + (w.extractLsb' 2 5).toNat else 256 * cls + (w.extractLsb' 2 6).toNat

/-- OP10 of an E-form's word 0 (06 R124). -/
def eOp (w : Word) : Nat := (w.extractLsb' 2 10).toNat

/-- The fields of an E-form's words (06 R124). -/
def eFields (w0 w1 w2 : Word) (lit : Option DWord) : EForm :=
  { g0 := w0.extractLsb' 28 4, a := w0.extractLsb' 20 8, d := w0.extractLsb' 12 8,
    z := w1.getLsbD 31, gc := w1.extractLsb' 28 3, g1 := w1.extractLsb' 24 4, e := w1.extractLsb' 16 8,
    c := w1.extractLsb' 8 8, b := w1.extractLsb' 0 8,
    mod := w2.extractLsb' 26 6, span := w2.extractLsb' 22 4, cache := w2.extractLsb' 18 4, fsel := w2.extractLsb' 16 2,
    sc := w2.getLsbD 15, sb := w2.getLsbD 14, sa := w2.getLsbD 13, ord := w2.extractLsb' 11 2,
    scope := w2.extractLsb' 8 3, sat := w2.getLsbD 7, rnd := w2.extractLsb' 4 3, type := w2.extractLsb' 0 4, lit := lit }

/-- The fields of a run header (06 R130). -/
def hFields (w : Word) : HForm :=
  { prio := w.extractLsb' 28 4, rgn := w.getLsbD 27, len := w.extractLsb' 22 5, setB := w.extractLsb' 18 4,
    setA := w.extractLsb' 14 4, wait := w.extractLsb' 2 12 }

/-- LL, bits [1:0] of a first word (06 R122). -/
def llOf (w : Word) : Nat := (w.extractLsb' 0 2).toNat

/-- The number of words LL calls for (06 R122). -/
def wordsOf (w : Word) : Nat :=
  match llOf w with
  | 0 => 1
  | 1 => 3
  | 2 => 5
  | _ => 1

/-- Decode one instruction or run header from the front of a list of words; the count is the words it occupies. -/
def decodeWords (ws : List Word) : Except DecodeError (Instr × Nat) :=
  match ws with
  | [] => .error .truncated
  | w0 :: rest =>
    match llOf w0, rest with
    | 0, _ => match bInstr (bOp w0) (bFields w0) with
        | some i => .ok (i, 1)
        | none => .error .badOp
    | 1, w1 :: w2 :: _ => match eInstr (eOp w0) (eFields w0 w1 w2 none) with
        | some i => .ok (i, 3)
        | none => .error .badOp
    | 2, w1 :: w2 :: w3 :: w4 :: _ => match eInstr (eOp w0) (eFields w0 w1 w2 (some (w4 ++ w3))) with
        | some i => .ok (i, 5)
        | none => .error .badOp
    | 3, _ => .ok (.run (hFields w0), 1)
    | _, _ => .error .truncated

/-- The 32-bit little-endian words of a byte list (06 R121); a trailing part of a word is dropped. -/
def wordsOfBytes (bs : List Byte) : List Word :=
  match bs with
  | b0 :: b1 :: b2 :: b3 :: rest => (b3 ++ b2 ++ b1 ++ b0) :: wordsOfBytes rest
  | _ => []

/-- The bytes of words as memory holds them (06 R121). -/
def bytesOfWords (ws : List Word) : List Byte :=
  ws.flatMap fun w => [w.extractLsb' 0 8, w.extractLsb' 8 8, w.extractLsb' 16 8, w.extractLsb' 24 8]

/-- Decode one instruction from the front of a list of bytes. -/
def decodeBytes (bs : List Byte) : Except DecodeError (Instr × Nat) := decodeWords (wordsOfBytes bs)

/-- The five words whose bits are w, word 0 in the low bits. -/
def tableWords (w : Nat) : List Word := (List.range 5).map fun i => BitVec.ofNat 32 (w / 2 ^ (32 * i))

/-- What the decoder reads from an instruction of the opcode table with bits w (the bits above nbits are 0). -/
def decodeTableWord (nbits w : Nat) : Option Instr :=
  match decodeBytes (bytesOfWords (tableWords (w % 2 ^ nbits))) with
  | .ok (i, _) => some i
  | .error _ => none

/-- Word of a B-form (06 R123, R144). -/
def encodeB (op : Nat) (f : BForm) : List Word :=
  let code : BitVec 8 :=
    if op < 0x200 then BitVec.ofNat 8 (64 * (op / 256) + op % 32 + if f.h then 32 else 0)
    else BitVec.ofNat 8 (64 * (op / 256) + op % 64)
  [f.g ++ f.b ++ f.a ++ f.d ++ code ++ (0 : BitVec 2)]

/-- Words of an E-form or literal form (06 R124). -/
def encodeE (op : Nat) (f : EForm) : List Word :=
  let ll : BitVec 2 := if f.lit.isSome then 2 else 1
  let w0 : Word := f.g0 ++ f.a ++ f.d ++ BitVec.ofNat 10 op ++ ll
  let w1 : Word := BitVec.ofBool f.z ++ f.gc ++ f.g1 ++ f.e ++ f.c ++ f.b
  let w2 : Word := f.mod ++ f.span ++ f.cache ++ f.fsel ++ BitVec.ofBool f.sc ++ BitVec.ofBool f.sb ++ BitVec.ofBool f.sa ++
    f.ord ++ f.scope ++ BitVec.ofBool f.sat ++ f.rnd ++ f.type
  match f.lit with
  | none => [w0, w1, w2]
  | some l => [w0, w1, w2, l.extractLsb' 0 32, l.extractLsb' 32 32]

/-- Word of a run header (06 R130). -/
def encodeH (h : HForm) : List Word :=
  [h.prio ++ BitVec.ofBool h.rgn ++ h.len ++ h.setB ++ h.setA ++ h.wait ++ (3 : BitVec 2)]

/-- The words of an instruction; a step of an agent has none. -/
def encode (i : Instr) : List Word :=
  match i with
  | .run h => encodeH h
  | .iaddB f => encodeB 0x000 f
  | .iaddE f => encodeE 0x000 f
  | .isubB f => encodeB 0x001 f
  | .isubE f => encodeE 0x001 f
  | .imulB f => encodeB 0x002 f
  | .imulE f => encodeE 0x002 f
  | .imulhB f => encodeB 0x003 f
  | .imulhE f => encodeE 0x003 f
  | .imadB f => encodeB 0x004 f
  | .imadE f => encodeE 0x004 f
  | .iminB f => encodeB 0x005 f
  | .iminE f => encodeE 0x005 f
  | .imaxB f => encodeB 0x006 f
  | .imaxE f => encodeE 0x006 f
  | .iabsB f => encodeB 0x007 f
  | .iabsE f => encodeE 0x007 f
  | .andB f => encodeB 0x008 f
  | .andE f => encodeE 0x008 f
  | .orB f => encodeB 0x009 f
  | .orE f => encodeE 0x009 f
  | .xorB f => encodeB 0x00A f
  | .xorE f => encodeE 0x00A f
  | .andnB f => encodeB 0x00B f
  | .andnE f => encodeE 0x00B f
  | .shlB f => encodeB 0x00C f
  | .shlE f => encodeE 0x00C f
  | .shrB f => encodeB 0x00D f
  | .shrE f => encodeE 0x00D f
  | .sarB f => encodeB 0x00E f
  | .sarE f => encodeE 0x00E f
  | .notB f => encodeB 0x00F f
  | .notE f => encodeE 0x00F f
  | .movB f => encodeB 0x010 f
  | .movE f => encodeE 0x010 f
  | .liB f => encodeB 0x011 f
  | .liE f => encodeE 0x011 f
  | .leaB f => encodeB 0x012 f
  | .leaE f => encodeE 0x012 f
  | .iaddImmB f => encodeB 0x013 f
  | .iaddImmE f => encodeE 0x013 f
  | .shlImmB f => encodeB 0x014 f
  | .shlImmE f => encodeE 0x014 f
  | .shrImmB f => encodeB 0x015 f
  | .shrImmE f => encodeE 0x015 f
  | .sarImmB f => encodeB 0x016 f
  | .sarImmE f => encodeE 0x016 f
  | .andImmB f => encodeB 0x017 f
  | .andImmE f => encodeE 0x017 f
  | .rot f => encodeE 0x020 f
  | .bfe f => encodeE 0x021 f
  | .bfi f => encodeE 0x022 f
  | .popc f => encodeE 0x023 f
  | .clz f => encodeE 0x024 f
  | .brev f => encodeE 0x025 f
  | .sel f => encodeE 0x026 f
  | .icmp f => encodeE 0x027 f
  | .plop f => encodeE 0x028 f
  | .brmh f => encodeE 0x029 f
  | .faddB f => encodeB 0x100 f
  | .faddE f => encodeE 0x100 f
  | .fsubB f => encodeB 0x101 f
  | .fsubE f => encodeE 0x101 f
  | .fmulB f => encodeB 0x102 f
  | .fmulE f => encodeE 0x102 f
  | .ffmaB f => encodeB 0x103 f
  | .ffmaE f => encodeE 0x103 f
  | .fminB f => encodeB 0x104 f
  | .fminE f => encodeE 0x104 f
  | .fmaxB f => encodeB 0x105 f
  | .fmaxE f => encodeE 0x105 f
  | .fabsB f => encodeB 0x106 f
  | .fabsE f => encodeE 0x106 f
  | .fnegB f => encodeB 0x107 f
  | .fnegE f => encodeE 0x107 f
  | .rcpB f => encodeB 0x108 f
  | .rcpE f => encodeE 0x108 f
  | .rsqB f => encodeB 0x109 f
  | .rsqE f => encodeE 0x109 f
  | .sqrtB f => encodeB 0x10A f
  | .sqrtE f => encodeE 0x10A f
  | .exp2B f => encodeB 0x10B f
  | .exp2E f => encodeE 0x10B f
  | .log2B f => encodeB 0x10C f
  | .log2E f => encodeE 0x10C f
  | .tanhB f => encodeB 0x10D f
  | .tanhE f => encodeE 0x10D f
  | .sigmB f => encodeB 0x10E f
  | .sigmE f => encodeE 0x10E f
  | .fcmp f => encodeE 0x120 f
  | .dot2 f => encodeE 0x121 f
  | .dot4 f => encodeE 0x122 f
  | .cvt f => encodeE 0x123 f
  | .cvtsr f => encodeE 0x124 f
  | .frnd f => encodeE 0x125 f
  | .rng f => encodeE 0x126 f
  | .sin f => encodeE 0x127 f
  | .cos f => encodeE 0x128 f
  | .gelu f => encodeE 0x129 f
  | .silu f => encodeE 0x12A f
  | .erf f => encodeE 0x12B f
  | .act f => encodeE 0x12C f
  | .atload f => encodeE 0x12D f
  | .atstat f => encodeE 0x12E f
  | .ldgB f => encodeB 0x200 f
  | .ldgE f => encodeE 0x200 f
  | .stgB f => encodeB 0x201 f
  | .stgE f => encodeE 0x201 f
  | .ldsB f => encodeB 0x202 f
  | .ldsE f => encodeE 0x202 f
  | .stsB f => encodeB 0x203 f
  | .stsE f => encodeE 0x203 f
  | .ldkB f => encodeB 0x204 f
  | .ldkE f => encodeE 0x204 f
  | .stkB f => encodeB 0x205 f
  | .stkE f => encodeE 0x205 f
  | .ldxB f => encodeB 0x206 f
  | .ldxE f => encodeE 0x206 f
  | .stxB f => encodeB 0x207 f
  | .stxE f => encodeE 0x207 f
  | .ldlB f => encodeB 0x208 f
  | .ldlE f => encodeE 0x208 f
  | .stlB f => encodeB 0x209 f
  | .stlE f => encodeE 0x209 f
  | .ldgcB f => encodeB 0x20A f
  | .ldgcE f => encodeE 0x20A f
  | .stgcB f => encodeB 0x20B f
  | .stgcE f => encodeE 0x20B f
  | .pfgB f => encodeB 0x20C f
  | .pfgE f => encodeE 0x20C f
  | .cflush f => encodeE 0x240 f
  | .cinv f => encodeE 0x241 f
  | .cclean f => encodeE 0x242 f
  | .freeze f => encodeE 0x243 f
  | .thaw f => encodeE 0x244 f
  | .frzq f => encodeE 0x245 f
  | .join f => encodeE 0x246 f
  | .leave f => encodeE 0x247 f
  | .tdef f => encodeE 0x248 f
  | .tcopy f => encodeE 0x249 f
  | .tstore f => encodeE 0x24A f
  | .tstat f => encodeE 0x24B f
  | .atomG f => encodeE 0x250 f
  | .atomS f => encodeE 0x251 f
  | .atomK f => encodeE 0x252 f
  | .atomX f => encodeE 0x253 f
  | .casG f => encodeE 0x254 f
  | .casS f => encodeE 0x255 f
  | .casK f => encodeE 0x256 f
  | .casX f => encodeE 0x257 f
  | .tmm f => encodeE 0x260 f
  | .ttask f => encodeE 0x261 f
  | .tdep f => encodeE 0x262 f
  | .azero f => encodeE 0x263 f
  | .adrain f => encodeE 0x264 f
  | .aown f => encodeE 0x265 f
  | .asave f => encodeE 0x266 f
  | .aload f => encodeE 0x267 f
  | .leafcfg f => encodeE 0x268 f
  | .leaf f => encodeE 0x269 f
  | .leafFlush f => encodeE 0x26A f
  | .cqray f => encodeE 0x270 f
  | .cqsph f => encodeE 0x271 f
  | .cqbox f => encodeE 0x272 f
  | .fwait f => encodeE 0x273 f
  | .fpoll f => encodeE 0x274 f
  | .fdrop f => encodeE 0x275 f
  | .hcfg f => encodeE 0x276 f
  | .hadd f => encodeE 0x277 f
  | .hdrain f => encodeE 0x278 f
  | .spkpop f => encodeE 0x279 f
  | .spkstat f => encodeE 0x27A f
  | .alloc f => encodeE 0x27B f
  | .free f => encodeE 0x27C f
  | .poolcfg f => encodeE 0x27D f
  | .brB f => encodeB 0x300 f
  | .brE f => encodeE 0x300 f
  | .callB f => encodeB 0x301 f
  | .callE f => encodeE 0x301 f
  | .retB f => encodeB 0x302 f
  | .retE f => encodeE 0x302 f
  | .exitB f => encodeB 0x303 f
  | .exitE f => encodeE 0x303 f
  | .brxB f => encodeB 0x304 f
  | .brxE f => encodeE 0x304 f
  | .nopB f => encodeB 0x305 f
  | .nopE f => encodeE 0x305 f
  | .yieldB f => encodeB 0x306 f
  | .yieldE f => encodeE 0x306 f
  | .shflIdxB f => encodeB 0x308 f
  | .shflIdxE f => encodeE 0x308 f
  | .shflUpB f => encodeB 0x309 f
  | .shflUpE f => encodeE 0x309 f
  | .shflDownB f => encodeB 0x30A f
  | .shflDownE f => encodeE 0x30A f
  | .shflXorB f => encodeB 0x30B f
  | .shflXorE f => encodeE 0x30B f
  | .bcastB f => encodeB 0x30C f
  | .bcastE f => encodeE 0x30C f
  | .vote f => encodeE 0x30D f
  | .laneq f => encodeE 0x30E f
  | .match f => encodeE 0x353 f
  | .csrrB f => encodeB 0x310 f
  | .csrrE f => encodeE 0x310 f
  | .csrwB f => encodeB 0x311 f
  | .csrwE f => encodeE 0x311 f
  | .benrol f => encodeE 0x340 f
  | .bjoin f => encodeE 0x341 f
  | .bar f => encodeE 0x342 f
  | .guard f => encodeE 0x343 f
  | .semp f => encodeE 0x344 f
  | .semv f => encodeE 0x345 f
  | .spawn f => encodeE 0x346 f
  | .subtree f => encodeE 0x347 f
  | .cancel f => encodeE 0x348 f
  | .bestmax f => encodeE 0x349 f
  | .qpush f => encodeE 0x34A f
  | .qpop f => encodeE 0x34B f
  | .setw f => encodeE 0x350 f
  | .reduce f => encodeE 0x351 f
  | .scan f => encodeE 0x352 f
  | .compact f => encodeE 0x354 f
  | .regroup f => encodeE 0x355 f
  | .regroupFlush f => encodeE 0x356 f
  | .fence f => encodeE 0x360 f
  | .xfence f => encodeE 0x361 f
  | .trap f => encodeE 0x370 f
  | .eret f => encodeE 0x371 f
  | .tlbi f => encodeE 0x372 f
  | .asidsw f => encodeE 0x373 f
  | .carve f => encodeE 0x374 f
  | .bkpt f => encodeE 0x375 f
  | .halt f => encodeE 0x376 f
  | .trace f => encodeE 0x377 f
  | .instrComplete _ _ => []
  | .deferredFault _ => []
  | .blockEnd _ => []
  | .dramScrub _ _ => []
  | .walkStart _ => []
  | .walkComplete _ _ _ => []
  | .wcFlush _ => []
  | .invalidationComplete _ => []
  | .rds _ => []
  | .rdo _ => []
  | .upg _ => []
  | .rdu _ => []
  | .wru _ => []
  | .atm _ => []
  | .wb _ _ _ _ => []
  | .ack _ _ => []
  | .inv _ _ _ => []
  | .rcl _ _ _ _ => []
  | .data _ _ _ _ => []
  | .flt _ _ _ => []
  | .l2Watchdog _ _ _ => []
  | .hostSnoop _ _ => []
  | .bisnpResponse _ => []
  | .cxlCacheResponse _ _ => []
  | .freezeAck _ => []
  | .freezeSliceReport _ _ => []
  | .collect _ _ => []
  | .thawAck _ => []
  | .gscInputDequeue _ => []
  | .gscWindowTimeout _ _ => []
  | .gscReply _ _ _ _ => []
  | .joinComplete _ _ => []
  | .leaveComplete _ _ => []
  | .bceStart _ => []
  | .bceComplete _ _ => []
  | .bceFault _ _ _ _ _ => []
  | .atloadComplete _ _ => []
  | .tschAccept _ => []
  | .tschStart _ _ => []
  | .matrixChunk _ _ => []
  | .enginePark _ _ => []
  | .drainComplete _ _ => []
  | .taskComplete _ _ => []
  | .batonTimeout _ _ => []
  | .batonResume _ _ => []
  | .leafAccept _ _ => []
  | .cqeNodeRead _ _ => []
  | .cqePark _ _ => []
  | .relayTimeout _ _ => []
  | .relayGroupPlace _ _ => []
  | .spawnPlace _ => []
  | .barrierArrival _ _ => []
  | .phasePass _ _ => []
  | .semvAdd _ _ => []
  | .stageQueuePush _ _ => []
  | .deadlineExpiry _ => []
  | .priorityAging _ => []
  | .groupWatchdog _ => []
  | .tsliceExpiry _ => []
  | .groupSave _ => []
  | .groupRestore _ => []
  | .tailLineReread _ => []
  | .launchRecordRead _ => []
  | .blockPlace _ => []
  | .launchComplete _ => []
  | .resvTakeEffect _ => []
  | .qcfgWrite _ _ => []
  | .qptrWrite _ _ => []
  | .launchCounterWrite _ _ => []
  | .resvWrite _ _ => []
  | .mindlWrite _ _ => []
  | .savePoolWrite _ _ => []
  | .contextTableWrite _ _ _ => []
  | .cspcfgWrite _ => []
  | .rxcfgWrite _ _ => []
  | .txtailWrite _ _ => []
  | .txSendDescriptor _ => []
  | .trcfgWrite _ => []
  | .rfrzWrite _ => []
  | .dbgstop _ => []
  | .dbgres _ => []
  | .regWrite _ _ => []
  | .hcmdTlbiRange _ => []
  | .hcmdTlbiAsid _ => []
  | .hcmdTlbiNonglobal _ => []
  | .hcmdTlbiAll _ => []
  | .frzkill _ => []
  | .hcmdI3cTransfer _ _ _ => []
  | .attest _ _ => []
  | .idcert _ _ => []
  | .hcmdComplete _ _ => []
  | .csiFrameStart _ _ _ => []
  | .csiLongPacket _ _ _ _ _ => []
  | .csiFrameEnd _ _ => []
  | .linkRetry => []
  | .traceSample _ => []
  | .i3cPlimWrite _ => []
  | .i3cWarmReset _ => []
  | .i3cColdReset _ => []
  | .i3cRecovWrite _ => []
  | .rdata _ _ _ => []
  | .reset _ => []
  | .thermalAlert _ => []
  | .thermalReset _ _ => []
  | .governorStep _ _ _ => []
  | .idleEntry => []
  | .retainExit => []
  | .sramScrub _ _ _ => []
  | .dramFill _ _ => []
  | .hcmdBadOp _ _ => []
  | .alertClear _ => []
  | .dynamicAddressAssign _ => []

end Sys2Proof
end

