-- ==== Sys2Proof/Machine/State.lean ====
section
/-!
DEFINITION. The state of the KRN-7640 as plain data, with its state after reset. Every field names its width, the file and
rule of the spec that give it, and its reset value; "log n" is a row of the assumption log. Sparse tables read their stated
default where they list nothing. Fields marked MODEL are the model's own bookkeeping, not the spec's.
-/

namespace Sys2Proof.Machine

open Sys2Proof

/-- Why the machine stops. -/
inductive Fault where
  /-- An instruction was executed although its group has no run in progress, or a run header although no fetched run awaits its
  issue: raised by the issue of every instruction and header; the machine itself never reaches it, since a step executes an
  instruction only for a group whose run has come to it. Safe. -/
  | noRun
  deriving DecidableEq, Repr

/-- Why an instruction has no meaning. -/
inductive Refusal where
  /-- The instruction has no meaning in the model yet; raised by the dispatch alone. Safe. -/
  | notModelled (mnemonic : String)
  deriving DecidableEq, Repr

/-- A step due inside the part: the row of the opcode table of the same name, with its arguments (MODEL; log 3). `req` stands for
RDS, RDO, UPG, RDU, WRU and ATM by its kind; `eret` is the return of handler lanes that stand at ERET; `winWrite` a store into the window, of a group's access or, with 0, of another agent. -/
inductive Msg where
  | instrComplete (g op : Nat)
  | deferredFault (g : Nat)
  | blockEnd (b : Nat)
  | walkStart (c : Nat)
  | walkComplete (c asid region : Nat)
  | wcFlush (c : Nat)
  | invalidationComplete (id : Nat)
  | req (r : Req)
  | wb (c frame : Nat) (mask : BitVec 32) (keep : Bool)
  | ack (c frame : Nat) (t : RclFor)
  | inv (c frame : Nat) (mask : BitVec 32) (t : RclFor)
  | rcl (c frame : Nat) (mask : BitVec 32) (keep : Bool) (t : RclFor)
  | data (r : Req) (gr : Grant) (race ue : BitVec 32)
  | flt (r : Req) (cause sub : Nat)
  | l2Watchdog (frame agent age : Nat)
  | bisnpResponse (line : Nat) (t : RclFor)
  | cxlCacheResponse (line : Nat)
  | dramFill (line : Nat)
  | freezeAck (h : Nat)
  | freezeSliceReport (h slice : Nat)
  | collect (h c : Nat)
  | thawAck (h : Nat)
  | gscInputDequeue (core : Nat)
  | gscWindowTimeout (core win : Nat)
  | gscReply (core win frame : Nat) (race : BitVec 32)
  | joinComplete (g op : Nat)
  | leaveComplete (g op : Nat)
  | bceStart (core : Nat)
  | bcePart (core id : Nat)
  | bceComplete (core id : Nat)
  | bceFault (core id cause sub addr : Nat)
  | atloadComplete (core k : Nat)
  | tschAccept (core : Nat)
  | tschStart (core id : Nat)
  | matrixChunk (core id : Nat)
  | enginePark (core id : Nat)
  | drainComplete (core id : Nat)
  | taskComplete (core id : Nat)
  | batonTimeout (c q : Nat)
  | batonResume (c q : Nat)
  | leafAccept (c q : Nat)
  | cqeNodeRead (c id : Nat)
  | cqePark (c id : Nat)
  | relayTimeout (core id : Nat)
  | relayGroupPlace (core id : Nat)
  | spawnPlace (core : Nat)
  | barrierArrival (g : Nat) (bar : BarRef)
  | phasePass (g : Nat) (bar : BarRef)
  | semvAdd (b k : Nat)
  | stageQueuePush (l k : Nat)
  | deadlineExpiry (l : Nat)
  | groupWatchdog (g : Nat)
  | groupSave (g : Nat)
  | groupRestore (g : Nat)
  | tailLineReread (q : Nat)
  | launchRecordRead (q : Nat)
  | blockPlace (l : Nat)
  | launchComplete (l : Nat)
  | recordDone (id : Nat)
  | resvTakeEffect (c : Nat)
  | winWrite (ofs : Nat) (v : DWord) (half g op : Nat)
  | txSendDescriptor (t : Nat)
  | traceWrite
  | rxDone (p id : Nat)
  | hcmdGo (seq : BitVec 8)
  | hcmdComplete (seq result : BitVec 8)
  | eret (g : Nat)
  deriving DecidableEq, Repr

/-- The port at which an engine's access enters, with the translation buffer it uses (02 R37): a copy engine's, that of one matrix
engine's load pipe, the cluster's, or none, for physical addresses (R38). -/
inductive Port where
  | bce (core : Nat)
  | me (core unit : Nat)
  | cluster (c : Nat)
  | phys
  deriving DecidableEq, Repr

/-- Part of an engine's access, within one frame: address, length, for a write its bytes with their uncorrectable-error tags, and for a
locked write, whose bytes come later, the bytes of the frame that it writes. -/
structure EngSeg where
  va : Nat
  len : Nat
  bytes : List Byte
  tags : List Bool
  mask : BitVec 512
  deriving DecidableEq, Repr

/-- What an engine's read of a part answered: bytes, uncorrectable-error tags and race tags, byte by byte. -/
structure EngGot where
  bytes : List Byte
  ue : List Bool
  race : List Bool
  deriving DecidableEq, Repr

/-- An engine's access to global memory (03 R43, R47): its port, agent number and ASID, the parts not yet sent, the requests not yet
answered as (part, address, physical address, length), what its reads answered by address, its fault, the command's issuer and
launch-site tag, and the step that goes on when it has finished. `lock` holds its transactions open until every one is (12 R289). -/
structure EngAcc where
  port : Port
  agent : Nat
  asid : Nat
  write : Bool
  lock : Bool
  segs : List EngSeg
  out : List (Nat × EngSeg × Nat)
  next : Nat
  got : Sp EngGot
  err : Option (Nat × Nat × Nat)
  g : Nat
  pc : DWord
  seq : BitVec 32
  core : Nat
  cont : Msg
  deriving DecidableEq, Repr

/-- One completion flag: SET and PEND (06 R135). -/
structure FlagSt where
  set : Bool
  pend : Nat
  deriving DecidableEq, Repr

/-- The state of a future slot (13 R305). -/
inductive FutState where
  | empty | pending | done | failed
  deriving DecidableEq, Repr

/-- One future slot of a handle: state, V, the command that resolves it, the launch-site tag, and the baton ring entry it
holds (13 R305, R306; 12 R299). -/
structure Fut where
  st : FutState
  v : DWord
  cmd : Nat
  tagPc : DWord
  tagSeq : BitVec 32
  cause : Nat
  sub : Nat
  addr : Nat
  ring : Option (Nat × Nat × Nat)
  deriving DecidableEq, Repr

/-- One join barrier: member mask and arrival mask (15 R357). -/
structure JoinBar where
  m : Lanes
  a : Lanes
  deriving DecidableEq, Repr

/-- A wait state of a frontier entry (15 R349, R352, R410). -/
inductive Wait where
  /-- Waits at join barrier k (R357). -/
  | join (k : Nat)
  /-- Waits for phase q of a barrier (R361) since a time; `late` when the phase was complete by then. -/
  | phase (bar : BarRef) (q : BitVec 32) (since : Nat) (late : Bool)
  /-- Waits for a token of semaphore k (R364) since a time. -/
  | sem (k : Nat) (since : Nat)
  /-- Stands at the HALT blocking point (17 R425, 18 R427). -/
  | halt
  /-- Yielded to a pending pre-emption (15 R374). -/
  | yielded
  /-- A handler lane that stands at ERET (17 R420). -/
  | eret
  deriving DecidableEq, Repr

/-- One frontier entry (15 R349): PC, the header of the run it resumes (17 R420; the PC itself at a header), lanes, PRIO, pass
count, wait states. `issued` orders entries by least recent issue (R350). -/
structure Entry where
  pc : DWord
  hdr : DWord
  mask : Lanes
  prio : Nat
  pass : Nat
  waits : List Wait
  issued : Nat
  deriving DecidableEq, Repr

/-- A lane that found no free entry: its number, PC, header of the run it resumes, wait states (15 R349), and the issues of its group
when it was held (R350). -/
structure Held where
  lane : Nat
  pc : DWord
  hdr : DWord
  waits : List Wait
  since : Nat
  deriving DecidableEq, Repr

/-- A run in progress: the snapshot of its words taken before issue (06 R131), how far it has issued, whether it was resumed strictly inside
(17 R420), its issue slot of the core's four (16 R389), its number in the order in which runs were won (05 R103; MODEL), and what takes effect
at its end (15 R355, R357, R361, R364, R374; 11 R266). -/
structure Run where
  pc : DWord
  h : HForm
  words : List Word
  follow : Option Word
  issued : Bool
  mid : Bool
  slot : Nat
  won : Nat
  ofs : Nat
  left : Nat
  lanes : Lanes
  next : Sp DWord
  waits : List (Wait × Lanes)
  retire : Lanes
  yield : Bool
  deriving DecidableEq, Repr

/-- What a run that a trap or a stop cut short still does at its end: wait states, lanes that retire, YIELD. -/
structure Owed where
  hdr : DWord
  waits : List (Wait × Lanes)
  retire : Lanes
  yield : Bool
  deriving DecidableEq, Repr

/-- One lane's cause in a cause vector (17 R397, R398), with its fault address. -/
structure LaneCause where
  lane : Nat
  cause : Nat
  sub : Nat
  addr : Nat
  deriving DecidableEq, Repr

/-- A register write that an instruction makes when it completes. -/
structure RegWrite where
  isS : Bool
  n : Nat
  lane : Nat
  val : DWord
  poison : Bool
  deriving DecidableEq, Repr

/-- A buffered translation (02 R30, R33). -/
structure Tlb where
  asid : Nat
  g : Bool
  va : Nat
  log : Nat
  pa : Nat
  r : Bool
  w : Bool
  x : Bool
  fzok : Bool
  mt : Nat
  d : Bool
  deriving DecidableEq, Repr

/-- No translation. -/
def Tlb.none : Tlb :=
  { asid := 0, g := false, va := 0, log := 0, pa := 0, r := false, w := false, x := false, fzok := false, mt := 0, d := false }

/-- The part of one lane's access that lies in one sector: lane, offset in the access, physical address, length, memory
type (07 R166, 04 R78) and the translation it used. -/
structure Piece where
  lane : Nat
  ofs : Nat
  pa : Nat
  len : Nat
  mt : Nat
  t : Tlb
  deriving DecidableEq, Repr

/-- What a pending access of a group's trap frame does (17 R405, R406, R420): it writes the frame of a trap with this cause and subcode, or
reads it back for ERET. -/
inductive FrameUse where
  | save (cause sub : Nat)
  | restore
  deriving DecidableEq, Repr

/-- A long-latency instruction that has issued and not completed (06 R135, R136): its encoding, lanes, addresses and data read
at issue (of a load: the values bound so far and its lanes with racy bytes), the flag it counts on, the steps still outstanding, the earlier
accesses of the group that must be performed before it, at the device or at least in its cluster (07 R164, 14 R327 to R329), and the
pieces its translation gave that are still to be performed. A piece of length 0 is bound. `drain` numbers the moment from which a release knows
the queued stores that its group can have read (14 R330). `frame` marks an access of the trap frame, whose pieces of 16 bytes stand in place of
lanes. `bad` gathers the causes that its data found; `holds` stops the run behind it until it commits (17 R402); `nextPc` and `nextHdr` are the region entry
that its commit begins. -/
structure Pend where
  id : Nat
  op : Nat
  f : EForm
  pc : DWord
  seq : BitVec 32
  lanes : Lanes
  entry : Lanes
  flag : Option Nat
  hm : Bool
  asid : Nat
  addrs : List (Nat × Nat)
  vals : List (Nat × Nat)
  vals2 : List (Nat × Nat)
  left : Nat
  sent : Bool
  ready : Bool
  after : List Nat
  afterSent : List Nat
  pieces : List Piece
  res : List RegWrite
  aux : Nat
  since : Nat
  bad : List LaneCause
  holds : Bool
  nextPc : DWord
  nextHdr : DWord
  drain : Option Nat
  frame : Option FrameUse
  deriving DecidableEq, Repr

/-- A run as fetched: its words, the word after it, and the fault found first by cause order (06 R131, R132, R134); `miss` is the address
of a word that is still to be fetched. -/
structure Fetched where
  h : HForm
  words : List Word
  follow : Option Word
  bad : Option (Nat × Nat)
  miss : Option Nat
  deriving DecidableEq, Repr

/-- A destination register hazarded until a run waits on the flag, a handler's for `hm` (06 R136, 17 R405). -/
structure Haz where
  isS : Bool
  isP : Bool
  n : Nat
  lanes : Lanes
  flag : Nat
  hm : Bool
  deriving DecidableEq, Repr

/-- A deferred fault waiting to be taken (17 R403), with the run it cut short and the counts that stand there. -/
structure DFault where
  lanes : Lanes
  active : Lanes
  ipc : DWord
  causes : List LaneCause
  runPc : DWord
  stand : List (DWord × Nat)
  deriving DecidableEq, Repr

/-- The operation an engine fault parked (17 R408, 12 R278, 13 R315). -/
inductive Parked where
  | none
  | matrix (core id : Nat)
  | query (c id : Nat)
  | baton (c q : Nat)
  deriving DecidableEq, Repr

/-- A queued engine fault (17 R408); `flag` is the command's flag, a handler's where the Bool is true (R405). -/
structure EFault where
  cause : Nat
  sub : Nat
  addr : Nat
  tagPc : DWord
  tagSeq : BitVec 32
  rprog : Nat
  flag : Option (Bool × Nat)
  parked : Parked
  atile : Option Nat
  deriving DecidableEq, Repr

/-- What a handler needs of the trap it serves (17 R405, R420, R421): the trap lanes, the kind, the parked operation, the
frame's address, and the counts of the trapped run's unissued long-latency instructions. -/
structure TrapCtx where
  lanes : Lanes
  kind : Nat
  parked : Parked
  frame : Nat
  runPc : DWord
  stand : List (DWord × Nat)
  deriving DecidableEq, Repr

/-- One group (15 R346): registers, flags, frontier and everything saved with it. -/
structure Group where
  /-- Launch it belongs to (MODEL: key in `State.launches`); 15 R346. -/
  launch : Nat
  /-- Block it belongs to (MODEL: key in `State.blocks`); 15 R346. -/
  block : Nat
  /-- GROUPID.GROUP, 24 bits; 15 R347. -/
  num : Nat
  /-- GROUPID.INDEX, 5 bits; 15 R347. -/
  index : Nat
  /-- Core, 6 bits; 17 R406, R416 SLOT. -/
  core : Nat
  /-- Resident slot, 5 bits; 17 R406. -/
  slot : Nat
  /-- WGRANT.W, the grant, 4 to 64; 06 R119. -/
  w : Nat
  /-- WPHYS.PHYS; 06 R119, 11 R252. -/
  phys : Nat
  /-- SUBTREE.ID, 32 bits; 06 R119, 15 R369. -/
  subtree : Nat
  /-- Base priority, 3 bits; 16 R387. -/
  base : Nat
  /-- Aging level; 16 R387. -/
  aging : Nat
  /-- v0 to v255 of each lane: key 64n + lane, 32 bits; 06 R113; a group starts with zeros (R115). -/
  v : Sp Word
  /-- s0 to s62: key n, 64 bits; 06 R113; zero but s0 (R115). -/
  s : Sp DWord
  /-- p0 to p14: key n, a lane mask; 06 R113; zero (R115). -/
  p : Sp Lanes
  /-- Poison of the v registers: key n, lane mask; 06 R114; clear. -/
  vPois : Sp Lanes
  /-- Poison of the s registers, bit n; 06 R114; clear. -/
  sPois : Lanes
  /-- Poison of the p registers: key n, lane mask; 06 R114; clear. -/
  pPois : Sp Lanes
  /-- v registers that hold an uncorrectable error: key n, lane mask; 22 R478; none. -/
  vUe : Sp Lanes
  /-- s registers that hold an uncorrectable error; 22 R478; none. -/
  sUe : Lanes
  /-- p registers that hold an uncorrectable error; 22 R478; none. -/
  pUe : Sp Lanes
  /-- cf0 to cf11; 06 R135; a group starts with SET = 1, PEND = 0 (R115). -/
  flags : List FlagSt
  /-- The twelve handler flags; 17 R405. -/
  hflags : List FlagSt
  /-- HM, handler mode; 17 R416 TSTAT; 0. -/
  hm : Bool
  /-- The trap being served; 17 R405. -/
  trap : Option TrapCtx
  /-- Frontier entries that pause until ERET; 17 R405. -/
  paused : List Entry
  /-- Futures w0 to w15: key 64k + lane; 13 R305; EMPTY (06 R115). -/
  fut : Sp Fut
  /-- Join barriers jb0 to jb7; 15 R357; unenrolled (06 R115). -/
  jb : List JoinBar
  /-- The frontier, at most 8 entries; 15 R349. -/
  entries : List Entry
  /-- Held lanes with their PCs, longest held first; 15 R349. -/
  held : List Held
  /-- Lanes that have exited; 15 R349. -/
  exited : Lanes
  /-- Region entry of each lane; 17 R400. -/
  region : Sp DWord
  /-- Run header of each lane's region entry; 17 R406, R420. -/
  regionHdr : Sp DWord
  /-- Counts that stand for unissued long-latency instructions of a run to be resumed: (PC, flag); 17 R421. -/
  stand : List (DWord × Nat)
  /-- End-of-run effects of runs to be resumed; 17 R420. -/
  owed : List Owed
  /-- RGNCNT, 32 bits; 17 R400; 0. -/
  rgncnt : BitVec 32
  /-- The run in progress; 06 R131. -/
  run : Option Run
  /-- The snapshot of the run at a header, taken while the group's last run was in progress; 06 R131, R159. -/
  pre : Option (DWord × Fetched)
  /-- Sectors of code that are being fetched, as virtual addresses / 16; 06 R158. -/
  fetching : List Nat
  /-- Faults of fetch walks, as (page, cause, subcode), until the header that meets one; 06 R131. -/
  ferr : List (Nat × Nat × Nat)
  /-- Issues of the group so far, which orders entries (MODEL); 15 R350. -/
  issues : Nat
  /-- Number of the group's issue at which each lane last began a run (MODEL); 15 R350. -/
  ranAt : Sp Nat
  /-- The stalled instruction waits for another step (MODEL). -/
  stalled : Bool
  /-- The run in progress stands at an instruction whose own wait keeps it there; 15 R352. -/
  waitsAt : Bool
  /-- Time since which the run in progress stands at an instruction that waits; 12 R299, 16 R395. -/
  stoodAt : Option Nat
  /-- Pending long-latency instructions in program order; 06 R135. -/
  pend : List Pend
  /-- Hazarded destinations; 06 R136. -/
  haz : List Haz
  /-- FWAITs that have read a handle under a flag not yet waited for, as (handle, flag); 13 R315; none. -/
  fwaits : List (Nat × Nat)
  /-- Deferred fault to be taken; 17 R403. -/
  dfault : Option DFault
  /-- Deferred faults of other lanes, found before that one is taken (17 R403; MODEL: they are taken after its ERET). -/
  dlater : List DFault
  /-- Engine faults, oldest first, at most eight; 17 R408. -/
  efaults : List EFault
  /-- LOST, engine faults dropped, saturating at 15; 17 R407; 0. -/
  lost : Nat
  /-- IV, interval number, 24 bits; 05 R109; 0. -/
  iv : Nat
  /-- SEQ, launch-site sequence number, 32 bits; 18 R426; 0. -/
  seq : BitVec 32
  /-- LAST, identity of the last split-time event, 16 bits; 18 R429; 0xC000. -/
  last : BitVec 16
  /-- Completed fences, modulo 256; 18 R429; 0. -/
  fences : BitVec 8
  /-- Data ASID, 16 bits; 17 R423; the context's ASID. -/
  dasid : Nat
  /-- CAPSEL.INDEX, 13 bits; 01 R15; 0. -/
  capsel : BitVec 13
  /-- DATA latched by a read of BEST_SCORE; 15 R373; none. -/
  best : Option Word
  /-- NRG_GROUP, 64 bits; 06 R119, 18 R438; 0. -/
  nrg : DWord
  /-- Lane-private bytes: key 2048 lane + offset; 05 R97; zero (R90). -/
  lp : Sp Byte
  /-- The group is saved; 17 R412. -/
  saved : Bool
  /-- Time of the save, which orders restorations; 17 R412. -/
  savedAt : Nat
  /-- A wait state of the saved group has ended, so its wake condition holds; 17 R410. -/
  woken : Bool
  /-- Time of the last restoration or placement; 17 R411. -/
  residentAt : Nat
  /-- A pre-emption is pending; 17 R411. -/
  preempt : Bool
  /-- Stopped for the debug agent from its next run boundary on; 18 R427, R428. -/
  stopReq : Bool
  /-- Time the group last issued; 16 R387, R389. -/
  lastIssue : Nat
  /-- Time since which every live entry has been ineligible; 16 R395. -/
  idleSince : Nat
  /-- Time of the group's last turn (MODEL; log 3), which orders the runs in progress. -/
  turned : Nat
  /-- The group has ended; 15 R348. -/
  ended : Bool
  deriving DecidableEq, Repr

/-- A guard range of a barrier or semaphore with its ASID (15 R363, 04 R82). -/
structure GuardRange where
  base : Nat
  len : Nat
  asid : Nat
  deriving DecidableEq, Repr

/-- A split-time record as a barrier or semaphore keeps it (18 R430): the last arriver and its PC, the longest waiter, its wait in aclk, the last
arriver's LAST and the event's identity. -/
structure SplitRec where
  group : Nat
  pc : DWord
  longest : Nat
  wait : Nat
  prev : BitVec 16
  ident : BitVec 16
  deriving DecidableEq, Repr

/-- One barrier: arrivals counted per group number, arrivals issued, those not yet counted as (group, PC, LAST), completed phases K,
guard ranges (15 R360, R363), and the latest split record (18 R430). -/
structure Bar where
  arr : Sp Nat
  issued : Sp Nat
  queue : List (Nat × DWord × BitVec 16)
  k : Nat
  guards : Sp GuardRange
  record : Option SplitRec
  deriving DecidableEq, Repr

/-- A SEMV: its group, its count (of which so many tokens are left), its PC, and its issuer's LAST. -/
structure SemAdd where
  g : Nat
  n : Nat
  pc : DWord
  last : BitVec 16
  deriving DecidableEq, Repr

/-- One semaphore: count, waiting SEMPs as (group, lanes) in issue order, SEMVs not yet added, the SEMVs that supplied the tokens
counted, guard ranges, grants, and the latest split record (15 R364, 18 R430). -/
structure Sem where
  count : Nat
  waiting : List (Nat × Lanes)
  adds : List SemAdd
  tokens : List SemAdd
  guards : Sp GuardRange
  grants : Nat
  record : Option SplitRec
  deriving DecidableEq, Repr

/-- One block (15 R346) and its allocations (05 R90, R98). -/
structure Block where
  /-- Launch it belongs to (MODEL key). -/
  launch : Nat
  /-- BLOCKID, 24 bits; 15 R347. -/
  num : Nat
  /-- Core; 16 R386. -/
  core : Nat
  /-- Stage, 3 bits; 15 R346. -/
  stage : Nat
  /-- A singleton block of a spawned group; 15 R367. -/
  single : Bool
  /-- Base of its core-scratchpad allocation in the core (MODEL: where the core put it); 05 R90. -/
  spBase : Nat
  /-- SPSIZE, bytes after rounding; 05 R91. -/
  spSize : Nat
  /-- Physical tile slots in ascending order; 05 R98. -/
  tiles : List Nat
  /-- Physical accumulator tiles in ascending order; 05 R98. -/
  accs : List Nat
  /-- Base priority of its groups; 16 R387. -/
  base : Nat
  /-- Block barriers 0 to 15: key k; 15 R359. -/
  bars : Sp Bar
  /-- Semaphores 0 to 15: key k; 15 R364; zero. -/
  sems : Sp Sem
  /-- Share membership: record and slot of its cluster; 05 R91, R94; none. -/
  share : Option (Nat × Nat)
  /-- Cluster placement set of the block; 15 R359. -/
  place : Nat
  /-- The block has ended and its allocations are released; 15 R348. -/
  ended : Bool
  deriving DecidableEq, Repr

/-- A stage queue: records, waiting QPUSH records, waiting QPOPs, storage, closed (15 R365, R366). -/
structure StageQ where
  recs : List (List Word)
  pushes : List (Nat × Nat × List (List Word))
  pops : List (Nat × Nat)
  closed : Bool
  deriving DecidableEq, Repr

/-- A subtree id: parent and whether it is cancelled (15 R369, R370). -/
structure Subtree where
  parent : Nat
  cancelled : Bool
  deriving DecidableEq, Repr

/-- One accepted launch (16 R385). -/
structure Launch where
  /-- The launch record, 1024 bits; 16 R380. -/
  record : BitVec 1024
  /-- Queue the record was read from; 16 R391. -/
  queue : Nat
  /-- Ring index of the record, 16 bits; 16 R391. -/
  rix : BitVec 16
  /-- Order of acceptance; 16 R389. -/
  order : Nat
  /-- DEADLINE.AT, 64 bits; 06 R119, 15 R372. -/
  deadline : DWord
  /-- BEST_SCORE.SCORE, 32 bits; 15 R373; 0x8000_0000 at acceptance. -/
  bestScore : Word
  /-- BEST_DATA.DATA, 32 bits; 15 R373; 0 at acceptance. -/
  bestData : Word
  /-- Subtree ids issued: key id; 15 R369. -/
  subs : Sp Subtree
  /-- Next subtree id; 15 R369; 1. -/
  nextSub : Nat
  /-- Cluster barriers: key 8 place + k; 15 R359. -/
  cbars : Sp Bar
  /-- Grid barriers 0 to 7: key k; 15 R359. -/
  gbars : Sp Bar
  /-- Base of its chip-scratchpad allocation; 03 R57. -/
  xBase : Nat
  /-- Bytes of chip scratchpad allocated, stage queues included; 03 R57. -/
  xAlloc : Nat
  /-- XSIZE, bytes after rounding; 05 R91. -/
  xSize : Nat
  /-- Stage queues 0 to 6: key k; 15 R365. -/
  stageQ : Sp StageQ
  /-- Next launch block to be placed; 16 R386. -/
  nextBlock : Nat
  /-- Launch blocks that have ended; 15 R348. -/
  endedBlocks : List Nat
  /-- Completion STATUS so far: 0 DONE, 1 DEADLINE, 2 CANCELLED; 16 R391. -/
  status : Nat
  /-- First fault of the completion record: REASON and FGROUP; 16 R391. -/
  reason : Nat
  fgroup : Nat
  /-- NRG_LAUNCH, 64 bits; 18 R438; 0. -/
  nrg : DWord
  /-- Time at which its blocks, commands and writes were done, and its record made; 16 R390; none. -/
  heldAt : Option Nat
  /-- The launch has completed; 16 R390. -/
  done : Bool
  deriving DecidableEq, Repr

/-- The shadow record of a scratchpad sector (05 R110): V, SCOPE, WIV, the writer and the hash of its PC, and whether the
writer was an atomic (R111). `key` tells groups of one number apart (MODEL). -/
structure Shadow where
  valid : Bool
  scope : Nat
  wiv : Nat
  writer : Nat
  hash : Nat
  atomic : Bool
  key : Nat
  deriving DecidableEq, Repr

/-- STATE of a tile slot (05 R99). -/
inductive TileState where
  | empty | filling | ready | draining
  deriving DecidableEq, Repr

/-- A tile slot (05 R99). -/
structure Tile where
  pitch : Nat
  cols : Nat
  rows : Nat
  unit32 : Bool
  spars : Nat
  fmt : Nat
  readers : Nat
  taint : Bool
  defd : Bool
  st : TileState
  az : Bool
  af : Bool
  base : Nat
  deriving DecidableEq, Repr

/-- The state word of a physical accumulator tile (12 R279). BUSY is a count of accepted operations. -/
structure AccSt where
  busy : Nat
  pois : Bool
  ownv : Bool
  owner : Nat
  deriving DecidableEq, Repr

/-- A dependence counter (12 R283). -/
structure DepCtr where
  asid : Nat
  under : Bool
  value : Nat
  deriving DecidableEq, Repr

/-- A bulk copy command (05 R106, 07 R178): how many of its parts it has moved, and whether one brought an uncorrectable-error tag (R108). -/
structure BceCmd where
  id : Nat
  g : Nat
  block : Nat
  asid : Nat
  pc : DWord
  seq : BitVec 32
  store : Bool
  chip : Bool
  slot : Nat
  va : Nat
  len : Nat
  ofs : Nat
  dc : Option Nat
  op : Nat
  started : Bool
  after : List Nat
  pos : Nat
  tagged : Bool
  deriving DecidableEq, Repr

/-- One lane request in a collector window (04 R83), and whether its frame is to be allocated in the L2 (02 R29, 06 R142). -/
structure GscReq where
  g : Nat
  op : Nat
  num : Nat
  lane : Nat
  pa : Nat
  size : Nat
  store : Option Nat
  alloc : Bool
  deriving DecidableEq, Repr

/-- A collector window: requests, opening time, its place in the order of opening, whether it closes before its time, frames still to reply once
closed, and the sectors of a frame's reply that conflict with another core's request at the port (04 R85, R86). -/
structure GscWin where
  reqs : List GscReq
  since : Nat
  seq : Nat
  force : Bool
  closed : Bool
  frames : List Nat
  race : Sp (BitVec 32)
  deriving DecidableEq, Repr

/-- What a tile-task-scheduler operation does (12 R281). -/
inductive TKind where
  | mul | mulDrain | drain | zero | save | load
  deriving DecidableEq, Repr

/-- Where a scheduler operation stands (12 R278, R281, R282). -/
inductive TState where
  | queued | running | parked | draining | finished | abandoned
  deriving DecidableEq, Repr

/-- An operation in the queue of the tile task scheduler (12 R281, R282): `drained` counts the tiles that its drain has written; `dead` says
that it was cancelled and stops at its next tile (R290). -/
structure TOp where
  id : Nat
  g : Nat
  block : Nat
  launch : Nat
  asid : Nat
  pc : DWord
  seq : BitVec 32
  op : Nat
  prio : Nat
  kind : TKind
  st : TState
  acc : Nat
  mt : Nat
  nt : Nat
  kch : Nat
  a : DWord
  b : DWord
  astr : Nat
  bstr : Nat
  zinit : Bool
  skipz : Bool
  dctl : DWord
  ddest : DWord
  dpitch : Nat
  add : Bool
  va : Nat
  wdc : Option Nat
  cdc : Option Nat
  counts : Bool
  prev : Option Nat
  last : Bool
  tile : Nat
  chunk : Nat
  started : Bool
  unit : Nat
  subtree : Nat
  baton : Option (Nat × Nat × Nat)
  after : List Nat
  drained : Nat
  dead : Bool
  deriving DecidableEq, Repr

/-- An activation table (10 R245, R249): the installed image's header and segments, owner, version and PEND. -/
structure ActTable where
  valid : Bool
  pend : Bool
  asid : Nat
  ver : BitVec 16
  tag : BitVec 16
  hdr : BitVec 256
  segs : List (BitVec 128)
  loads : List (Nat × Nat × Nat)
  deriving DecidableEq, Repr

/-- A bucket of the relay table (11 R265): key, records with poison, opening time, fired. -/
structure Bucket where
  id : Nat
  block : Nat
  pc : DWord
  arg : DWord
  subtree : Nat
  first : Nat
  len : Nat
  recs : List (List (Word × Bool))
  since : Nat
  full : Bool
  deriving DecidableEq, Repr

/-- An entry of a core's spawn queue (15 R367). -/
structure SpawnEnt where
  g : Nat
  op : Nat
  block : Nat
  launch : Nat
  pc : DWord
  arg : DWord
  width : Nat
  subtree : Nat
  stage : Nat
  base : Nat
  deriving DecidableEq, Repr

/-- A buffered table pointer (02 R33). -/
structure TPtr where
  asid : Nat
  level : Nat
  tag : Nat
  pa : Nat
  deriving DecidableEq, Repr

/-- A sector of an instruction cache: sector number, bytes, and its uncorrectable-error tag (06 R158). -/
structure ISec where
  sec : Nat
  bytes : List Byte
  ue : Bool
  deriving DecidableEq, Repr

/-- One core (01 R12). -/
structure Core where
  /-- Core scratchpad, 3 MiB: key byte; 05 R89; zero (log 1). -/
  sp : Sp Byte
  /-- Scratchpad sectors with an uncorrectable-error tag: key sector; 05 R108; none. -/
  spUe : Sp Bool
  /-- Shadow records: key sector; 05 R110; 0. -/
  shadow : Sp Shadow
  /-- Tile slots 0 to 63; 05 R99; 0. -/
  tiles : Sp Tile
  /-- Accumulator tiles: key 1024 tile + element, 32 bits; 12 R271, R279; zero. -/
  acc : Sp Word
  /-- Accumulator tile state words: key tile; 12 R279; 0. -/
  accSt : Sp AccSt
  /-- Bulk copy queue in acceptance order, at most 32; 05 R106; empty. -/
  bce : List BceCmd
  /-- Translation buffer of the BCE, 256 entries; 02 R37; empty. -/
  bceTlb : List Tlb
  /-- Translation buffers of the load pipes of matrix engines 0 and 1, 256 entries each; 02 R37; empty. -/
  meTlb : Sp (List Tlb)
  /-- Instruction cache, 4096 sectors, most recent first; 06 R158; empty. -/
  icache : List ISec
  /-- Collector input queue: (group, op), at most 16; 04 R83; empty. -/
  gscIn : List (Nat × Nat)
  /-- Collector windows 0 to 3; 04 R83; none. -/
  gscWin : Sp GscWin
  /-- Tile task scheduler queue in acceptance order, at most 256; 12 R281; empty. -/
  tsch : List TOp
  /-- Dependence counters 0 to 63; 12 R283; 0. -/
  dcs : Sp DepCtr
  /-- Activation tables 0 to 7; 10 R249; 0. -/
  act : Sp ActTable
  /-- Relay table, at most 16 buckets; 11 R265; empty. -/
  relay : List Bucket
  /-- Spawn queue, at most 64; 15 R367; empty. -/
  spawn : List SpawnEnt
  /-- Lane-private ways n, 0 to 4; 04 R66, 05 R97; DESIGN CHOICE 4 (log 12). -/
  carve : Nat
  /-- The CARVE that has not completed; 17 R424; none. -/
  carving : Option Nat
  /-- Slices each group is bound to, with lane-registers per lane: (group, (slices, registers)); 11 R251. -/
  binds : Sp (List Nat × Nat)
  /-- Next issue slot sampled; 18 R434; 0. -/
  sample : Nat
  /-- Time of the last time-slice expiry; 17 R411; 0. -/
  sliceAt : Nat
  deriving DecidableEq, Repr

/-- A frame slot of a cluster cache (04 R69). BLK is the view of SST that R70 defines. `vt` says that the virtual tag is valid: an
invalidation leaves frozen replicas under their back-tag alone (02 R40). `lru` orders replacement, which takes a slot with `keep` last (06
R142). -/
structure CSlot where
  vframe : Nat
  asid : Nat
  pback : Nat
  g : Bool
  wok : Bool
  dset : Bool
  fillix : Nat
  fillsec : Nat
  touch : BitVec 32
  ue : BitVec 32
  sst : BitVec 64
  vt : Bool
  lru : Nat
  keep : Bool
  deriving DecidableEq, Repr

/-- A spatial predictor entry (04 R74). -/
structure Pred where
  back : Nat
  fwd : Nat
  conf : Nat
  deriving DecidableEq, Repr

/-- A fill of a cluster cache under way (04 R75): who asked, the frame, the sectors still to come, the translation, virtual address and PC that it
is installed with, and the CACHE hint of its access (06 R142), 1 for what is not installed. -/
structure Fill where
  who : Waiter
  frame : Nat
  mask : BitVec 32
  t : Tlb
  va : Nat
  pc : Nat
  hint : Nat
  deriving DecidableEq, Repr

/-- A waiter of a page walk (02 R34): an address of the missing frame, the access kind (0 read, 1 write, 2 fetch, 3 range maintenance) and who
waits. -/
structure WalkWait where
  va : Nat
  kind : Nat
  who : Waiter
  deriving DecidableEq, Repr

/-- A page walk of a 2 MiB region (02 R34 to R36): the table and level it has come to, the entry whose read or update is under way at the
L2, and the value that the update expects there (R28). -/
structure Walk where
  asid : Nat
  region : Nat
  age : BitVec 24
  started : Bool
  level : Nat
  table : Nat
  entry : Option Nat
  cas : Option Nat
  waiters : List WalkWait
  deriving DecidableEq, Repr

/-- A miss that found the waiter list full (02 R35). -/
structure WalkMiss where
  asid : Nat
  w : WalkWait
  age : BitVec 24
  deriving DecidableEq, Repr

/-- A store waiting in a cluster's store queue (14 R327), or combined in its WC buffers (02 R29): one sector's bytes by physical address,
the first byte's virtual address, the translation it used, the store's PC, whether its request is sent, whether it is a WC store, and
whether its instruction writes the whole 64-byte unit (02 R23). -/
structure StoreEnt where
  id : Nat
  g : Nat
  op : Nat
  pa : Nat
  va : Nat
  t : Tlb
  bytes : List (Nat × Byte)
  sync : Bool
  out : Bool
  wc : Bool
  pc : Nat
  whole : Bool
  deriving DecidableEq, Repr

/-- A range of a cluster's freeze filter (03 R62); ASID none is ANY. -/
structure FRange where
  asid : Option Nat
  lo : Nat
  hi : Nat
  deriving DecidableEq, Repr

/-- A share slot: held, revoked, the member block, window base and length (05 R94, R95). -/
structure ShareSlot where
  held : Bool
  revoked : Bool
  block : Nat
  base : Nat
  len : Nat
  deriving DecidableEq, Repr

/-- A share-group record: launch, key and member slots 0 to 3 (05 R94). -/
structure ShareRec where
  launch : Nat
  key : Nat
  slots : Sp ShareSlot
  deriving DecidableEq, Repr

/-- The hash accumulator (13 R316, R317); `queue` holds the commands accepted and not completed, as (group, instruction), oldest first. -/
structure Hacc where
  bound : Option (Nat × Nat)
  ring : Nat
  n : Nat
  wp : Nat
  drop : Nat
  tab : Sp (Word × Word)
  queue : List (Nat × Nat)
  deriving DecidableEq, Repr

/-- One pushed row of a baton batch (12 R299): pusher, handle, lane and its LEAF's launch-site tag. -/
structure BatonRow where
  g : Nat
  k : Nat
  lane : Nat
  pc : DWord
  seq : BitVec 32
  deriving DecidableEq, Repr

/-- A baton batch: which input slot, its rows, opening time, whether it waits to fire, ring entry once fired, whether its owner was told
of a tile it does not own, and the fences that hold it, as (group, instruction). -/
structure Batch where
  id : Nat
  half : Nat
  rows : List BatonRow
  since : Nat
  firing : Bool
  entry : Option Nat
  told : Bool
  deriving DecidableEq, Repr

/-- A baton queue (12 R299, R300): its binding, the slot that opens next, its batches, the ring entries taken (told apart
by binding), the LEAFCFGs that wait for it to unbind, and the binding that the last of them makes then. -/
structure Baton where
  bound : Bool
  half : Nat
  block : Nat
  launch : Nat
  core : Nat
  cfg : BitVec 256
  tmpl : List (BitVec 512)
  g : Nat
  gnum : Nat
  op : Nat
  subtree : Nat
  prio : Nat
  asid : Nat
  pc : DWord
  seq : BitVec 32
  batches : List Batch
  ring : List Nat
  unbinding : List (Nat × Nat)
  closing : Bool
  ncfg : Option (BitVec 256)
  ntmpl : List (BitVec 512)
  npc : DWord
  nseq : BitVec 32
  deriving DecidableEq, Repr

/-- A lane query in a collision query engine (13 R312 to R315): the nodes read so far, and whether it is parked. -/
structure Query where
  id : Nat
  kind : Nat
  g : Nat
  op : Nat
  k : Nat
  lane : Nat
  asid : Nat
  base : Nat
  depth : Nat
  args : List Word
  nodes : Sp DWord
  started : Bool
  dropped : Bool
  parked : Bool
  pc : DWord
  seq : BitVec 32
  after : List Nat
  deriving DecidableEq, Repr

/-- One cluster (01 R12). -/
structure Cluster where
  /-- Frame slots of the cluster cache: key 2048 bank + 16 set + way; 04 R69; 0. -/
  slots : Sp CSlot
  /-- Spatial predictor: key index; 04 R74; zero. -/
  pred : Sp Pred
  /-- Translation buffer, most recent first, at most 4096; 02 R33; empty. -/
  tlb : List Tlb
  /-- Table-pointer cache, most recent first, at most 64; 02 R33; empty. -/
  tptr : List TPtr
  /-- Page walks pending and in progress; 02 R34; none. -/
  walks : List Walk
  /-- Misses that wait for room in the waiter list, oldest first; 02 R35; none. -/
  missQ : List WalkMiss
  /-- Fills under way; 04 R75; none. -/
  fills : List Fill
  /-- Store queue, oldest first, at most 64; 14 R327; empty. -/
  storeQ : List StoreEnt
  /-- Freeze filter, at most 64 ranges; 03 R62; empty. -/
  filter : List FRange
  /-- Share-group records 0 to 7; 05 R94; free. -/
  shares : Sp ShareRec
  /-- Hash accumulator; 13 R316; unbound. -/
  hacc : Hacc
  /-- Baton queues 0 to 7; 12 R299; unbound. -/
  baton : Sp Baton
  /-- Lane queries of the collision query engine, at most 512; 13 R315; none. -/
  cqe : List Query
  deriving DecidableEq, Repr

/-- A transaction of a directory entry, open or queued (03 R48): the request, its open-transaction slot, the answers it waits for (k for
cluster cache k, 16 + j for the host's line j of the frame), the 64-byte units it waits for, the sectors that collided racily with it
(R53), and the time since which the slice holds it (R44). -/
structure Txn where
  req : Req
  slot : Nat
  acks : List Nat
  fill : BitVec 8
  race : BitVec 32
  since : Nat
  deriving DecidableEq, Repr

/-- A host snoop of a line that waits for cluster caches (03 R55): whether the host takes the line, and the caches. -/
structure Snoop where
  line : Nat
  drop : Bool
  acks : List Nat
  deriving DecidableEq, Repr

/-- A directory entry (03 R45) with its forward queue (R48, R49), the answers that an eviction of its L2 slot waits for (R42), and host
snoops in progress (R55). OWNER reads 0 where nothing was ever owned. -/
structure DirEnt where
  owned : BitVec 32
  owner : Sp Nat
  sharers : BitVec 17
  opens : List Txn
  fwd : List Txn
  evict : Option (List Nat)
  snoops : List Snoop
  deriving DecidableEq, Repr

/-- An L2 frame slot (03 R41, R42): its way, 64-byte units present, units that the host has granted owned (R55), sectors written and not
yet in DRAM, replacement order. -/
structure L2Slot where
  way : Nat
  units : BitVec 8
  own : BitVec 8
  dirty : BitVec 32
  lru : Nat
  deriving DecidableEq, Repr

/-- The CXL.cache requests that the device sends (03 R55). -/
inductive CxlKind where
  | read | readOwn | cleanEvict | dirtyEvict
  deriving DecidableEq, Repr

/-- STATE of a freeze entry (03 R58). -/
inductive FzState where
  | free | recalling | frozen | thawing
  deriving DecidableEq, Repr

/-- An instruction or command that waits for a freeze entry: the group and access, a dependence counter (core, counter), or a
host command's SEQ (03 R60, R64; 22 R469). -/
inductive FzWait where
  | instr (g op : Nat)
  | counter (core k : Nat)
  | host (seq : BitVec 8)
  deriving DecidableEq, Repr

/-- A freeze-table entry (03 R58) with the acknowledgements outstanding, the recalls its scan waits for as (owner, frame), the line ranges
[lo, hi) whose back-invalidates are still to come, and the waiters of FREEZE and THAW. -/
structure FzEnt where
  vbase : Nat
  asid : Nat
  hr : Bool
  sectors : Nat
  st : FzState
  count : Nat
  pbase : Nat
  acked : Bool
  slices : List Nat
  asked : List (Nat × Nat)
  collects : List Nat
  bisnp : List (Nat × Nat)
  fwait : List FzWait
  twait : List FzWait
  deriving DecidableEq, Repr

/-- The L2 and the freeze table (03). -/
structure L2 where
  /-- Directory entries: key frame; 03 R45; 0. -/
  dir : Sp DirEnt
  /-- Requests in the slices' input buffers, age order; 03 R50; empty. -/
  inbuf : List Txn
  /-- L2 frame slots: key frame; 03 R41; empty. -/
  slots : Sp L2Slot
  /-- Freeze table: key handle; 03 R58; 0. -/
  fz : Sp FzEnt
  /-- CXL.cache requests sent and not yet answered, oldest first, as (kind, line); 03 R55; none. -/
  cxl : List (CxlKind × Nat)
  deriving DecidableEq, Repr

/-- The chip scratchpad (03 R56). -/
structure Chip where
  /-- 64 MiB: key device address; 03 R56; zero (log 1). -/
  bytes : Sp Byte
  /-- Sectors with an uncorrectable-error tag; 05 R108; none. -/
  ue : Sp Bool
  /-- Shadow records: key sector; 05 R110; 0. -/
  shadow : Sp Shadow
  deriving DecidableEq, Repr

/-- A spike queue with its port's time base (13 R319 to R322): events with their times, TB, whether the next event is the first of the queue
since EN was set, the T of the event that the port enqueued last, LASTT, DROPS, REORD. -/
structure Spike where
  evs : List DWord
  times : List DWord
  tb : DWord
  first : Bool
  prevT : Option DWord
  lastT : DWord
  drops : Nat
  reord : Nat
  deriving DecidableEq, Repr

/-- A pool of Orchard (13 R323, R324). The free list is `stack` on top of the indices from `fresh` up. -/
structure Pool where
  en : Bool
  zero : Bool
  lsize : Nat
  asid : Nat
  base : Nat
  count : Nat
  flpa : Nat
  stack : List Nat
  fresh : Nat
  deriving DecidableEq, Repr

/-- A frame of a receive port (22 R472): its slot, the payload bytes placed and those of them written, and header fields; the accesses that
write it and are not answered, when it ended, whether its header has gone out, and whether its end counts. -/
structure RxFrame where
  slot : Nat
  bytes : Nat
  wrote : Nat
  fnum : BitVec 16
  tsof : DWord
  dt : Option Nat
  vc : Nat
  frz : Bool
  err : Bool
  trunc : Bool
  fseq : DWord
  outs : List Nat
  teof : DWord
  hdr : Bool
  counts : Bool
  deriving DecidableEq, Repr

/-- A receive port's state beyond its registers (22 R472): the open frame, frames that have ended and are not yet whole in memory, oldest
first, frames started since EN was set, the enable time. -/
structure RxPort where
  frame : Option RxFrame
  ended : List RxFrame
  fseq : DWord
  enAt : DWord
  deriving DecidableEq, Repr

/-- A launch record that waits on counters (16 R379). -/
structure PendLaunch where
  record : BitVec 1024
  queue : Nat
  rix : BitVec 16
  order : Nat
  deriving DecidableEq, Repr

/-- A completion record that waits for room in its ring (16 R390), or is being written by an access: ring, record without TEND and PH, the
signal counters, and when the launch completed or was refused. -/
structure PendRec where
  ring : Nat
  record : BitVec 256
  signals : List Nat
  eng : Option Nat
  since : Nat
  deriving DecidableEq, Repr

/-- The power states (22 R479). -/
inductive Power where
  | active | idle | retain | recovery
  deriving DecidableEq, Repr

/-- A host command in progress (22 R468), whether it still waits for what comes from outside the part (a sensor's answer, a signature, a
certificate), and what has come. -/
structure HostCmd where
  op : Nat
  seq : BitVec 8
  waits : Bool
  data : List Byte
  deriving DecidableEq, Repr

/-- An invalidation in progress (02 R39): scope 0 range, 1 ASID, 2 non-global, 3 all; its issuer's earlier accesses, as (group, instruction);
whether the entries are removed, and the accesses and engine requests, as (access, part), that used one of them; who waits. -/
structure Inval where
  id : Nat
  scope : Nat
  asid : Nat
  lo : Nat
  hi : Nat
  before : List (Nat × Nat)
  removed : Bool
  used : List (Nat × Nat)
  engs : List (Nat × Nat)
  waiter : FzWait
  deriving DecidableEq, Repr

/-- The units of which the device has one (01 R12). -/
structure Device where
  /-- TAIL last seen by the queue watcher: key queue, 16 bits; 16 R378; 0. -/
  tail : Sp Nat
  /-- Queues whose tail line the watcher must read again; 16 R378; none. -/
  reread : List Nat
  /-- Pending launches in order of reading, at most 256; 16 R379; none. -/
  pending : List PendLaunch
  /-- Launch records read so far, which orders them (MODEL). -/
  reads : Nat
  /-- Completion records waiting for room, in completion order, those beyond a ring's first 64 held; 16 R390; none. -/
  waiting : List PendRec
  /-- Class masks in effect: key class; 16 R383; 0. -/
  resv : Sp DWord
  /-- Orchard pools 0 to 15; 13 R323; 0. -/
  pools : Sp Pool
  /-- Spike queues 0 to 15; 13 R319; empty. -/
  spikes : Sp Spike
  /-- Receive ports 0 to 15; 22 R472; no open frame. -/
  rx : Sp RxPort
  /-- Frames sent by transmit ports: (port, descriptor, payload), most recent first; 22 R473; none. -/
  sent : List (Nat × BitVec 128 × List Byte)
  /-- Descriptors whose payload a transmit port reads: key port; 22 R473; none. -/
  tx : Sp (BitVec 128)
  /-- Private writes made by the I3C controller port: (address, bytes), most recent first; 22 R475; none. -/
  i3c : List (BitVec 7 × List Byte)
  /-- Leuth records on their way to DRAM, oldest first; 18 R433; none. -/
  traceQ : List (List Byte)
  /-- Leuth records dropped since the last one written (GAP); 18 R431; false. -/
  gap : Bool
  /-- Times of recent retries in ns; 18 R436; none. -/
  retries : List Nat
  /-- The host command in progress; 22 R468; none. -/
  hcmd : Option HostCmd
  /-- Engine accesses in progress: key the command; 03 R43; none. -/
  engs : Sp EngAcc
  /-- Invalidations in progress; 02 R39; none. -/
  invals : List Inval
  /-- MSI-X vectors sent, most recent first; 22 R467; none. -/
  msix : List Nat
  /-- A debug agent is attached; 17 R419; DESIGN CHOICE true (log 13). -/
  agent : Bool
  /-- Save pool in use: group, place in the pool, bytes; 17 R412; none. -/
  savedBytes : Sp (Nat × Nat)
  /-- Power state; 22 R479; DESIGN CHOICE ACTIVE (log 14). -/
  power : Power
  /-- aclk in units of 25 MHz, 36 to 48; 22 R479; DESIGN CHOICE 48 (log 14). -/
  aclk : Nat
  /-- I3C TJ, 16 bits; 22 R474; DESIGN CHOICE 0 (log 14). -/
  tj : BitVec 16
  /-- I3C PWR, 16 bits; 22 R474; DESIGN CHOICE 0 (log 14). -/
  pwr : BitVec 16
  /-- I3C PLIM, 16 bits; 22 R474; 320. -/
  plim : BitVec 16
  /-- I3C THROT, 16 bits; 22 R474; 0. -/
  throt : BitVec 16
  /-- I3C RECOV, 16 bits; 22 R474; 0. -/
  recov : BitVec 16
  /-- I3C RSTAT, 16 bits; 22 R474; 0. -/
  rstat : BitVec 16
  /-- I3C ALERT, 16 bits; 22 R474; 0. -/
  alert : BitVec 16
  /-- In-band interrupts raised; 22 R474; 0. -/
  ibi : Nat
  /-- I3C dynamic address, once assigned; 22 R474; none. -/
  dyn : Option (BitVec 7)
  /-- Firmware image bytes received through RDATA; 22 R476; none. -/
  image : List Byte
  /-- The firmware image in flash; 22 R476; DESIGN CHOICE empty (log 10). -/
  flash : List Byte
  /-- VERSION of the stored firmware image; 22 R476; DESIGN CHOICE 0 (log 10). -/
  version : BitVec 32
  /-- Time since which no launch is accepted or pending; 22 R479; 0. -/
  quietSince : Nat
  deriving DecidableEq, Repr

/-- Which step comes next (MODEL; log 3): a step of an agent or the outside world, a step due inside the part, the issue of a
group's next header or instruction, or the passing of time in ns. -/
inductive Due where
  | event (i : Instr)
  | wire (n : Nat)
  | issue (g : Nat)
  | tick (ns : Nat)
  deriving DecidableEq, Repr

/-- The machine. -/
structure State where
  /-- Global memory by physical address: DRAM, host and peer memory; 02 R20; unwritten bytes read 0 (log 1). -/
  mem : List Host.Cell
  /-- 64-byte units poisoned by an uncorrectable error: key PA / 64; 02 R23; none. -/
  memUe : Sp Bool
  /-- Device register window, 64-bit registers: key offset / 8; 02 R20; each register's stated reset value. -/
  win : Sp DWord
  /-- Chip scratchpad; 03 R56. -/
  chip : Chip
  /-- L2, directory and freeze table; 03. -/
  l2 : L2
  /-- Clusters 0 to 15; 04, 12, 13. -/
  clusters : Sp Cluster
  /-- Cores 0 to 63; 05, 10, 12. -/
  cores : Sp Core
  /-- Groups: key in order of placement (MODEL key); 15 R346. -/
  groups : Sp Group
  /-- Blocks: key in order of placement (MODEL key); 15 R346. -/
  blocks : Sp Block
  /-- Launches: key in order of acceptance (MODEL key); 16 R385. -/
  launches : Sp Launch
  /-- Device units; 13, 16, 17, 18, 22. -/
  dev : Device
  /-- Steps due inside the part, oldest first (MODEL; log 3). -/
  wires : List Msg
  /-- Steps whose order is given (MODEL; log 3): empty after reset. -/
  agenda : List Due
  /-- The group whose instruction is executed (MODEL). -/
  cur : Nat
  /-- TIME, 64 bits, ns; 06 R119; DESIGN CHOICE 0 (log 2). -/
  time : DWord
  /-- Draws made from the free values of `Config` (MODEL; DESIGN CHOICE 0, log 9). -/
  free : Nat
  /-- Next key for a group, block, launch or command (MODEL). -/
  nextId : Nat
  deriving DecidableEq, Repr

/-- A flag with nothing pending (06 R115). -/
def FlagSt.reset : FlagSt := { set := true, pend := 0 }

/-- An empty future slot (13 R305). -/
def Fut.reset : Fut :=
  { st := .empty, v := 0, cmd := 0, tagPc := 0, tagSeq := 0, cause := 0, sub := 0, addr := 0, ring := none }

/-- A group as R115 starts it, with no identity, lanes or entry yet. -/
def Group.reset : Group :=
  { launch := 0, block := 0, num := 0, index := 0, core := 0, slot := 0, w := 4, phys := 4, subtree := 0, base := 0, aging := 0,
    v := [], s := [], p := [], vPois := [], sPois := 0, pPois := [], vUe := [], sUe := 0, pUe := [],
    flags := List.replicate 12 FlagSt.reset, hflags := List.replicate 12 FlagSt.reset, hm := false, trap := none, paused := [],
    fut := [], jb := List.replicate 8 { m := 0, a := 0 }, entries := [], held := [], exited := 0, region := [],
    regionHdr := [], stand := [], owed := [], rgncnt := 0, run := none, pre := none, fetching := [], ferr := [], issues := 0, ranAt := [], stalled := false, waitsAt := false, stoodAt := none, pend := [], haz := [], fwaits := [], dfault := none, dlater := [], efaults := [],
    lost := 0, iv := 0, seq := 0, last := 0xC000, fences := 0, dasid := 0, capsel := 0, best := none, nrg := 0, lp := [],
    saved := false, savedAt := 0, woken := false, residentAt := 0, preempt := false, stopReq := false, lastIssue := 0,
    idleSince := 0, turned := 0, ended := false }

/-- A barrier with no arrival (15 R360). -/
def Bar.reset : Bar := { arr := [], issued := [], queue := [], k := 0, guards := [], record := none }

/-- A semaphore as a block starts it (15 R364). -/
def Sem.reset : Sem := { count := 0, waiting := [], adds := [], tokens := [], guards := [], grants := 0, record := none }

/-- A block with no allocation. -/
def Block.reset : Block :=
  { launch := 0, num := 0, core := 0, stage := 0, single := false, spBase := 0, spSize := 0, tiles := [], accs := [], base := 0,
    bars := [], sems := [], share := none, place := 0, ended := false }

/-- A launch at acceptance, before its record's values (15 R372, R373). -/
def Launch.reset : Launch :=
  { record := 0, queue := 0, rix := 0, order := 0, deadline := BitVec.allOnes 64, bestScore := 0x80000000, bestData := 0, subs := [],
    nextSub := 1, cbars := [], gbars := [], xBase := 0, xAlloc := 0, xSize := 0, stageQ := [], nextBlock := 0, endedBlocks := [],
    status := 0, reason := 0, fgroup := 0xFFFFFF, nrg := 0, heldAt := none, done := false }

/-- An empty stage queue (15 R365). -/
def StageQ.reset : StageQ := { recs := [], pushes := [], pops := [], closed := false }

/-- A clear shadow record (05 R110). -/
def Shadow.reset : Shadow := { valid := false, scope := 0, wiv := 0, writer := 0, hash := 0, atomic := false, key := 0 }

/-- An undefined tile slot (05 R99). -/
def Tile.reset : Tile :=
  { pitch := 0, cols := 0, rows := 0, unit32 := false, spars := 0, fmt := 0, readers := 0, taint := false, defd := false,
    st := .empty, az := false, af := false, base := 0 }

/-- An unowned accumulator tile (12 R279). -/
def AccSt.reset : AccSt := { busy := 0, pois := false, ownv := false, owner := 0 }

/-- A clear dependence counter (12 R283). -/
def DepCtr.reset : DepCtr := { asid := 0, under := false, value := 0 }

/-- An activation table with nothing installed (10 R249). -/
def ActTable.reset : ActTable :=
  { valid := false, pend := false, asid := 0, ver := 0, tag := 0, hdr := 0, segs := [], loads := [] }

/-- A core after reset. -/
def Core.reset : Core :=
  { sp := [], spUe := [], shadow := [], tiles := [], acc := [], accSt := [], bce := [], bceTlb := [], meTlb := [], icache := [], gscIn := [],
    gscWin := [], tsch := [], dcs := [], act := [], relay := [], spawn := [], carve := 4, carving := none, binds := [],
    sample := 0, sliceAt := 0 }

/-- An unbound hash accumulator (13 R316). -/
def Hacc.reset : Hacc := { bound := none, ring := 0, n := 0, wp := 0, drop := 0, tab := [], queue := [] }

/-- An unbound baton queue (12 R300). -/
def Baton.reset : Baton :=
  { bound := false, half := 0, block := 0, launch := 0, core := 0, cfg := 0, tmpl := [], g := 0, gnum := 0, op := 0, subtree := 0, prio := 0,
    asid := 0, pc := 0, seq := 0, batches := [], ring := [], unbinding := [], closing := false, ncfg := none,
    ntmpl := [], npc := 0, nseq := 0 }

/-- A cluster after reset. -/
def Cluster.reset : Cluster :=
  { slots := [], pred := [], tlb := [], tptr := [], walks := [], missQ := [], fills := [], storeQ := [], filter := [], shares := [], hacc := Hacc.reset,
    baton := [], cqe := [] }

/-- A free frame slot (04 R70). -/
def CSlot.reset : CSlot :=
  { vframe := 0, asid := 0, pback := 0, g := false, wok := false, dset := false, fillix := 0, fillsec := 0, touch := 0, ue := 0,
    sst := 0, vt := false, lru := 0, keep := false }

/-- A predictor entry after reset (04 R74). -/
def Pred.reset : Pred := { back := 0, fwd := 0, conf := 0 }

/-- A directory entry after reset: every sector in I (03 R45, R46). -/
def DirEnt.reset : DirEnt := { owned := 0, owner := [], sharers := 0, opens := [], fwd := [], evict := none, snoops := [] }

/-- An empty L2 frame slot. -/
def L2Slot.reset : L2Slot := { way := 0, units := 0, own := 0, dirty := 0, lru := 0 }

/-- A FREE freeze entry (03 R58). -/
def FzEnt.reset : FzEnt :=
  { vbase := 0, asid := 0, hr := false, sectors := 0, st := .free, count := 0, pbase := 0, acked := false, slices := [],
    asked := [], collects := [], bisnp := [], fwait := [], twait := [] }

/-- An empty spike queue (13 R319). -/
def Spike.reset : Spike := { evs := [], times := [], tb := 0, first := true, prevT := none, lastT := 0, drops := 0, reord := 0 }

/-- A disabled pool (13 R323). -/
def Pool.reset : Pool :=
  { en := false, zero := false, lsize := 0, asid := 0, base := 0, count := 0, flpa := 0, stack := [], fresh := 0 }

/-- A receive port after reset (22 R471). -/
def RxPort.reset : RxPort := { frame := none, ended := [], fseq := 0, enAt := 0 }

/-- The device units after reset. -/
def Device.reset : Device :=
  { tail := [], reread := [], pending := [], reads := 0, waiting := [], resv := [], pools := [], spikes := [], rx := [],
    sent := [], tx := [], i3c := [], traceQ := [], gap := false, retries := [], hcmd := none, engs := [], invals := [], msix := [], agent := true, savedBytes := [],
    power := .active, aclk := 48, tj := 0, pwr := 0, plim := 320, throt := 0, recov := 0, rstat := 0, alert := 0, ibi := 0,
    dyn := none, image := [], flash := [], version := 0, quietSince := 0 }

/-- The machine right after reset (22 R476): nothing in memory, no launch, no step due. -/
def State.reset : State :=
  { mem := [], memUe := [], win := [], chip := { bytes := [], ue := [], shadow := [] },
    l2 := { dir := [], inbuf := [], slots := [], fz := [], cxl := [] }, clusters := [], cores := [], groups := [], blocks := [],
    launches := [], dev := Device.reset, wires := [], agenda := [], cur := 0, time := 0, free := 0, nextId := 1 }

end Sys2Proof.Machine
end

