-- ==== Sys2Proof/Machine/Table.lean ====
section
/-!
DEFINITION. The operations on sparse tables: (key, value) lists with strictly rising keys. A table whose unlisted keys read as
a default `d` is kept canonical by `tupd`, which lists no entry equal to `d`.
-/

namespace Sys2Proof.Machine

open Sys2Proof

/-- The value listed for key k. -/
def tfind {α : Type} : Sp α → Nat → Option α
  | [], _ => none
  | (j, v) :: r, k => if j = k then some v else tfind r k

/-- The value at key k, or the default. -/
def tget {α : Type} (d : α) (t : Sp α) (k : Nat) : α := (tfind t k).getD d

/-- The table with v at key k. -/
def tput {α : Type} : Sp α → Nat → α → Sp α
  | [], k, v => [(k, v)]
  | (j, w) :: r, k, v => if k < j then (k, v) :: (j, w) :: r else if k = j then (k, v) :: r else (j, w) :: tput r k v

/-- The table without key k. -/
def tdel {α : Type} : Sp α → Nat → Sp α
  | [], _ => []
  | (j, w) :: r, k => if j = k then tdel r k else (j, w) :: tdel r k

/-- The table with v at key k, where d is what an unlisted key reads as. -/
def tupd {α : Type} [DecidableEq α] (d : α) (t : Sp α) (k : Nat) (v : α) : Sp α :=
  if v = d then tdel t k else tput t k v

/-- The table with f applied at key k. -/
def tmod {α : Type} (d : α) (t : Sp α) (k : Nat) (f : α → α) : Sp α := tput t k (f (tget d t k))

/-- Keys strictly rise. -/
def trising {α : Type} : Sp α → Bool
  | [] => true
  | [_] => true
  | (j, _) :: (k, v) :: r => j < k && trising ((k, v) :: r)

/-- The canonical form of a table with default d: keys strictly rise and no entry equals d. -/
def twf {α : Type} [DecidableEq α] (d : α) (t : Sp α) : Bool := trising t && t.all fun e => e.2 ≠ d

/-- The keys of a table. -/
def tkeys {α : Type} (t : Sp α) : List Nat := t.map (·.1)

/-- The smallest number from n up, within fuel steps, that is not in the list. -/
def lowestFree (l : List Nat) (n : Nat) : Nat → Nat
  | 0 => n
  | k + 1 => if l.contains n then lowestFree l (n + 1) k else n

/-- The first element of least key. -/
def minBy {α : Type} (lt : α → α → Bool) : List α → Option α
  | [] => none
  | x :: r => some (r.foldl (fun a b => if lt b a then b else a) x)

/-- A list with the element inserted before the first one it precedes. -/
def insertBy {α : Type} (lt : α → α → Bool) (x : α) : List α → List α
  | [] => [x]
  | y :: r => if lt x y then x :: y :: r else y :: insertBy lt x r

/-- A list sorted by repeated insertion. -/
def sortBy {α : Type} (lt : α → α → Bool) (l : List α) : List α := l.foldl (fun a x => insertBy lt x a) []

/-- A list without repeats, first occurrences kept. -/
def dedup {α : Type} [DecidableEq α] (l : List α) : List α :=
  (l.foldl (fun a x => if a.contains x then a else x :: a) []).reverse

end Sys2Proof.Machine
end

