-- ==== Sys2Proof/Machine/Store.lean ====
section
/-!
DEFINITION. Where the machine keeps things: physical memory and its regions (02 R20, R21), the device register window with the
reset value of every register, the capability list (01 R18), the context table (17 R414), the launch record's fields (16 R380),
and the accessors of groups, blocks, launches, cores and clusters.
-/

namespace Sys2Proof.Machine

open Sys2Proof

/-! ### Physical memory -/

/-- The device register window's first physical address (02 R20). -/
def winBase : Nat := 0xFFF0000000000
/-- PA lies in DRAM (02 R20). -/
def isDram (pa : Nat) : Bool := pa < 0x3000000000
/-- Channel of a DRAM address, the byte address within it, and the sub-channel (02 R22). -/
def dramChannel (pa : Nat) : Nat := bits pa 37 9 % 24
def chanAddr (pa : Nat) : Nat := bits pa 37 9 / 24 * 512 + pa % 512
def subCh (pa : Nat) : Nat := bits pa 6 6
/-- Slice of a chip-scratchpad device address (03 R56). -/
def chipSlice (ca : Nat) : Nat := bits ca 13 9 ^^^ bits ca 18 14 ^^^ bits ca 23 19 ^^^ bits ca 25 24
/-- PA lies in host or peer memory (02 R20). -/
def isHost (pa : Nat) : Bool := 0x8000000000000 ≤ pa && pa < winBase
/-- PA lies in the device register window (02 R20). -/
def isWindow (pa : Nat) : Bool := winBase ≤ pa && pa < winBase + 0x40000000
/-- PA lies in a reserved region (02 R20). -/
def isReserved (pa : Nat) : Bool := !isDram pa && !isHost pa && !isWindow pa

/-- Memory is in its canonical form: addresses strictly rise and no entry is 0, which an unlisted address reads as (log 1). -/
abbrev Memory.wf (m : List Host.Cell) : Prop := twf (0 : Byte) m = true

/-- One byte of memory. -/
def peek (m : List Host.Cell) (a : Nat) : Byte := tget 0 m a
/-- Memory with one byte written. -/
def poke (m : List Host.Cell) (a : Nat) (b : Byte) : List Host.Cell := tupd 0 m a b
/-- Memory with bytes written from address a up. -/
def pokes (m : List Host.Cell) (a : Nat) : List Byte → List Host.Cell
  | [] => m
  | b :: r => pokes (poke m a b) (a + 1) r
/-- n bytes of a byte table from address a up. -/
def peeks (m : Sp Byte) (a : Nat) : Nat → List Byte
  | 0 => []
  | n + 1 => tget 0 m a :: peeks m (a + 1) n

/-- The little-endian number of a byte list (00 R5). -/
def leNat : List Byte → Nat
  | [] => 0
  | b :: r => b.toNat + 256 * leNat r
/-- n little-endian bytes of a number. -/
def leBytes (x : Nat) : Nat → List Byte
  | 0 => []
  | n + 1 => BitVec.ofNat 8 (x % 256) :: leBytes (x / 256) n

/-! ### The register window -/

/-- Window offsets with a nonzero reset value: QCFG PMAX (16 R377), MINDL (R383), WDOG (R395), TSLICE (17 R413), RXCFG EVDT (22
R471), RFRZ TEN, RTHRESH, RWIN (18 R436). -/
def winReset (ofs : Nat) : DWord :=
  if 0x100000 ≤ ofs && ofs < 0x101000 && ofs % 0x40 == 0x18 then 0x7000000000000000
  else if 0x300000 ≤ ofs && ofs < 0x300040 && ofs % 0x10 == 8 then 10000
  else if ofs == 0x300040 then 100000000
  else if ofs == 0x300090 then 1000000
  else if 0x500000 ≤ ofs && ofs < 0x500400 && ofs % 0x40 == 0 then BitVec.ofNat 64 (0x30 * 2 ^ 53)
  else if ofs == 0x420400 then 0x00001F0000400064
  else 0

/-- A window register as the state holds it. -/
def winGet (s : State) (ofs : Nat) : DWord := (tfind s.win (ofs / 8)).getD (winReset (ofs / 8 * 8))
/-- The same, as a number. -/
def winNat (s : State) (ofs : Nat) : Nat := (winGet s ofs).toNat
/-- Sets a window register's held value. -/
def winSet (s : State) (ofs : Nat) (v : Nat) : State := { s with win := tput s.win (ofs / 8) (BitVec.ofNat 64 v) }
/-- x with bits [hi:lo] replaced by y. -/
def setBits (x hi lo y : Nat) : Nat :=
  x - bits x hi lo * 2 ^ lo + (y % 2 ^ (hi - lo + 1)) * 2 ^ lo
/-- Sets a field of a window register. -/
def winField (s : State) (ofs hi lo y : Nat) : State := winSet s ofs (setBits (winNat s ofs) hi lo y)
/-- y + n, held at the largest value of w bits. -/
def satAdd (w y n : Nat) : Nat := min (2 ^ w - 1) (y + n)
/-- Raises a saturating count field of a window register. -/
def winCount (s : State) (ofs hi lo : Nat) : State :=
  winField s ofs hi lo (satAdd (hi - lo + 1) (bits (winNat s ofs) hi lo) 1)

/-- A capability record's header dword (01 R16). -/
def capHdr (nxt len ver id : Nat) : Nat := nxt * 2 ^ 48 + len * 2 ^ 32 + ver * 2 ^ 16 + id
/-- The capability list's dwords (01 R18). -/
def capList : List Nat :=
  [capHdr 0x10 16 1 1, 0x4A5376400000 * 2 ^ 16 + 0x0B00, capHdr 0x28 24 1 2,
   2 * 2 ^ 56 + 16 * 2 ^ 40 + 4 * 2 ^ 32 + 128 * 2 ^ 16 + 64 * 2 ^ 8 + 4, 0x80000 * 2 ^ 32 + 0x300 * 2 ^ 16 + 32 * 2 ^ 8 + 64,
   capHdr 0x48 32 1 3, 0x3000000000, 0x6000000, 0x4000000 * 2 ^ 32 + 0x300000, capHdr 0x60 24 1 4,
   0xDBBA0 * 2 ^ 32 + 0x124F80, 0x186A00, capHdr 0x70 16 1 5, 16 * 2 ^ 16 + 16 * 2 ^ 8 + 4, capHdr 0 16 1 6, 5 * 2 ^ 16 + 16]
/-- Dword i of the capability list region; 0 past the last record (01 R15). -/
def capDword (i : Nat) : Nat := capList.getD i 0

/-- What a read of a window register returns: the capability list at 0x1000 (01 R14), every other register as held. Write-only
bits are never held, so they read 0 (00 R6). -/
def windowRead (s : State) (ofs : Nat) : Nat :=
  if 0x1000 ≤ ofs && ofs < 0x11000 then capDword ((ofs - 0x1000) / 8) else winNat s ofs

/-- One byte at a physical address; the window's bytes are those of its registers. -/
def physByte (s : State) (pa : Nat) : Byte :=
  if isWindow pa then
    let o := pa - winBase
    BitVec.ofNat 8 (windowRead s (o / 8 * 8) / 2 ^ (8 * (o % 8)))
  else peek s.mem pa
/-- n bytes from a physical address up. -/
def physRead (s : State) (pa : Nat) : Nat → List Byte
  | 0 => []
  | n + 1 => physByte s pa :: physRead s (pa + 1) n
/-- The dword at an aligned physical address. -/
def physDword (s : State) (pa : Nat) : Nat := leNat (physRead s pa 8)

/-- A 64-byte unit is poisoned by an uncorrectable error (02 R23). -/
def isUe (s : State) (pa : Nat) : Bool := tget false s.memUe (pa / 64)
/-- Some byte of [pa, pa + n) lies in a poisoned unit. -/
def anyUe (s : State) (pa n : Nat) : Bool :=
  n ≠ 0 && (List.range (((pa + n - 1) / 64) - pa / 64 + 1)).any fun j => tget false s.memUe (pa / 64 + j)
/-- Marks or clears a unit's poison. -/
def setUe (s : State) (pa : Nat) (b : Bool) : State := { s with memUe := tupd false s.memUe (pa / 64) b }

/-- Poison cleared in every 64-byte unit that [pa, pa + n) covers whole (02 R23). -/
def clearUe (t : Sp Bool) (pa n : Nat) : Sp Bool :=
  t.filter fun e => !(pa ≤ 64 * e.1 && 64 * e.1 + 64 ≤ pa + n)


/-- Queues whose tail-pointer line is on its way to the queue watcher for the first time. -/
def tailReads (s : State) : List Nat := s.dev.engs.filterMap fun e => match e.2.cont with
  | .tailLineReread q => if (tfind s.dev.tail q).isNone then some q else none
  | _ => none
/-- Queues whose watched tail-pointer line [pa, pa + n) touches: their copies are gone (16 R378). -/
def tailsTouched (s : State) (pa n : Nat) : List Nat :=
  ((tkeys s.dev.tail ++ tailReads s).filter fun q =>
    let line := bits (winNat s (0x100008 + 0x40 * q)) 51 6 * 64
    line < pa + n && pa < line + 64).filter fun q => !s.dev.reread.contains q
/-- The queue watcher's copies of the lines that a write touches are removed, and it will read them again. -/
def touchTails (s : State) (pa n : Nat) : State :=
  let qs := tailsTouched s pa n
  { s with dev := { s.dev with reread := s.dev.reread ++ qs }, wires := s.wires ++ qs.map .tailLineReread }

/-- The one write of physical memory: bytes from pa up, with R23's rule for poisoned units. -/
def physWrite (s : State) (pa : Nat) (b : List Byte) : State :=
  let s := touchTails s pa b.length
  { s with mem := pokes s.mem pa b, memUe := clearUe s.memUe pa b.length }

/-! ### The context table (17 R414) -/

/-- Window offset of dword i of a context's entry. -/
def ctxOfs (asid i : Nat) : Nat := 0x1000000 + 64 * asid + 8 * i
/-- Dword i of a context's entry. -/
def ctxDw (s : State) (asid i : Nat) : Nat := winNat s (ctxOfs asid i)
/-- The context exists. -/
def ctxEn (s : State) (asid : Nat) : Bool := bitOf (ctxDw s asid 3) 63
/-- The context has system privilege. -/
def ctxPriv (s : State) (asid : Nat) : Bool := bitOf (ctxDw s asid 3) 62

/-! ### The launch record (16 R380) -/

/-- Bits [hi:lo] of a launch record. -/
def recF (r : BitVec 1024) (hi lo : Nat) : Nat := bits r.toNat hi lo
def recSfirst (r : BitVec 1024) (k : Nat) : Nat := recF r (511 + 16 * k) (496 + 16 * k)
def recSqen (r : BitVec 1024) (k : Nat) : Bool := bitOf r.toNat (504 + k)
def recSq (r : BitVec 1024) (k : Nat) : Nat := recF r (455 + 8 * k) (448 + 8 * k)
def recWc (r : BitVec 1024) : List Nat :=
  (List.range 4).filterMap fun i => if bitOf r.toNat (444 + i) then some (recF r (441 - 8 * i) (434 - 8 * i)) else none
def recSc (r : BitVec 1024) : List Nat :=
  (List.range 2).filterMap fun i => if bitOf r.toNat (442 + i) then some (recF r (409 - 8 * i) (402 - 8 * i)) else none
def recScratch (r : BitVec 1024) : Nat := recF r 383 362
def recXscratch (r : BitVec 1024) : Nat := recF r 361 335
def recWmax (r : BitVec 1024) : Nat := recF r 319 313
def recProducer (r : BitVec 1024) : Nat := recF r 312 308
def recCplace (r : BitVec 1024) : Nat := recF r 307 305
def recNcbar (r : BitVec 1024) : Nat := recF r 304 301
def recNgbar (r : BitVec 1024) : Nat := recF r 300 297
def recRegsF (r : BitVec 1024) : Nat := recF r 296 292
/-- REGS of the launch, 16 to 256. -/
def recRegs (r : BitVec 1024) : Nat := 8 * (recRegsF r + 1)
def recLp (r : BitVec 1024) : Nat := recF r 291 280
def recTiles (r : BitVec 1024) : Nat := recF r 279 273
def recAcc (r : BitVec 1024) : Nat := recF r 272 263
def recCtag (r : BitVec 1024) : Nat := recF r 255 224
def recNblk (r : BitVec 1024) : Nat := recF r 223 208
def recGpb (r : BitVec 1024) : Nat := recF r 207 202
def recWreq (r : BitVec 1024) : Nat := recF r 201 195
def recDeadline (r : BitVec 1024) : Nat := recF r 191 160
def recCtx (r : BitVec 1024) : Nat := recF r 159 144
def recCrq (r : BitVec 1024) : Nat := recF r 143 138
def recPrio (r : BitVec 1024) : Nat := recF r 137 135
def recLclass (r : BitVec 1024) : Nat := recF r 134 132
def recRace (r : BitVec 1024) : Nat := recF r 131 130
def recChecked (r : BitVec 1024) : Bool := bitOf r.toNat 129
def recArg (r : BitVec 1024) : Nat := recF r 119 64
def recEntry (r : BitVec 1024) : Nat := recF r 55 0
/-- LP rounded up to the granule (05 R89, R97). -/
def recLpR (r : BitVec 1024) : Nat := roundUp (recLp r) 16

/-! ### Accessors -/

def State.group (s : State) (g : Nat) : Group := tget Group.reset s.groups g
def State.setGroup (s : State) (g : Nat) (v : Group) : State := { s with groups := tput s.groups g v }
def State.modGroup (s : State) (g : Nat) (f : Group → Group) : State := s.setGroup g (f (s.group g))
def State.block (s : State) (b : Nat) : Block := tget Block.reset s.blocks b
def State.setBlock (s : State) (b : Nat) (v : Block) : State := { s with blocks := tput s.blocks b v }
def State.modBlock (s : State) (b : Nat) (f : Block → Block) : State := s.setBlock b (f (s.block b))
def State.launch (s : State) (l : Nat) : Launch := tget Launch.reset s.launches l
def State.setLaunch (s : State) (l : Nat) (v : Launch) : State := { s with launches := tput s.launches l v }
def State.modLaunch (s : State) (l : Nat) (f : Launch → Launch) : State := s.setLaunch l (f (s.launch l))
def State.core (s : State) (c : Nat) : Core := tget Core.reset s.cores c
def State.setCore (s : State) (c : Nat) (v : Core) : State := { s with cores := tput s.cores c v }
def State.modCore (s : State) (c : Nat) (f : Core → Core) : State := s.setCore c (f (s.core c))
def State.cluster (s : State) (c : Nat) : Cluster := tget Cluster.reset s.clusters c
def State.setCluster (s : State) (c : Nat) (v : Cluster) : State := { s with clusters := tput s.clusters c v }
def State.modCluster (s : State) (c : Nat) (f : Cluster → Cluster) : State := s.setCluster c (f (s.cluster c))
/-- Appends a step due inside the part. -/
def State.wire (s : State) (i : Msg) : State := { s with wires := s.wires ++ [i] }
/-- Appends a step that is not already due. -/
def State.wireOnce (s : State) (i : Msg) : State := if s.wires.contains i then s else s.wire i
/-- TIME as a number. -/
def State.now (s : State) : Nat := s.time.toNat
/-- The cluster of a core (01 R12). -/
def clusterOf (core : Nat) : Nat := core / 4
/-- A fresh key (MODEL). -/
def State.fresh (s : State) : Nat × State := (s.nextId, { s with nextId := s.nextId + 1 })

/-- The launch record of a group. -/
def State.recOf (s : State) (gr : Group) : BitVec 1024 := (s.launch gr.launch).record
/-- The context's own ASID of a group (17 R423). -/
def State.ctxOf (s : State) (gr : Group) : Nat := recCtx (s.recOf gr)
/-- REGS of a group's launch. -/
def State.regsOf (s : State) (gr : Group) : Nat := recRegs (s.recOf gr)
/-- The live lanes of a group: below W and not exited. -/
def Group.live (gr : Group) : Lanes := lanesBelow gr.w &&& ~~~ gr.exited
/-- Groups of a block, by key. -/
def State.groupsOf (s : State) (b : Nat) : List Nat :=
  (s.groups.filter fun e => e.2.block == b && !e.2.ended).map (·.1)
/-- Groups resident on a core: placed, not saved, not ended. -/
def State.resident (s : State) (core : Nat) : List Nat :=
  (s.groups.filter fun e => e.2.core == core && !e.2.ended && !e.2.saved).map (·.1)

/-! ### Registers of a group (06 R113, R114, R116) -/

/-- The register a v operand names; REG_RANGE stops the instruction before an operand that names none is used. -/
def vNum (regs n : Nat) : Nat := (vReg regs n).getD n
def Group.getV (gr : Group) (r l : Nat) : Word := tget 0 gr.v (64 * r + l)
def Group.setV (gr : Group) (r l : Nat) (x : Word) : Group := { gr with v := tupd 0 gr.v (64 * r + l) x }
/-- s[n]; s63 reads zero. -/
def Group.getS (gr : Group) (n : Nat) : DWord := if n == 63 then 0 else tget 0 gr.s n
/-- Writes s[n]; s63 ignores writes. -/
def Group.setS (gr : Group) (n : Nat) (x : DWord) : Group := if n == 63 then gr else { gr with s := tupd 0 gr.s n x }
/-- p[n] in every lane; p15 reads 1. -/
def Group.getPM (gr : Group) (n : Nat) : Lanes := if n == 15 then BitVec.allOnes 64 else tget 0 gr.p n
def Group.getP (gr : Group) (n l : Nat) : Bool := hasLane (gr.getPM n) l
/-- A lane set with lane l set to b. -/
def setLane (m : Lanes) (l : Nat) (b : Bool) : Lanes := if b then m ||| oneLane l else m &&& ~~~ oneLane l
/-- Writes p[n] of a lane; p15 ignores writes. -/
def Group.setP (gr : Group) (n l : Nat) (b : Bool) : Group :=
  if n == 15 then gr else { gr with p := tupd 0 gr.p n (setLane (tget 0 gr.p n) l b) }
def Group.poisV (gr : Group) (r l : Nat) : Bool := hasLane (tget 0 gr.vPois r) l
def Group.setPoisV (gr : Group) (r l : Nat) (b : Bool) : Group :=
  { gr with vPois := tupd 0 gr.vPois r (setLane (tget 0 gr.vPois r) l b) }
def Group.poisS (gr : Group) (n : Nat) : Bool := n ≠ 63 && hasLane gr.sPois n
def Group.setPoisS (gr : Group) (n : Nat) (b : Bool) : Group :=
  if n == 63 then gr else { gr with sPois := setLane gr.sPois n b }
def Group.poisP (gr : Group) (n l : Nat) : Bool := n ≠ 15 && hasLane (tget 0 gr.pPois n) l
def Group.setPoisP (gr : Group) (n l : Nat) (b : Bool) : Group :=
  if n == 15 then gr else { gr with pPois := tupd 0 gr.pPois n (setLane (tget 0 gr.pPois n) l b) }

/-- Writes one v register of a lane with its poison; an uncorrectable error ends with the write (22 R478). -/
def Group.wrV (gr : Group) (r l : Nat) (x : Word) (pois : Bool) : Group :=
  { (gr.setV r l x).setPoisV r l pois with vUe := tupd 0 gr.vUe r (setLane (tget 0 gr.vUe r) l false) }
/-- Writes one s register with its poison. -/
def Group.wrS (gr : Group) (n : Nat) (x : DWord) (pois : Bool) : Group :=
  { (gr.setS n x).setPoisS n pois with sUe := setLane gr.sUe n false }
/-- Writes one p register of a lane with its poison. -/
def Group.wrP (gr : Group) (n l : Nat) (x pois : Bool) : Group :=
  { (gr.setP n l x).setPoisP n l pois with pUe := tupd 0 gr.pUe n (setLane (tget 0 gr.pUe n) l false) }

end Sys2Proof.Machine
end

