-- ==== Sys2Proof/Machine/Translate.lean ====
section
/-!
DEFINITION. Translation (02 R24 to R37): the five-level walk as a function that returns the leaf or a fault, the update of A and D,
and the translation buffers of clusters, copy engines and load pipes. Access kinds are 0 read, 1 write, 2 fetch. A fault is a
pair (cause position, subcode) of 17 R397.
-/

namespace Sys2Proof.Machine

open Sys2Proof

/-- The outcome of a translation. -/
inductive XRes where
  | ok (t : Tlb)
  | fault (cause sub : Nat)
  deriving DecidableEq, Repr

/-- A leaf found by a walk: the translation it gives, the entry's address and the entry. -/
structure LeafAt where
  t : Tlb
  pa : Nat
  pte : Nat
  deriving DecidableEq, Repr

/-- The outcome of a walk; `atLevel` is the level of the faulting entry, whose span the fault covers (R34). -/
inductive WRes where
  | leaf (l : LeafAt)
  | fault (cause sub atLevel : Nat)
  deriving DecidableEq, Repr

/-- An address with bits [63:56] set is not canonical (R24). -/
def noncanon (a : Nat) : Bool := 2 ^ 56 ≤ a

/-- log2 of the bytes one entry of a level covers (R25). -/
def levelLog (level : Nat) : Nat := 48 - 9 * level

/-- The index of VA at a level: 8 bits at level 0, 9 below (R25). -/
def levelIdx (va level : Nat) : Nat := (va / 2 ^ levelLog level) % (if level == 0 then 256 else 512)

/-- The level-4 entry is one of 16 aligned neighbours that form a 64 KiB page (R27): all carry C, rising PPNs and equal bits
[10:8] and [5:2]. That each must also be a valid leaf is the model's choice, since R27 does not say it (log 71). -/
def contig (s : State) (ea pte : Nat) : Bool :=
  let base := ea / 128 * 128
  let e0 := physDword s base
  bitOf pte 11 && (List.range 16).all fun j =>
    let e := physDword s (base + 8 * j)
    bitOf e 0 && bitOf e 1 && bitOf e 11 && bits e 51 12 == bits e0 51 12 + j && bits e 10 8 == bits e0 10 8 && bits e 5 2 == bits e0 5 2

/-- The leaf's own rules of R27: its subcode BAD_PTE. -/
def leafBad (pte level : Nat) : Bool :=
  level < 2 || bits pte 55 52 ≠ 0 || bits pte 9 8 == 3 || (bitOf pte 3 && !bitOf pte 2) ||
  (level == 2 && bits pte 29 12 ≠ 0) || (level == 3 && bits pte 20 12 ≠ 0)

/-- The walk also reads the neighbours of a level-4 leaf that carries C, in two 64-byte units, and one of them is poisoned. -/
def contigUe (s : State) (level ea pte : Nat) : Bool :=
  level == 4 && bitOf pte 11 && (isUe s (ea / 128 * 128) || isUe s (ea / 128 * 128 + 64))

/-- The translation a leaf gives: a 64 KiB page begins where the first of its 16 neighbours does. -/
def leafTlb (s : State) (asid va level ea pte : Nat) : Tlb :=
  let big := level == 4 && contig s ea pte
  let log := if big then 16 else levelLog level
  let ppn := bits pte 51 12 * 4096
  { asid := asid, g := bitOf pte 5, va := va / 2 ^ log * 2 ^ log, log := log
    pa := if big then ppn - ea % 128 / 8 * 4096 else ppn, r := bitOf pte 2,
    w := bitOf pte 3, x := bitOf pte 4, fzok := bitOf pte 10, mt := bits pte 9 8, d := bitOf pte 7 }

/-- Walks from a table at a level; fuel is the number of levels left. -/
def walkFrom (s : State) (asid va : Nat) : Nat → Nat → Nat → WRes
  | _, level, 0 => .fault 8 2 level
  | table, level, fuel + 1 =>
    if isReserved table || isWindow table then .fault 8 3 level
    else
      let ea := table + 8 * levelIdx va level
      if isUe s ea then .fault 12 0 level
      else
        let pte := physDword s ea
        if !bitOf pte 0 then .fault 8 0 level
        else if bits pte 55 52 ≠ 0 then .fault 8 2 level
        else if bitOf pte 1 then
          if leafBad pte level then .fault 8 2 level
          else if contigUe s level ea pte then .fault 12 0 level
          else .leaf { t := leafTlb s asid va level ea pte, pa := ea, pte := pte }
        else if level == 4 then .fault 8 2 level
        else walkFrom s asid va (bits pte 51 12 * 4096) (level + 1) fuel

/-- The whole walk from a context's root (R25). -/
def walk (s : State) (asid va : Nat) : WRes :=
  walkFrom s asid va (bits (ctxDw s asid 0) 51 11 * 2048) 0 5

/-- The permission of a kind of access; range maintenance needs none (07 R171). -/
def Tlb.permits (t : Tlb) (kind : Nat) : Bool := if kind == 0 then t.r else if kind == 1 then t.w else if kind == 2 then t.x else true

/-- What a leaf's permissions, memory type and region answer (R21, R27). A leaf that both lacks the permission and maps a bad address
answers with the plain subcode; the spec gives no order (log 71). -/
def checkLeaf (t : Tlb) (kind : Nat) (va : Nat) : XRes :=
  let pa := t.pa + va % 2 ^ t.log
  if !t.permits kind then .fault 9 0
  else if isReserved pa then .fault 9 1
  else if isWindow pa && t.mt ≠ 2 then .fault 9 2
  else .ok t

/-- A buffered translation matches an access (R30). -/
def Tlb.covers (t : Tlb) (asid va : Nat) : Bool := va / 2 ^ t.log * 2 ^ t.log == t.va && (t.asid == asid || t.g)

/-- A buffer with a translation put in front; a full one gives up the entry installed longest ago, since a hit moves nothing (DESIGN CHOICE, log
7). -/
def tlbPut (cap : Nat) (b : List Tlb) (t : Tlb) : List Tlb :=
  (t :: b.filter fun u => !(u.va == t.va && u.log == t.log && u.asid == t.asid)).take cap

/-- A buffered translation that serves the access: a write through one whose D is clear walks again (R28). -/
def tlbHit (b : List Tlb) (asid va kind : Nat) : Option Tlb :=
  b.find? fun t => t.covers asid va && (kind ≠ 1 || t.d || !t.w)

/-- The physical address of a virtual one under a translation. -/
def Tlb.phys (t : Tlb) (va : Nat) : Nat := t.pa + va % 2 ^ t.log

/-- A translation found without changing anything: buffered, or by a walk (R399 completes translation without an access). -/
def xlatePeek (s : State) (c asid va kind : Nat) : XRes :=
  if noncanon va then .fault 8 1
  else
    match tlbHit (s.cluster c).tlb asid va kind with
    | some t => checkLeaf t kind va
    | none =>
      match walk s asid va with
      | .fault cause sub _ => .fault cause sub
      | .leaf l => checkLeaf l.t kind va

/-- The sectors of [a, a + n) as (address, length) parts, each within one 16-byte sector (04 R78). -/
def sectorParts (a : Nat) : Nat → Nat → List (Nat × Nat)
  | _, 0 => []
  | 0, _ => []
  | n + 1, fuel + 1 =>
    let k := min (n + 1) (16 - a % 16)
    (a, k) :: sectorParts (a + k) (n + 1 - k) fuel

/-- The parts of an access of at most 16 bytes. -/
def parts16 (a n : Nat) : List (Nat × Nat) := sectorParts a n 2

/-- The 512-byte frame of an address. -/
def frameOf (pa : Nat) : Nat := pa / 512
/-- The sector of an address in its frame. -/
def sectorOf (pa : Nat) : Nat := (pa % 512) / 16
/-- The sectors of one frame that [a, a + n) touches. -/
def sectorMask (frame a n : Nat) : BitVec 32 :=
  BitVec.ofNat 32 ((List.range 32).foldl (fun m i =>
    let b := 512 * frame + 16 * i
    if b < a + n && a < b + 16 then m + 2 ^ i else m) 0)
/-- Sector i is in the mask. -/
def hasSec (m : BitVec 32) (i : Nat) : Bool := m.toNat.testBit i

end Sys2Proof.Machine
end

