-- ==== Sys2Proof/Machine/Cache.lean ====
section
/-!
DEFINITION. The cluster cache (04 R66 to R82): frame slots and their blocks, the spatial predictor, installation, eviction and removal of sectors. Values are held once, in memory (log 11): a
slot holds the states of its sectors. State codes of a sector are 0 I, 1 S, 2 D, 3 F (R69).
-/

namespace Sys2Proof.Machine

open Sys2Proof

/-- The state of sector i. -/
def CSlot.st (k : CSlot) (i : Nat) : Nat := bits k.sst.toNat (2 * i + 1) (2 * i)
/-- The slot with sector i in state x. -/
def CSlot.setSt (k : CSlot) (i x : Nat) : CSlot := { k with sst := BitVec.ofNat 64 (setBits k.sst.toNat (2 * i + 1) (2 * i) x) }
/-- The slot with every sector of a mask in state x. -/
def CSlot.setMask (k : CSlot) (m : BitVec 32) (x : Nat) : CSlot :=
  (List.range 32).foldl (fun k i => if hasSec m i then k.setSt i x else k) k
/-- The sectors whose state satisfies p. -/
def CSlot.mask (k : CSlot) (p : Nat → Bool) : BitVec 32 :=
  BitVec.ofNat 32 ((List.range 32).foldl (fun m i => if p (k.st i) then m + 2 ^ i else m) 0)
/-- The sectors present. -/
def CSlot.present (k : CSlot) : BitVec 32 := k.mask (· ≠ 0)
/-- The sectors owned and written. -/
def CSlot.dirty (k : CSlot) : BitVec 32 := k.mask (· == 2)
/-- A slot with no block is free (R70). -/
def CSlot.isFree (k : CSlot) : Bool := k.sst == 0

/-- The maximal runs of a sector mask, as (first, last) (R70). -/
def blocksFrom (m : BitVec 32) : Nat → Nat → Option Nat → List (Nat × Nat)
  | 0, _, none => []
  | 0, i, some a => [(a, i - 1)]
  | n + 1, i, none => if hasSec m i then blocksFrom m n (i + 1) (some i) else blocksFrom m n (i + 1) none
  | n + 1, i, some a => if hasSec m i then blocksFrom m n (i + 1) (some a) else (a, i - 1) :: blocksFrom m n (i + 1) none
/-- The blocks of a sector mask. -/
def blocksOf (m : BitVec 32) : List (Nat × Nat) := blocksFrom m 32 0 none
/-- The mask of sectors a to b. -/
def spanMask (a b : Nat) : BitVec 32 := BitVec.ofNat 32 ((2 ^ (b + 1) - 1) - (2 ^ a - 1))

/-- R67. -/
def bankOf (va : Nat) : Nat := (bits va 10 9) ^^^ (bits va 12 11)
def setOf (va : Nat) : Nat := (bits va 17 11) ^^^ (bits va 24 18)
/-- The key of way w in the set of an address. -/
def slotKey (va w : Nat) : Nat := 2048 * bankOf va + 16 * setOf va + w

/-- The slot that holds a virtual frame for an ASID (R30, R66); one whose virtual tag was invalidated serves nobody (02 R40). -/
def findSlot (c : Cluster) (asid vframe : Nat) : Option (Nat × CSlot) :=
  c.slots.find? fun e => !e.2.isFree && e.2.vt && e.2.vframe == vframe && (e.2.asid == asid || e.2.g)
/-- The slots that hold sectors of a physical frame. -/
def slotsOfPhys (c : Cluster) (frame : Nat) : List (Nat × CSlot) :=
  c.slots.filter fun e => !e.2.isFree && e.2.pback == frame

/-- Trains the predictor at eviction (R74). Where FILLSEC lies outside the touched sectors a difference below 0 is taken as 0, which the
spec leaves open (log 73). -/
def trainPred (c : Cluster) (k : CSlot) : Cluster :=
  let touched := (List.range 32).filter fun i => hasSec k.touch i
  match touched with
  | [] => c
  | lo :: _ =>
    let hi := touched.getLastD lo
    let b := k.fillsec - lo
    let f := hi - k.fillsec
    let p := tget Pred.reset c.pred k.fillix
    let p' : Pred :=
      if p.back == b && p.fwd == f then { p with conf := min 3 (p.conf + 1) }
      else if p.conf == 0 then { p with back := b, fwd := f }
      else { p with conf := p.conf - 1 }
    { c with pred := tupd Pred.reset c.pred k.fillix p' }

/-- The predictor entry an access uses (R74). -/
def predIx (pc : Nat) : Nat := (bits pc 11 2) ^^^ (bits pc 21 12) ^^^ (bits pc 31 22)

/-- The wanted span of an access that touches `touched` (R72, R73, R74). -/
def wantedSpan (c : Cluster) (pc span : Nat) (touched : BitVec 32) : BitVec 32 :=
  match (List.range 32).filter (hasSec touched) with
  | [] => touched
  | a :: r =>
    let z := (a :: r).getLastD a
    let unit (n : Nat) : BitVec 32 := spanMask (a / n * n) (a / n * n + n - 1)
    let byPred : BitVec 32 :=
      let p := tget Pred.reset c.pred (predIx pc)
      if p.conf == 0 then unit 4 else spanMask (a - p.back) (min 31 (a + p.fwd))
    touched ||| (match span with
      | 1 => touched
      | 2 => unit 2
      | 3 => unit 4
      | 4 => unit 8
      | 5 => unit 16
      | 6 => spanMask 0 31
      | 7 => spanMask a 31
      | 8 => spanMask 0 z
      | _ => byPred)

/-- The fill set with gaps bridged until at most four blocks would result (R75 step 3). -/
def bridge (present : BitVec 32) : BitVec 32 → Nat → BitVec 32
  | fill, 0 => fill
  | fill, n + 1 =>
    let bs := blocksOf (present ||| fill)
    if bs.length ≤ 4 then fill
    else
      let gaps := (bs.zip (bs.drop 1)).map fun p => (p.1.2 + 1, p.2.1 - 1)
      match minBy (fun (x y : Nat × Nat) => x.2 - x.1 < y.2 - y.1) gaps with
      | none => fill
      | some g => bridge present (fill ||| spanMask g.1 g.2) n

/-- Sends the write-back of D sectors (R71, R76). -/
def sendWb (s : State) (c frame : Nat) (m : BitVec 32) : State := if m == 0 then s else s.wire (.wb c frame m false)

/-- Poison of a D sector with an uncorrectable error reaches its unit with the write-back (R79). -/
def wbUe (s : State) (frame : Nat) (m : BitVec 32) : State :=
  (List.range 32).foldl (fun s i => if hasSec m i then setUe s (512 * frame + 16 * i) true else s) s

/-- Whole blocks evicted, smallest first, until four remain (R76). -/
def trimBlocks (k : CSlot) : Nat → BitVec 32
  | 0 => 0
  | n + 1 =>
    let bs := blocksOf k.present
    if bs.length ≤ 4 then 0
    else match minBy (fun (x y : Nat × Nat) => x.2 - x.1 < y.2 - y.1) bs with
      | none => 0
      | some b => spanMask b.1 b.2 ||| trimBlocks (k.setMask (spanMask b.1 b.2) 0) n

/-- Sectors that satisfy a test leave the instruction caches of a cluster's cores (06 R158). -/
def dropCodeIf (s : State) (c : Nat) (hit : ISec → Bool) : State :=
  (List.range 4).foldl (fun s j =>
    if (s.core (4 * c + j)).icache.any hit then s.modCore (4 * c + j) fun k => { k with icache := k.icache.filter fun x => !hit x }
    else s) s
/-- Sectors of a frame leave them. -/
def dropCode (s : State) (c frame : Nat) (m : BitVec 32) : State := dropCodeIf s c fun x => x.sec / 32 == frame && hasSec m (x.sec % 32)

/-- Removes sectors from one slot of a cluster's cache; D sectors among them, and in blocks that R76 evicts, are written back. A sector
that comes again later starts untouched (R69). -/
def dropFrom (s : State) (c key : Nat) (m : BitVec 32) : State :=
  match tfind (s.cluster c).slots key with
  | none => s
  | some k =>
    let k1 := k.setMask m 0
    let all := m ||| trimBlocks k1 32
    let k2 := k.setMask all 0
    let lost := k.dirty &&& all
    let s := s.modCluster c fun cl =>
      { cl with slots := if k2.isFree then tdel cl.slots key
                         else tput cl.slots key { k2 with ue := k2.ue &&& ~~~ all, touch := k2.touch &&& ~~~ all } }
    sendWb (wbUe s k.pback (lost &&& k.ue)) c k.pback lost

/-- Evicts a whole slot: one write-back, and training (R77). -/
def evictSlot (s : State) (c key : Nat) : State :=
  match tfind (s.cluster c).slots key with
  | none => s
  | some k =>
    let s := dropFrom s c key (BitVec.allOnes 32)
    s.modCluster c fun cl => trainPred cl k

/-- The way a new frame takes: a free one, else the eviction choice of R77 among the uncarved ways, of which those that an access asked to keep
come last (06 R142). -/
def chooseWay (s : State) (c va : Nat) : Nat × Option Nat :=
  let cl := s.cluster c
  let ways := 16 - (s.core (4 * c + bankOf va)).carve
  match (List.range ways).find? fun w => (tfind cl.slots (slotKey va w)).isNone with
  | some w => (slotKey va w, none)
  | none =>
    let cand := (List.range ways).map fun w => (slotKey va w, tget CSlot.reset cl.slots (slotKey va w))
    let cand := if cand.all fun e => e.2.keep then cand else cand.filter fun e => !e.2.keep
    let clean := cand.filter fun e => e.2.dirty == 0
    match minBy (fun (x y : Nat × CSlot) => x.2.lru < y.2.lru) (if clean.isEmpty then cand else clean) with
    | some e => (e.1, some e.1)
    | none => (slotKey va 0, none)

/-- A use stamp later than every one of the cluster. -/
def nextLru (c : Cluster) : Nat := c.slots.foldl (fun m e => max m (e.2.lru + 1)) 0

/-- The slot that holds a virtual frame of a physical one; a slot of that tag that holds another physical frame, since a page was mapped anew,
is to be evicted first (R31). -/
def slotFor (s : State) (c asid vframe pframe : Nat) : State × Option (Nat × CSlot) :=
  match findSlot (s.cluster c) asid vframe with
  | some (key, k) => if k.pback == pframe then (s, some (key, k)) else (evictSlot s c key, none)
  | none => (s, none)

/-- Installs sectors of a frame in state x under a virtual tag (R75 steps 4 and 5). Copies under other tags leave first, and their D
sectors are written back with their poison, which the new copy keeps (R32, R79). -/
def install (s : State) (c : Nat) (t : Tlb) (va pframe : Nat) (m ue : BitVec 32) (x pc : Nat) : State :=
  if m == 0 then s
  else
    let vframe := va / 512
    let mine (k : CSlot) : Bool := k.vt && k.vframe == vframe && (k.asid == t.asid || k.g)
    let olds := (slotsOfPhys (s.cluster c) pframe).filter fun e => !mine e.2
    let ue := ue ||| olds.foldl (fun u e => u ||| (e.2.dirty &&& e.2.ue &&& m)) 0
    let s := olds.foldl (fun s e => if e.2.present &&& m == 0 then s else dropFrom s c e.1 m) s
    let (s, slot) := slotFor s c t.asid vframe pframe
    let stamp := nextLru (s.cluster c)
    match slot with
    | some (key, k) =>
      let k := { k.setMask m x with ue := (k.ue &&& ~~~ m) ||| ue, wok := t.w, dset := t.d, lru := stamp }
      s.modCluster c fun cl => { cl with slots := tput cl.slots key k }
    | none =>
      let (key, ev) := chooseWay s c va
      let s := match ev with
        | some e => evictSlot s c e
        | none => s
      let k : CSlot := { CSlot.reset with
        vframe := vframe, asid := t.asid, pback := pframe, g := t.g, wok := t.w, dset := t.d, fillix := predIx pc,
        fillsec := sectorOf va, ue := ue, vt := true, lru := stamp }
      s.modCluster c fun cl => { cl with slots := tput cl.slots key (k.setMask m x) }

/-- The slot of a virtual frame gives up blocks until it holds four at most (R70, R76). A fill is bridged by what the slot holds when it is asked
for; where the slot has changed meanwhile, what comes may make more than four blocks, and R76's choice among them all is the model's
(DESIGN CHOICE, log 91). -/
def trimSlot (s : State) (c asid va : Nat) : State :=
  match findSlot (s.cluster c) asid (va / 512) with
  | some (key, k) => if (blocksOf k.present).length ≤ 4 then s else dropFrom s c key 0
  | none => s

/-- What an access's CACHE hint asks of the slot it has filled (06 R142): 2 makes it its set's next victim, 3 keeps it ahead of others. -/
def hintSlot (s : State) (c asid va hint : Nat) : State :=
  match findSlot (s.cluster c) asid (va / 512) with
  | none => s
  | some (key, k) =>
    if hint == 2 then s.modCluster c fun cl => { cl with slots := tput cl.slots key { k with lru := 0 } }
    else if hint == 3 then s.modCluster c fun cl => { cl with slots := tput cl.slots key { k with keep := true } } else s

/-- Marks the sectors of a slot that are present as touched, and the slot as most recently used (R69). -/
def touchSlot (s : State) (c key : Nat) (m : BitVec 32) : State :=
  s.modCluster c fun cl =>
    match tfind cl.slots key with
    | none => cl
    | some k => { cl with slots := tput cl.slots key { k with touch := k.touch ||| (m &&& k.present), lru := nextLru cl } }

/-! ### Fills under way (R75) -/

/-- A cluster asks for sectors of a frame. -/
def addFill (s : State) (c : Nat) (f : Fill) : State := s.modCluster c fun cl => { cl with fills := cl.fills ++ [f] }
/-- The fill that some sectors of an answer belong to; an invalidation has taken away those whose translation it removed (02 R39). -/
def findFill (s : State) (c : Nat) (who : Waiter) (frame : Nat) (m : BitVec 32) : Option Fill :=
  (s.cluster c).fills.find? fun f => f.who == who && f.frame == frame && (f.mask &&& m) ≠ 0
/-- Sectors of a fill have come. -/
def endFill (s : State) (c : Nat) (f : Fill) (m : BitVec 32) : State :=
  s.modCluster c fun cl => { cl with fills := (cl.fills.map fun x =>
    if x == f then { x with mask := x.mask &&& ~~~ m } else x).filter fun x => x.mask ≠ 0 }
/-- An answer installs the sectors of its fill that came without a race tag, in state x, whatever has become of the access that asked (R75 steps 4
and 5); its slot keeps four blocks at most (R76). What was asked for with hint 1, or through a leaf that is not WB, is not installed. -/
def takeFill (s : State) (c : Nat) (who : Waiter) (frame : Nat) (m race ue : BitVec 32) (x : Nat) : State :=
  match findFill s c who frame m with
  | none => s
  | some f =>
    let s := endFill s c f m
    if f.hint == 1 then s
    else
      let got := m &&& ~~~ race
      hintSlot (trimSlot (install s c f.t f.va frame got (ue &&& got) x f.pc) c f.t.asid f.va) c f.t.asid f.va f.hint

/-! ### Requests to the L2 (03 R47) -/

/-- The bytes [pa, pa + len) within their frame. -/
def byteMask (pa len : Nat) : BitVec 512 := BitVec.ofNat 512 ((2 ^ len - 1) * 2 ^ (pa % 512))
/-- Sectors in which a byte mask has a byte. -/
def byteSectors (b : BitVec 512) : BitVec 32 :=
  BitVec.ofNat 32 ((List.range 32).foldl (fun m i => if bits b.toNat (16 * i + 15) (16 * i) ≠ 0 then m + 2 ^ i else m) 0)
/-- One sector of a frame. -/
def secMask (pa : Nat) : BitVec 32 := BitVec.ofNat 32 (2 ^ sectorOf pa)
/-- Sectors in a mask. -/
def secCount (m : BitVec 32) : Nat := ((List.range 32).filter (hasSec m)).length
/-- A request with its agent's age stamp, taken now (R44): plain, without bytes, and allocating in the L2. -/
def newReq (s : State) (kind : ReqKind) (frame : Nat) (m : BitVec 32) (agent : Nat) (who : Waiter) : Req :=
  { kind := kind, frame := frame, smask := m, bmask := 0, agent := agent, age := s.time.setWidth 24, sync := false, who := who,
    bytes := [], alloc := true }
/-- A request goes to its slice. -/
def State.send (s : State) (r : Req) : State := s.wire (.req r)
/-- A read of [pa, pa + n), which lies in one frame, by an agent that keeps no copy. -/
def readReq (s : State) (pa n agent : Nat) (who : Waiter) : Req :=
  newReq s .rdU (frameOf pa) (sectorMask (frameOf pa) pa n) agent who
/-- A write of bytes within one frame by an agent that keeps no copy. -/
def writeReq (s : State) (pa : Nat) (b : List Byte) (agent : Nat) (who : Waiter) : Req :=
  { newReq s .wrU (frameOf pa) (sectorMask (frameOf pa) pa b.length) agent who with bmask := byteMask pa b.length, bytes := b }
/-- [a, a + n) in parts that cross no multiple of m. -/
def splitAt (m : Nat) : Nat → Nat → Nat → List (Nat × Nat)
  | _, _, 0 => []
  | a, n, fuel + 1 =>
    if n == 0 then []
    else
      let k := min n (m - a % m)
      (a, k) :: splitAt m (a + k) (n - k) fuel
end Sys2Proof.Machine
end

