-- ==== Sys2Proof/Machine/Trace.lean ====
section
/-!
DEFINITION. Signals to the host and the recorders (18, 22 R467): MSI-X vectors, DBGEVT, I3C ALERT, event recorders and their
freezing, Leuth records, watchpoints, and the split-time recorder.
-/

namespace Sys2Proof.Machine

open Sys2Proof

/-- Sends an MSI-X vector (22 R467). -/
def msi (s : State) (v : Nat) : State := { s with dev := { s.dev with msix := v :: s.dev.msix } }

/-- Sets a DBGEVT bit; vector 1 is sent when the register becomes non-zero (22 R467). -/
def dbgEvt (s : State) (bit : Nat) : State :=
  let old := winNat s 0x440010
  let s' := winSet s 0x440010 (old ||| 2 ^ bit)
  if old == 0 then msi s' 1 else s'

/-- Sets an I3C ALERT bit; an in-band interrupt and vector 3 when it becomes non-zero (22 R467, R474). -/
def alertSet (s : State) (bit : Nat) : State :=
  let old := s.dev.alert
  let s' := { s with dev := { s.dev with alert := old ||| BitVec.ofNat 16 (2 ^ bit) } }
  if old == 0 then msi { s' with dev := { s'.dev with ibi := s'.dev.ibi + 1 } } 3 else s'

/-- The recorders are frozen (18 R436). -/
def recFrozen (s : State) : Bool := bitOf (winNat s 0x420400) 63

/-- Adds n to every recorder that selects an event: cluster recorders of the core's cluster whose CMASK takes the core, and
device recorders (18 R435). `core` none is a device event. -/
def evCount (s : State) (code : Nat) (core : Option Nat) (n : Nat) : State :=
  if recFrozen s then s
  else s.win.foldl (fun s e =>
    let o := 8 * e.1
    let v := e.2.toNat
    if o % 16 == 0 && v % 256 == code then
      let hit : Bool :=
        if 0x410000 ≤ o && o < 0x411000 then
          match core with
          | some c => (o - 0x410000) / 256 == clusterOf c && code < 0x20 && (bits v 11 8 == 0 || bitOf v (8 + c % 4))
          | none => code == 1 && (o - 0x410000) / 256 < 16
        else 0x420000 ≤ o && o < 0x420200 && core.isNone && (code == 1 || 0x20 ≤ code)
      if hit then winSet s (o + 8) ((winNat s (o + 8) + n) % 2 ^ 64) else s
    else s) s

/-- First byte of the trace carve-out in chip scratchpad: above the enabled spike queues (03 R57, 22 R470). -/
def spqCount (s : State) : Nat := ((List.range 16).filter fun q => bitOf (winNat s 0x520040) q).length
def carveBase (s : State) : Nat := 0x80000 * spqCount s

/-- Ring slots of the trace stream. -/
def traceSlots (s : State) : Nat := 2 ^ bits (winNat s 0x400008) 63 58 / 32
/-- First byte of the ring slot that WIX names. -/
def traceAt (s : State) : Nat :=
  bits (winNat s 0x400008) 51 5 * 32 + 32 * (winNat s 0x400010 % 2 ^ 32 % max (traceSlots s) 1)
/-- A Leuth record is dropped and counted (18 R433). -/
def traceDrop (s : State) : State :=
  let s := winCount s 0x400010 63 32
  { s with dev := { s.dev with gap := true } }
/-- A record is in its ring. -/
def traceDone (s : State) : State := winField s 0x400010 31 0 ((winNat s 0x400010 % 2 ^ 32 + 1) % 2 ^ 32)

/-- Writes one Leuth record when its class is enabled (18 R431 to R433): into the carve-out at once, or toward DRAM. Classes: 0 SAMPLE, 1 RACE,
2 SPLIT, 3 WATCH, 4 FAULT, 5 FREEZE, 6 USER. -/
def leuth (s : State) (cls kind payload core group seq pc : Nat) (dev orphan : Bool) : State :=
  let cfg := winNat s 0x400000
  if !bitOf cfg 63 || !bitOf cfg (48 + cls) then s
  else
    let wix := winNat s 0x400010 % 2 ^ 32
    let cons := winNat s 0x400018 % 2 ^ 32
    if !bitOf cfg 61 && (wix + s.dev.traceQ.length + 2 ^ 32 - cons) % 2 ^ 32 == traceSlots s then traceDrop s
    else
      let x := s.now + 2 ^ 64 * (seq % 2 ^ 32) + 2 ^ 96 * (group % 2 ^ 24) + 2 ^ 120 * (core % 64) + 2 ^ 126 * kind +
        2 ^ 135 * bits pc 55 2 + (if orphan then 2 ^ 189 else 0) + (if s.dev.gap then 2 ^ 190 else 0) +
        (if dev then 2 ^ 191 else 0) + 2 ^ 192 * (payload % 2 ^ 64)
      let b := leBytes x 32
      let s := { s with dev := { s.dev with gap := false } }
      if bitOf cfg 62 then ({ s with dev := { s.dev with traceQ := s.dev.traceQ ++ [b] } }).wireOnce .traceWrite
      else traceDone { s with chip := { s.chip with bytes := pokes s.chip.bytes (carveBase s + traceAt s) b } }

/-- A trigger of RFRZ (18 R436): 0 ECC, 1 page fault, 2 watchdog, 3 retry storm, 4 orphaned watch hit, 5 a write. -/
def rfrzTrigger (s : State) (bit : Nat) : State :=
  let r := winNat s 0x420400
  if bit < 5 && !bitOf r (40 + bit) then s
  else
    let r' := r ||| 2 ^ (48 + bit)
    if bitOf r 63 then winSet s 0x420400 r'
    else
      let s := winSet s 0x420400 (r' ||| 2 ^ 63)
      let s := dbgEvt s 1
      leuth s 5 7 (bits r' 55 48) 0 0 0 0 true false

/-- Counts a corrected or uncorrectable error of a class (22 R478): the class count, event 0x0D, the ECC trigger, and for an
uncorrectable one vector 2 and ALERT bit 1. -/
def countError (s : State) (cls : Nat) (core : Option Nat) (ue : Bool) : State :=
  let o := 0x530000 + 8 * cls
  let s := if ue then winCount s o 63 32 else winCount s o 31 0
  let s := if ue then alertSet (msi s 2) 1 else evCount s 0x0D core 1
  rfrzTrigger s 0

/-- The per-channel count of a DRAM error (22 R478, 02 R22). -/
def countDram (s : State) (frame : Nat) (ue : Bool) : State :=
  let o := 0x530100 + 8 * (frame % 24)
  let s := if ue then winCount s o 63 32 else winCount s o 31 0
  countError s 6 none ue

/-- A FAULT record of an engine or group fault (18 R432), an orphan's where the issuer has ended (R431). -/
def faultRecord (s : State) (core group seq pc cause sub : Nat) (orphan : Bool) : State :=
  leuth s 4 6 (256 * sub + cause) core group seq pc false orphan

/-- One watchpoint that an access hits (18 R437): its number, action and first hitting byte. -/
structure WatchHit where
  n : Nat
  action : Nat
  byte : Nat
  deriving DecidableEq, Repr

/-- The watchpoints of a cluster that an access [a, a + len) hits. -/
def watchHits (s : State) (c asid a len : Nat) (rd wr eng : Bool) : List WatchHit :=
  (List.range 8).filterMap fun n =>
    let o := 0x430000 + 0x100 * c + 0x20 * n
    let l := bits (winNat s (o + 8)) 39 0
    if l == 0 then none
    else
      let base := bits (winNat s o) 55 0
      let cfg := winNat s (o + 16)
      if bits cfg 31 16 == asid && base < a + len && a < base + l &&
          ((rd && bitOf cfg 0) || (wr && bitOf cfg 1)) && (!eng || bitOf cfg 3) then
        some { n := n, action := bits cfg 5 4, byte := max a base }
      else none

/-- The action takes no lane's access: trap or stop (18 R437). -/
def WatchHit.holds (h : WatchHit) : Bool := h.action == 0 || h.action == 2

/-- A WATCH record (18 R432). -/
def watchRecord (s : State) (c core group seq pc : Nat) (h : WatchHit) (orphan : Bool) : State :=
  leuth s 3 5 (h.n * 2 ^ 61 + c * 2 ^ 56 + h.byte) core group seq pc false orphan

end Sys2Proof.Machine
end

