-- ==== Sys2Proof/Machine/Walk.lean ====
section
/-!
DEFINITION. Page walks as the walkers of a cluster make them (02 R27, R28, R33 to R36): misses that coalesce on a 2 MiB region, the walkers
that take them up, the reads and compare-and-swaps of entries at the L2, and what a walk answers to its waiters.
-/

namespace Sys2Proof.Machine

open Sys2Proof

/-- What a walk found for the addresses [lo, hi) of an ASID: a leaf, or a fault (R34). -/
structure Verdict where
  asid : Nat
  lo : Nat
  hi : Nat
  res : XRes
  deriving DecidableEq, Repr

/-- Translation through a buffer or by what a walk has just found; none where a walk is needed. A write through an entry whose D is clear
needs one (R28). -/
def xlook (b : List Tlb) (asid va kind : Nat) (v : Option Verdict) : Option XRes :=
  if noncanon va then some (.fault 8 1)
  else match tlbHit b asid va kind with
  | some t => some (checkLeaf t kind va)
  | none => match v.filter fun v => v.asid == asid && v.lo ≤ va && va < v.hi with
    | some ⟨_, _, _, .fault c u⟩ => some (.fault c u)
    | some ⟨_, _, _, .ok t⟩ => if kind ≠ 1 || t.d || !t.w then some (checkLeaf t kind va) else none
    | none => none

/-! ### Waiters and walks -/

/-- Waiters on a cluster's walks. -/
def waiterCount (cl : Cluster) : Nat := cl.walks.foldl (fun n w => n + w.waiters.length) 0
/-- One miss is one waiter: the same unit's miss on the same frame (R34). -/
def WalkWait.same (a b : WalkWait) : Bool := a.who == b.who && a.va / 512 == b.va / 512 && a.kind == b.kind
/-- The core whose recorders count a waiter's walk. -/
def waiterCore (s : State) (c : Nat) (w : Waiter) : Nat :=
  match w with
  | .lsu g _ | .pfg g _ => (s.group g).core
  | .fetch core _ _ => core
  | .eng id _ => match tfind s.dev.engs id with
    | some e => e.core
    | none => 4 * c
  | _ => 4 * c
/-- A cluster's walk of a region. -/
def findWalk (s : State) (c asid region : Nat) : Option Walk :=
  (s.cluster c).walks.find? fun w => w.asid == asid && w.region == region
/-- The state with a walk changed. -/
def modWalk (s : State) (c asid region : Nat) (f : Walk → Walk) : State :=
  s.modCluster c fun cl => { cl with walks := cl.walks.map fun w => if w.asid == asid && w.region == region then f w else w }

/-- A miss joins the walk of its region, or starts waiting for one. -/
def joinWalk (s : State) (c asid : Nat) (w : WalkWait) (age : BitVec 24) : State :=
  match findWalk s c asid (w.va / 2 ^ 21) with
  | some _ => modWalk s c asid (w.va / 2 ^ 21) fun x => { x with waiters := x.waiters ++ [w] }
  | none =>
    ((evCount s 6 (some (waiterCore s c w.who)) 1).modCluster c fun cl => { cl with walks := cl.walks ++
      [{ asid := asid, region := w.va / 2 ^ 21, age := age, started := false, level := 0, table := 0, entry := none, cas := none,
         waiters := [w] }] }).wireOnce (.walkStart c)

/-- A miss waits for its translation: on the waiter list, or in the miss queue while that is full or older misses wait there (R34, R35). -/
def addWaiter (s : State) (c asid : Nat) (w : WalkWait) : State :=
  let cl := s.cluster c
  if (cl.walks.any fun x => x.asid == asid && x.waiters.any w.same) || cl.missQ.any fun x => x.asid == asid && x.w.same w then s
  else if 1024 ≤ waiterCount cl || !cl.missQ.isEmpty then
    s.modCluster c fun cl => { cl with missQ := cl.missQ ++ [{ asid := asid, w := w, age := s.time.setWidth 24 }] }
  else joinWalk s c asid w (s.time.setWidth 24)

/-- Misses leave the miss queue, oldest first, as waiter entries free (R35). -/
def drainMiss (s : State) (c : Nat) : Nat → State
  | 0 => s
  | n + 1 =>
    match (s.cluster c).missQ with
    | [] => s
    | m :: r =>
      if 1024 ≤ waiterCount (s.cluster c) then s
      else drainMiss (joinWalk (s.modCluster c fun cl => { cl with missQ := r }) c m.asid m.w m.age) c n

/-- Walks that no walker has taken up are looked at again. -/
def walkKick (s : State) : State :=
  s.clusters.foldl (fun s e => if e.2.walks.any fun w => !w.started then s.wireOnce (.walkStart e.1) else s) s

/-! ### One walk (R25, R27, R28, R33, R36) -/

/-- Where a walk of a region begins: below the deepest pointer that the cluster buffers, else at the context's root. -/
def walkFirst (s : State) (c asid region : Nat) : Nat × Nat :=
  let va := region * 2 ^ 21
  let hit (l : Nat) : Option TPtr := (s.cluster c).tptr.find? fun p => p.asid == asid && p.level == l && p.tag == va / 2 ^ levelLog l
  match [3, 2, 1, 0].filterMap hit with
  | p :: _ => (p.level + 1, p.pa)
  | [] => (0, bits (ctxDw s asid 0) 51 11 * 2048)

/-- The walk has its answer for the addresses [lo, hi): the waiters there are given back, and it goes on for the others (R34). -/
def walkAnswer (s : State) (c : Nat) (w : Walk) (lo hi : Nat) (res : XRes) : State × Option (Verdict × List WalkWait) :=
  let mine (x : WalkWait) : Bool := lo ≤ x.va && x.va < hi
  let s := modWalk s c w.asid w.region fun x => { x with waiters := x.waiters.filter fun y => !mine y, entry := none, cas := none }
  (s.wire (.walkComplete c w.asid w.region), some ({ asid := w.asid, lo := lo, hi := hi, res := res }, w.waiters.filter mine))

/-- The addresses that the entry for va at a level covers. -/
def entrySpan (level va : Nat) : Nat × Nat := (va / 2 ^ levelLog level * 2 ^ levelLog level, (va / 2 ^ levelLog level + 1) * 2 ^ levelLog level)

/-- The next entry of a walk is read at the L2, with its neighbours at level 4 (R27, R36); a table in a bad region is not. -/
def walkGo (s : State) (c asid region : Nat) : State × Option (Verdict × List WalkWait) :=
  match findWalk s c asid region with
  | none => (s, none)
  | some w =>
    match w.waiters with
    | [] => (s.wire (.walkComplete c asid region), none)
    | x :: _ =>
      if isReserved w.table || isWindow w.table then
        let sp := if w.level == 0 then (0, 2 ^ 56) else entrySpan (w.level - 1) x.va
        walkAnswer s c w sp.1 sp.2 (.fault 8 3)
      else
        let ea := w.table + 8 * levelIdx x.va w.level
        let s := modWalk s c asid region fun w => { w with entry := some ea, cas := none }
        (s.send (if w.level == 4 then readReq s (ea / 128 * 128) 128 c (.walk c asid region)
          else readReq s ea 8 c (.walk c asid region)), none)

/-- An entry that has been read is evaluated (R27): it faults, points to the next table, or is a leaf, whose A and D the walk first
sets where a waiter's access is granted (R28). `ue` holds the sectors that came poisoned. -/
def walkEval (s : State) (c : Nat) (w : Walk) (ea : Nat) (ue : BitVec 32) : State × Option (Verdict × List WalkWait) :=
  match w.waiters with
  | [] => (s.wire (.walkComplete c w.asid w.region), none)
  | x :: _ =>
    let pte := physDword s ea
    let sp := entrySpan w.level x.va
    let bad (k u : Nat) : State × Option (Verdict × List WalkWait) := walkAnswer s c w sp.1 sp.2 (.fault k u)
    if hasSec ue (sectorOf ea) then bad 12 0
    else if !bitOf pte 0 then bad 8 0
    else if bits pte 55 52 ≠ 0 then bad 8 2
    else if !bitOf pte 1 then
      if w.level == 4 then bad 8 2
      else
        let table := bits pte 51 12 * 4096
        let p : TPtr := { asid := w.asid, level := w.level, tag := x.va / 2 ^ levelLog w.level, pa := table }
        let s := s.modCluster c fun cl =>
          { cl with tptr := (p :: cl.tptr.filter fun q => !(q.asid == p.asid && q.level == p.level && q.tag == p.tag)).take 64 }
        walkGo (modWalk s c w.asid w.region fun w => { w with level := w.level + 1, table := table }) c w.asid w.region
    else if leafBad pte w.level then bad 8 2
    else if w.level == 4 && bitOf pte 11 && ue ≠ 0 then bad 12 0
    else
      let t := leafTlb s w.asid x.va w.level ea pte
      let granted := w.waiters.filter fun y => t.va ≤ y.va && y.va < t.va + 2 ^ t.log && checkLeaf t y.kind y.va == .ok t
      let new := pte ||| (if granted.isEmpty then 0 else 0x40) ||| (if granted.any fun y => y.kind == 1 then 0x80 else 0)
      if new ≠ pte then
        let s := modWalk s c w.asid w.region fun w => { w with cas := some pte }
        (s.send { newReq s .atm (frameOf ea) (secMask ea) c (.walk c w.asid w.region) with
          bmask := byteMask ea 8, sync := true, bytes := leBytes new 8 }, none)
      else
        let s := if granted.isEmpty then s else s.modCluster c fun cl => { cl with tlb := tlbPut 4096 cl.tlb t }
        walkAnswer s c w t.va (t.va + 2 ^ t.log) (.ok t)

/-- The L2 has answered a walk's read or compare-and-swap of an entry; a swap that failed reads the entry again (R28). -/
def walkReply (s : State) (c asid region : Nat) (r : Req) (ue : BitVec 32) : State × Option (Verdict × List WalkWait) :=
  match findWalk s c asid region with
  | none => (s, none)
  | some w =>
    match w.entry with
    | none => (s, none)
    | some ea =>
      if (!w.started) || frameOf ea ≠ r.frame then (s, none)
      else if w.cas.isSome then (if r.kind == ReqKind.atm then walkGo s c asid region else (s, none))
      else walkEval s c w ea ue

/-- The compare-and-swap of an entry at its slice. -/
def walkSwap (s : State) (c asid region : Nat) (r : Req) : State :=
  match findWalk s c asid region with
  | none => s
  | some w =>
    match w.entry, w.cas with
    | some ea, some old =>
      if frameOf ea == r.frame && physDword s ea == old then
        modWalk (physWrite s ea r.bytes) c asid region fun w => { w with cas := none }
      else s
    | _, _ => s

/-- The slice has retired a walk's request (03 R44): the walk faults for what the entry covers. -/
def walkFlt (s : State) (c asid region cause sub : Nat) : State × Option (Verdict × List WalkWait) :=
  match findWalk s c asid region with
  | none => (s, none)
  | some w =>
    match w.waiters with
    | [] => (s, none)
    | x :: _ => walkAnswer s c w (entrySpan w.level x.va).1 (entrySpan w.level x.va).2 (.fault cause sub)

/-- Walkers that a cluster has at work. -/
def walkersBusy (cl : Cluster) : Nat := (cl.walks.filter fun w => w.started).length
/-- The cluster's oldest walk that waits for a walker. -/
def nextWalk (cl : Cluster) : Option Walk :=
  minBy (fun (a b : Walk) => (b.age - a.age).toNat < 2 ^ 23 && a.age ≠ b.age) (cl.walks.filter fun w => !w.started)
/-- A pending walk precedes another: older first, then the lower cluster (R35). -/
def walkBefore (a b : Nat × Walk) : Bool :=
  let d := (b.2.age - a.2.age).toNat
  if d == 0 then a.1 < b.1 else d < 2 ^ 23

/-- A walk starts on a free walker (R35): one of the cluster's own eight, else one of the device's 32, which the oldest of the walks that
wait for those takes. -/
def walkBegin (s : State) (c : Nat) : State × Option (Verdict × List WalkWait) :=
  let cl := s.cluster c
  match nextWalk cl with
  | none => (s, none)
  | some w =>
    let pool := s.clusters.foldl (fun n e => n + (walkersBusy e.2 - 8)) 0
    let rivals := s.clusters.filterMap fun e => if 8 ≤ walkersBusy e.2 then (nextWalk e.2).map (Prod.mk e.1) else none
    let late : Bool := rivals.any fun x => walkBefore x (c, w)
    if 8 ≤ walkersBusy cl && (32 ≤ pool || late) then (s, none)
    else
      let (level, table) := walkFirst s c w.asid w.region
      let core := match w.waiters with
        | x :: _ => waiterCore s c x.who
        | [] => 4 * c
      let s := evCount s 7 (some core) 1
      walkGo (walkKick (modWalk s c w.asid w.region fun w => { w with started := true, level := level, table := table })) c w.asid w.region

/-- A walk has answered: the entries of its waiters are free for older misses (R35), and it goes on with the waiters that are left, or its walker is
free (R34). -/
def walkEnd (s : State) (c asid region : Nat) : State × Option (Verdict × List WalkWait) :=
  match findWalk s c asid region with
  | none => (s, none)
  | some w =>
    if (!w.started) || w.entry.isSome then (s, none)
    else
      let s := drainMiss s c (s.cluster c).missQ.length
      if (findWalk s c asid region).any fun w => !w.waiters.isEmpty then walkGo s c asid region
      else (walkKick (s.modCluster c fun cl => { cl with walks := cl.walks.filter fun x => !(x.asid == asid && x.region == region) }), none)

/-- A walk of the scope of an invalidation is discarded, and begins again (R39). -/
def walkRestart (s : State) (c : Nat) (hit : Walk → Bool) : State :=
  let again (w : Walk) : Walk := if w.started && hit w then { w with started := false, entry := none, cas := none } else w
  walkKick (s.modCluster c fun cl => { cl with walks := cl.walks.map again })

end Sys2Proof.Machine
end

