-- ==== Sys2Proof/Machine/Ops.lean ====
section
/-!
DEFINITION. The shared operations of groups: flags and pending instructions (06 R135), the frontier (15 R349, R350), fetching a
run (06 R131, R132), barriers' arithmetic (15 R360), the end of a group (R348), engine faults (17 R408), TAKING A TRAP (17 R405)
and the return from it (R420), the end of a run, and the frame in which every instruction issues.
-/

namespace Sys2Proof.Machine

open Sys2Proof

/-! ### Completion flags and pending instructions -/

/-- The list with element k replaced by its image. -/
def modAt {α : Type} (l : List α) (k : Nat) (f : α → α) : List α :=
  match l, k with
  | [], _ => []
  | x :: r, 0 => f x :: r
  | x :: r, k + 1 => x :: modAt r k f

/-- Applies f to a flag: a handler flag in handler mode (17 R405). -/
def Group.modFlag (gr : Group) (hm : Bool) (k : Nat) (f : FlagSt → FlagSt) : Group :=
  if hm then { gr with hflags := modAt gr.hflags k f } else { gr with flags := modAt gr.flags k f }
/-- The flags a run header names. -/
def Group.curFlags (gr : Group) : List FlagSt := if gr.hm then gr.hflags else gr.flags
/-- Counts one more pending instruction (06 R135). -/
def FlagSt.arm (f : FlagSt) : FlagSt := { set := false, pend := f.pend + 1 }
/-- One counted instruction completes: SET when none is left. -/
def FlagSt.done (f : FlagSt) : FlagSt := { set := f.set || f.pend ≤ 1, pend := f.pend - 1 }
/-- Completes one counted instruction on the flag it selected, if any. -/
def Group.decFlag (gr : Group) (hm : Bool) (f : Option Nat) : Group :=
  match f with
  | some k => gr.modFlag hm k FlagSt.done
  | none => gr

/-- The pending instruction of an id. -/
def Group.findPend (gr : Group) (id : Nat) : Option Pend := gr.pend.find? fun p => p.id == id
/-- The group with a pending instruction changed. -/
def Group.modPend (gr : Group) (id : Nat) (f : Pend → Pend) : Group :=
  { gr with pend := gr.pend.map fun p => if p.id == id then f p else p }
def State.modPend (s : State) (g id : Nat) (f : Pend → Pend) : State := s.modGroup g fun gr => gr.modPend id f
/-- Adds a pending instruction to its group. -/
def addPend (s : State) (g : Nat) (p : Pend) : State := s.modGroup g fun gr => { gr with pend := gr.pend ++ [p] }

/-- A pending instruction is gone; its flag counts, fences that waited for it note its PC, and those that waited for it go on. -/
def finishPend (s : State) (g id : Nat) : State :=
  let gr := s.group g
  match gr.findPend id with
  | none => s
  | some p =>
    let note (q : Pend) : Pend :=
      if (q.op == 0x360 || q.op == 0x361) && (q.after.contains id || q.afterSent.contains id) then { q with vals2 := [(0, p.pc.toNat)] } else q
    let gr' := ({ gr with pend := (gr.pend.filter fun (q : Pend) => q.id ≠ id).map note }).decFlag p.hm p.flag
    let s := s.setGroup g gr'
    gr'.pend.foldl (fun s q =>
      if q.after.contains id || q.afterSent.contains id then s.wire (.instrComplete g q.id) else s) s

/-- A pending command of a cancelled group is gone: its flag is not set (05 R108). -/
def cancelPend (s : State) (g id : Nat) : State := finishPend (s.modPend g id fun p => { p with flag := none }) g id

/-- The instruction writes a register. -/
def writesReg (op : Nat) (f : EForm) : Bool := (regUses op f).any fun u => u.wr && u.k ≠ .p

/-- A pending instruction with a register destination concerns some of these lanes. -/
def Group.regPending (gr : Group) (lanes : Lanes) : Bool :=
  gr.pend.any fun p => (p.entry &&& lanes) ≠ 0 && p.frame.isNone && writesReg p.op p.f

/-- FREEZE, JOIN, HDRAIN, ALLOC and CARVE: commands with a register destination, which a unit carries on when their group has ended (15 R348). -/
def runsOn (op : Nat) : Bool := [0x243, 0x246, 0x278, 0x27B, 0x374].contains op

/-- The space of a memory opcode: 0 global, 1 core scratchpad, 2 window, 3 chip scratchpad, 4 lane-private, none otherwise. -/
def spaceOf (op : Nat) : Option Nat :=
  match op with
  | 0x200 | 0x201 | 0x20C | 0x250 | 0x254 | 0x20A | 0x20B => some 0
  | 0x202 | 0x203 | 0x251 | 0x255 => some 1
  | 0x204 | 0x205 | 0x252 | 0x256 => some 2
  | 0x206 | 0x207 | 0x253 | 0x257 => some 3
  | 0x208 | 0x209 => some 4
  | _ => none
/-- The opcode is an ATOM or CAS. -/
def isAtomic (op : Nat) : Bool := 0x250 ≤ op && op < 0x258
/-- The opcode is LDGC or STGC, on the GSC path. -/
def isGsc (op : Nat) : Bool := op == 0x20A || op == 0x20B
/-- The opcode makes an access on the LSU or GSC path; an ATLOAD reads its image on the LSU path (10 R247). -/
def onPath (op : Nat) : Bool := (spaceOf op).isSome || op == 0x12D
/-- The pending instruction is an access on the LSU or GSC path. -/
def Pend.isAccess (p : Pend) : Bool := onPath p.op
/-- The space that it accesses. -/
def Pend.space (p : Pend) : Option Nat := if p.op == 0x12D then some 1 else spaceOf p.op
/-- The pending instruction is an LSU access (14 R333). -/
def Pend.isLsu (p : Pend) : Bool := p.isAccess && !isGsc p.op
/-- Bytes of one access of the opcode. -/
def accessSize (op : Nat) (f : EForm) : Nat := if isAtomic op then (if f.modBits 5 4 == 1 then 8 else 4) else sizeBytes (f.modBits 2 0)
/-- Opcodes of class 10 that write memory; a CAS counts as a write whether or not it compares equal. -/
def isStore (op : Nat) : Bool := isAtomic op || (0x200 ≤ op && op ≤ 0x20B && op % 2 == 1)
/-- The instruction reads memory into registers. -/
def isLoad (op : Nat) : Bool := isAtomic op || (0x200 ≤ op && op ≤ 0x20A && op % 2 == 0)
/-- The scope of an access after narrowing (05 R89): 1 block, 2 cluster, 3 device. -/
def narrowScope (sp : Nat) (scope : Nat) : Nat := min scope (if sp == 4 then 0 else sp)
/-- Bytes of one of a pending access's addresses: an ATLOAD's are those of sectors. -/
def Pend.size (p : Pend) : Nat := if p.op == 0x12D then 16 else accessSize p.op p.f
/-- Everything that must be performed before this access has been (14 R327 to R329). -/
def Group.afterOk (gr : Group) (p : Pend) : Bool :=
  p.after.all (fun i => (gr.findPend i).isNone) &&
  p.afterSent.all fun i => match gr.findPend i with
    | none => true
    | some q => q.sent

/-! ### Ordering within the LSU path (07 R161, R164; 14 R328, R329, R343) -/

/-- The accesses of a group that must be performed before a new one: complete, or at least visible in the cluster. A release waits for every
earlier LSU access of the group, and every later one waits for an acquire (07 R161); a fence acts for the lanes that executed it (14 R341). -/
def orderOf (gr : Group) (lanes : Lanes) (sp : Nat) (gsc write : Bool) (ord scope : Nat) (ranges : List (Nat × Nat)) : List Nat × List Nat :=
  gr.pend.foldl (fun (af, sent) q =>
    let mine := (q.entry &&& lanes) ≠ 0
    if q.op == 0x360 then
      if mine && (!gsc || q.f.modBit 1) && (write || q.f.ord.toNat ≠ 2) then (af ++ [q.id], sent) else (af, sent)
    else if !q.isAccess || isGsc q.op ≠ gsc then (af, sent)
    else if !gsc && bitOf q.f.ord.toNat 0 then (af ++ [q.id], sent)
    else if !gsc && bitOf ord 1 then
      if narrowScope (if sp == 0 then 9 else sp) scope ≤ 2 then (af, sent ++ [q.id]) else (af ++ [q.id], sent)
    else
      let ovl := q.space == some sp && ranges.any fun r => q.addrs.any fun e => e.2 < r.1 + r.2 && r.1 < e.2 + q.size
      if !gsc && ovl then (if isStore q.op && !isAtomic q.op then (af, sent ++ [q.id]) else (af ++ [q.id], sent))
      else (af, sent)) ([], [])

/-! ### Non-idempotent instructions and regions (17 R400, R402) -/

/-- Instructions that commit at issue and begin a region after them. -/
def commitsAtIssue (op : Nat) : Bool :=
  [0x243, 0x244, 0x246, 0x247, 0x346, 0x355, 0x269, 0x34A, 0x34B, 0x279, 0x349, 0x27B, 0x27C, 0x277, 0x249, 0x24A, 0x260, 0x261,
    0x263, 0x264, 0x266, 0x267, 0x268, 0x26A, 0x270, 0x271, 0x272, 0x276, 0x278].contains op
/-- Non-idempotent instructions (R400): these, and atomics. -/
def nonIdempotent (op : Nat) : Bool := commitsAtIssue op || isAtomic op

/-- Instructions that take a launch-site tag (18 R426). -/
def takesTag (op : Nat) : Bool :=
  [0x249, 0x24A, 0x260, 0x261, 0x263, 0x264, 0x266, 0x267, 0x268, 0x269, 0x26A, 0x270, 0x271, 0x272, 0x276, 0x277, 0x278,
    0x20A, 0x20B, 0x243, 0x244, 0x27B, 0x27C].contains op

/-- Lanes pass to a new region entry; the group counts one event. -/
def Group.enterRegion (gr : Group) (lanes : Lanes) (pc hdr : DWord) : Group :=
  { gr with
    region := (lanesOf lanes).foldl (fun t l => tput t l pc) gr.region
    regionHdr := (lanesOf lanes).foldl (fun t l => tput t l hdr) gr.regionHdr
    rgncnt := gr.rgncnt + 1 }

/-! ### Fetch -/

/-- Why a word has not come: it is still to be fetched, or fetching it faulted. -/
inductive FErr where
  | miss (va : Nat)
  | fault (cause sub : Nat)
  deriving DecidableEq, Repr

/-- The word at a virtual address, as a fetch of the group reads it: in the context's own ASID, with X, from the core's instruction
cache (06 R158, 17 R423). -/
def fetchWord (s : State) (gr : Group) (va : Nat) : Except FErr Word :=
  if noncanon va then .error (.fault 8 1)
  else match gr.ferr.find? fun e => e.1 == va / 4096 with
  | some e => .error (.fault e.2.1 e.2.2)
  | none =>
    match tlbHit (s.cluster (clusterOf gr.core)).tlb (s.ctxOf gr) va 2 with
    | none => .error (.miss va)
    | some t => match checkLeaf t 2 va with
      | .fault c u => .error (.fault c u)
      | .ok t => match (s.core gr.core).icache.find? fun x => x.sec == t.phys va / 16 with
        | none => .error (.miss va)
        | some x => if x.ue then .error (.fault 12 0) else .ok (BitVec.ofNat 32 (leNat ((x.bytes.drop (t.phys va % 16)).take 4)))

/-- n words from a virtual address up. -/
def fetchWords (s : State) (gr : Group) (va : Nat) : Nat → Except FErr (List Word)
  | 0 => .ok []
  | n + 1 => match fetchWord s gr va with
    | .error e => .error e
    | .ok w => match fetchWords s gr (va + 4) n with
      | .error e => .error e
      | .ok r => .ok (w :: r)

/-- OP10 of an instruction's first word, by its form (06 R144). -/
def opOfWord (w : Word) : Nat := if llOf w == 0 then bOp w else eOp w
/-- BR, CALL, RET, EXIT, BRX and ERET, which must end their run (06 R132). -/
def isControl (op : Nat) : Bool := (0x300 ≤ op && op ≤ 0x304) || op == 0x371
/-- The instruction is guarded by p15 alone (06 R132). -/
def unconditional (ws : List Word) : Bool :=
  match ws with
  | [] => false
  | w :: r => bits w.toNat 31 28 == 15 && (llOf w == 0 || match r with
    | w1 :: _ => bits w1.toNat 30 28 == 0
    | [] => false)

/-- Fetches n instructions from an address; the flag says that a control transfer stood before the last. -/
def fetchInstrs (s : State) (gr : Group) : Nat → Nat → List Word → Bool → List Word × Option FErr × Bool × List Word
  | 0, _, last, pos => ([], none, pos, last)
  | n + 1, va, _, pos =>
    match fetchWord s gr va with
    | .error e => ([], some e, pos, [])
    | .ok w =>
      if llOf w == 3 then ([], some (.fault 1 6), pos, [])
      else
        let k := wordsOf w
        match fetchWords s gr (va + 4) (k - 1) with
        | .error e => ([], some e, pos, [])
        | .ok r =>
          let pos := pos || (isControl (opOfWord w) && n ≠ 0)
          let (ws, e, pos, last) := fetchInstrs s gr n (va + 4 * k) (w :: r) pos
          (w :: r ++ ws, e, pos, last)

/-- Nothing fetched, for a reason. -/
def Fetched.not (h : HForm) (e : FErr) : Fetched :=
  match e with
  | .miss va => { h := h, words := [], follow := none, bad := none, miss := some va }
  | .fault c u => { h := h, words := [], follow := none, bad := some (c, u), miss := none }

/-- Fetches the run whose header stands at an address, and the word after it (06 R131). An address that is not a multiple of 4 holds no
header (R121, R132). -/
def fetchRun (s : State) (gr : Group) (hdr : Nat) : Fetched :=
  let h0 : HForm := hFields 0
  if noncanon hdr then .not h0 (.fault 8 1)
  else if hdr % 4 ≠ 0 then .not h0 (.fault 1 8)
  else match fetchWord s gr hdr with
  | .error e => .not h0 e
  | .ok w =>
    if llOf w ≠ 3 then .not h0 (.fault 1 8)
    else
      let h := hFields w
      let n := h.len.toNat
      if n == 0 || 24 < n || (12 ≤ h.setA.toNat && h.setA.toNat < 15) || (12 ≤ h.setB.toNat && h.setB.toNat < 15) then
        .not h (.fault 1 6)
      else
        let (ws, e, pos, last) := fetchInstrs s gr n (hdr + 4) [] false
        let order (c u : Nat) : FErr := if pos && (c, u) ≠ (1, 6) then .fault 1 7 else .fault c u
        match e with
        | some (.miss va) => .not h (.miss va)
        | some (.fault c u) => .not h (order c u)
        | none =>
          let lastOp := match last with
            | [] => 0
            | w :: _ => opOfWord w
          let free := isControl lastOp && unconditional last
          match fetchWord s gr (hdr + 4 + 4 * ws.length) with
          | .error (.miss va) => .not h (.miss va)
          | .error (.fault c u) => .not h (order c u)
          | .ok f =>
            let bad : Option (Nat × Nat) := if llOf f ≠ 3 && !free then some (1, 6) else if pos then some (1, 7) else none
            { h := h, words := ws, follow := some f, bad := bad, miss := none }

/-- The run at a header: the snapshot taken of it before, or as it is fetched now. -/
def fetchFor (s : State) (gr : Group) (hdr : DWord) : Fetched :=
  match gr.pre with
  | some (h, f) => if h == hdr then f else fetchRun s gr hdr.toNat
  | none => fetchRun s gr hdr.toNat

/-- PRIO of the run header at a PC, a hint (15 R349). -/
def peekPrio (s : State) (gr : Group) (pc : DWord) : Nat :=
  match fetchWord s gr pc.toNat with
  | .ok w => if llOf w == 3 then (hFields w).prio.toNat else 0
  | .error _ => 0

/-- A sector enters an instruction cache (06 R158). -/
def icPut (s : State) (core pa : Nat) (ue : Bool) : State :=
  let x : ISec := { sec := pa / 16, bytes := physRead s (pa / 16 * 16) 16, ue := ue }
  s.modCore core fun k => { k with icache := (x :: k.icache.filter fun y => y.sec ≠ x.sec).take 4096 }

/-- The cached sectors of a virtual frame that hold a given physical one. -/
def heldMask (s : State) (c asid va pframe : Nat) : BitVec 32 :=
  match findSlot (s.cluster c) asid (va / 512) with
  | some (_, k) => if k.pback == pframe then k.present else 0
  | none => 0

/-- Frozen replicas that the cluster holds of a physical frame under another tag move to the slot of this one, which keeps four blocks at most (04
R81, R76). -/
def moveF (s : State) (c : Nat) (t : Tlb) (va pframe : Nat) (m : BitVec 32) (pc : Nat) : State :=
  let olds := (slotsOfPhys (s.cluster c) pframe).foldl (fun (x : BitVec 32 × BitVec 32) e =>
    (x.1 ||| (e.2.mask (· == 3) &&& m), x.2 ||| (e.2.mask (· == 3) &&& m &&& e.2.ue))) (0, 0)
  let m := olds.1 &&& ~~~ heldMask s c t.asid va pframe
  if m == 0 then s else trimSlot (install s c t va pframe m (olds.2 &&& m) 3 pc) c t.asid va

/-- The sectors that a read of a WB frame asks for: the wanted span without what the slot holds, and the gaps that are bridged (04 R72 to
R75). -/
def fillSet (s : State) (c asid va pframe pc span : Nat) (touched : BitVec 32) : BitVec 32 :=
  let present := heldMask s c asid va pframe
  bridge present (wantedSpan (s.cluster c) pc span touched &&& ~~~ present) 32 &&& ~~~ present

/-- A word that a fetch lacks is asked for (06 R158): its translation, then its sector, from the cluster cache or by RdS. The span that
a fetch asks for is the predictor's (log 73). R29 speaks of loads and stores alone; that a fetch through a WC or UC leaf asks for its one
sector by RdS too, and that the sector goes to the instruction cache and no cluster cache, with a UC leaf to no L2 frame either, and that a fetch of
the register window takes the sector from the registers, is the model's choice (DESIGN CHOICE, log 93). -/
def fetchStart (s : State) (g va : Nat) : State :=
  let gr := s.group g
  let c := clusterOf gr.core
  let asid := s.ctxOf gr
  match xlook (s.cluster c).tlb asid va 2 none with
  | none => addWaiter s c asid { va := va, kind := 2, who := .fetch gr.core g va }
  | some (.fault _ _) => s
  | some (.ok t) =>
    let pa := t.phys va
    let fr := frameOf pa
    let who : Waiter := .fetch gr.core g va
    if isWindow pa then icPut s gr.core pa false
    else if gr.fetching.contains (va / 16) then s
    else
      let wb := t.mt == 0
      let want := if wb then secMask pa ||| fillSet s c asid va fr va 0 (secMask pa) else secMask pa
      let s := if wb then moveF s c t va fr want va else s
      match (if wb && hasSec (heldMask s c asid va fr) (sectorOf pa) then findSlot (s.cluster c) asid (va / 512) else none) with
      | some (key, k) => icPut (touchSlot s c key (secMask pa)) gr.core pa (isUe s pa || hasSec k.ue (sectorOf pa))
      | none =>
        let m := if wb then want &&& ~~~ heldMask s c asid va fr else want
        let s := s.modGroup g fun gr => { gr with fetching := va / 16 :: gr.fetching }
        let s := addFill s c { who := who, frame := fr, mask := m, t := t, va := va, pc := va, hint := if wb then 0 else 1 }
        s.send { newReq s .rdS fr m c who with alloc := t.mt ≠ 2 }

/-- Words that the group's entries lack are asked for; while a run is in progress the one that follows it is read ahead, when its words are
at hand (R131, R159; log 76). -/
def fetchKick (s : State) (g : Nat) : State :=
  let gr := s.group g
  if gr.ended then s
  else
    let s := (dedup ((gr.entries.filter fun e => e.waits.all (· == .yielded)).filterMap fun e => (fetchFor s gr e.hdr).miss)).foldl (fun s va => fetchStart s g va) s
    match gr.run, gr.pre with
    | some r, none =>
      let next := r.pc + BitVec.ofNat 64 (4 + 4 * r.words.length)
      let f := fetchRun s gr next.toNat
      if r.issued && f.miss.isNone && f.bad.isNone then s.modGroup g fun gr => { gr with pre := some (next, f) } else s
    | _, _ => s

/-! ### The frontier (15 R349, R350) -/

/-- Lanes take a place in the frontier: in the entry at their PC when neither has a wait state, in a new entry, which counts as issued
when its lanes last were (log 90), or held. -/
def Group.join (gr : Group) (pc hdr : DWord) (mask : Lanes) (prio : Nat) (ws : List Wait) : Group :=
  if mask == 0 then gr
  else if ws.isEmpty && gr.entries.any (fun e => e.pc == pc && e.hdr == hdr && e.waits.isEmpty) then
    { gr with entries := gr.entries.map fun e =>
        if e.pc == pc && e.hdr == hdr && e.waits.isEmpty then { e with mask := e.mask ||| mask } else e }
  else if gr.entries.length < 8 then
    { gr with entries := gr.entries ++
        [{ pc := pc, hdr := hdr, mask := mask, prio := prio, pass := 0, waits := ws
           issued := (lanesOf mask).foldl (fun n l => max n (tget 0 gr.ranAt l)) 0 }] }
  else { gr with held := gr.held ++ (lanesOf mask).map fun l => { lane := l, pc := pc, hdr := hdr, waits := ws, since := gr.issues } }

/-- Lanes take their places, those that go to one place with one wait state together. -/
def Group.joinAll (gr : Group) (prio : DWord → Nat) (moves : List Held) : Group :=
  (dedup (moves.map fun x => (x.pc, x.hdr, x.waits))).foldl (fun (gr : Group) k =>
    let mask := (moves.filter fun x => (x.pc, x.hdr, x.waits) == k).foldl (fun m (x : Held) => m ||| oneLane x.lane) 0
    gr.join k.1 k.2.1 mask (prio k.2.1) k.2.2) gr

/-- Entries that may stand in the frontier beside the one whose run is in progress (R349). -/
def Group.room (gr : Group) : Nat := if gr.run.isSome then 7 else 8

/-- Held lanes take entries as entries free, the longest held first (R349). -/
def Group.unhold (gr : Group) (prio : DWord → Nat) : Nat → Group
  | 0 => gr
  | n + 1 =>
    match gr.held with
    | [] => gr
    | x :: _ =>
      if gr.entries.length < gr.room || gr.entries.any (fun e => x.waits.isEmpty && e.pc == x.pc && e.hdr == x.hdr && e.waits.isEmpty) then
        let like (y : Held) : Bool := y.pc == x.pc && y.hdr == x.hdr && y.waits == x.waits
        let rest := gr.held.filter fun y => !like y
        let mask := (gr.held.filter like).foldl (fun m (y : Held) => m ||| oneLane y.lane) 0
        (({ gr with held := rest }).join x.pc x.hdr mask (prio x.hdr) x.waits).unhold prio n
      else gr

/-- Entries that stand at one PC with no wait state become one (R349, R357). -/
def Group.merge (gr : Group) : Group :=
  gr.entries.foldl (fun (g : Group) e =>
    if e.waits.isEmpty && g.entries.any (fun x => x.pc == e.pc && x.hdr == e.hdr && x.waits.isEmpty) then
      g.join e.pc e.hdr e.mask e.prio e.waits
    else { g with entries := g.entries ++ [e] }) { gr with entries := [] }

/-- Frees entries without lanes, fills them from held lanes, and merges. -/
def settle (s : State) (g : Nat) : State :=
  s.modGroup g fun gr =>
    let gr := { gr with entries := gr.entries.filter fun e => e.mask ≠ 0 }
    (gr.merge.unhold (fun pc => peekPrio s gr pc) 64)

/-- Every wait state of the group. -/
def Group.allWaits (gr : Group) : List Wait :=
  gr.entries.flatMap (·.waits) ++ gr.paused.flatMap (·.waits) ++ gr.held.flatMap (·.waits)

/-- The wait states that the run in progress gives at its end. -/
def Group.runWaits (gr : Group) : List Wait := match gr.run with
  | some r => r.waits.map (·.1)
  | none => []
/-- Removes the wait states that satisfy p from every entry, paused or not; a saved group is then to be restored (17 R410). -/
def Group.unwait (gr : Group) (p : Wait → Bool) : Group :=
  let f := fun (e : Entry) => { e with waits := e.waits.filter fun w => !p w }
  { gr with entries := gr.entries.map f, paused := gr.paused.map f, woken := gr.woken || (gr.saved && gr.allWaits.any p)
            held := gr.held.map fun x => { x with waits := x.waits.filter fun w => !p w } }

/-- Releases the join barriers whose members have all arrived or exited (15 R357). -/
def Group.joinRelease (gr : Group) : Group :=
  (List.range 8).foldl (fun (gr : Group) k =>
    let b := gr.jb.getD k { m := 0, a := 0 }
    if b.m ≠ 0 && b.m &&& ~~~ (b.a ||| gr.exited) == 0 then
      let jb := modAt gr.jb k fun _ => { m := 0, a := 0 }
      let owed := gr.owed.map fun (o : Owed) => { o with waits := o.waits.filter fun w => w.1 ≠ Wait.join k }
      ({ gr with jb := jb, owed := owed }).unwait fun w => w == Wait.join k
    else gr) gr

/-! ### Futures (13 R306) -/

/-- Releases one slot: its ring entry frees, and a batch that waits for ring entries goes on (12 R299). -/
def releaseFut (s : State) (g k lane : Nat) : State :=
  let fu := tget Fut.reset (s.group g).fut (64 * k + lane)
  let s := match fu.ring with
    | none => s
    | some (c, q, e) =>
      (s.modCluster c fun cl => { cl with baton := tmod Baton.reset cl.baton q fun b => { b with ring := b.ring.filter (· ≠ e) } }).wire
        (.batonResume c q)
  s.modGroup g fun gr => { gr with fut := tdel gr.fut (64 * k + lane) }

/-! ### Barriers (15 R359, R360) -/

/-- The barrier of a reference. -/
def getBar (s : State) (b : BarRef) : Bar :=
  match b.level with
  | .block => tget Bar.reset (s.block b.owner).bars b.k
  | .cluster => tget Bar.reset (s.launch b.owner).cbars (8 * b.place + b.k)
  | .grid => tget Bar.reset (s.launch b.owner).gbars b.k
/-- The state with a barrier set. -/
def setBar (s : State) (b : BarRef) (v : Bar) : State :=
  match b.level with
  | .block => s.modBlock b.owner fun x => { x with bars := tput x.bars b.k v }
  | .cluster => s.modLaunch b.owner fun x => { x with cbars := tput x.cbars (8 * b.place + b.k) v }
  | .grid => s.modLaunch b.owner fun x => { x with gbars := tput x.gbars b.k v }
/-- The barrier a group names. -/
def barRef (gr : Group) (bl : Block) (level k : Nat) : BarRef :=
  match level with
  | 0 => { level := .block, k := k, owner := gr.block, place := 0 }
  | 1 => { level := .cluster, k := k, owner := gr.launch, place := bl.place }
  | _ => { level := .grid, k := k, owner := gr.launch, place := 0 }
/-- The member numbers of a barrier, as a range, with the launch (R359). -/
def barMembers (s : State) (b : BarRef) : Nat × Nat × Nat :=
  match b.level with
  | .block =>
    let bl := s.block b.owner
    let gpb := recGpb (s.launch bl.launch).record
    if bl.single then (0, 0, bl.launch) else (bl.num * gpb, bl.num * gpb + gpb, bl.launch)
  | .cluster =>
    let r := (s.launch b.owner).record
    let n := max (recCplace r) 1
    (b.place * n * recGpb r, min ((b.place + 1) * n) (recNblk r) * recGpb r, b.owner)
  | .grid =>
    let r := (s.launch b.owner).record
    (0, recNblk r * recGpb r, b.owner)
/-- The group is a member of the barrier. -/
def isMember (s : State) (gr : Group) (b : BarRef) : Bool :=
  let (lo, hi, _) := barMembers s b
  lo ≤ gr.num && gr.num < hi && gr.num < recNblk (s.recOf gr) * recGpb (s.recOf gr)
/-- Every member has arrived at phase p, or has ended, which counts as an arrival at every phase from the number of its arrivals on, those still
under way among them (15 R362, 14 R336). -/
def phaseDone (s : State) (b : BarRef) (p : Nat) : Bool :=
  let (lo, hi, l) := barMembers s b
  let br := getBar s b
  let arrived := (br.arr.filter fun e => p < e.2).map (·.1)
  let ended := (s.groups.filter fun e =>
    e.2.ended && e.2.launch == l && lo ≤ e.2.num && e.2.num < hi && tget 0 br.issued e.2.num ≤ p).map (·.2.num)
  lo < hi && (dedup (arrived ++ ended)).length == hi - lo
/-- Phase q of a barrier with K completed phases is complete, modulo 2^32 (R360). -/
def phaseComplete (k : Nat) (q : BitVec 32) : Bool := (BitVec.ofNat 32 k - 1 - q).toNat < 2 ^ 31
/-- Identity of a split-time event (18 R429). -/
def splitId (obj phase : Nat) : BitVec 16 := BitVec.ofNat 16 (256 * obj + phase % 256)
/-- Identity object bits of a barrier. -/
def barObj (b : BarRef) : Nat :=
  (match b.level with
    | .block => 0
    | .cluster => 16
    | .grid => 32) + b.k
/-- aclk cycles of a number of ns (22 R479). -/
def aclkOf (s : State) (ns : Nat) : Nat := ns * s.dev.aclk * 25 / 1000

/-- Completes the phases that are due, with their records (18 R430), and lets the waiters go on (04 R82). `who` is the group whose
arrival or end it was, with its PC and LAST. -/
def advanceBar (s : State) (b : BarRef) (who : Nat) (pc : DWord) (last : BitVec 16) : Nat → State
  | 0 => s
  | n + 1 =>
    let br := getBar s b
    let (_, _, l) := barMembers s b
    if phaseDone s b br.k && br.arr.any (fun e => br.k < e.2) then
      let q := BitVec.ofNat 32 br.k
      let wait := (s.groups.filter fun e => e.2.launch == l && !e.2.ended).filterMap fun e =>
        let ts := e.2.allWaits.filterMap fun w => match w with
          | .phase b' q' t _ => if b' == b && q' == q then some t else none
          | _ => none
        ts.head?.map fun t => (e.2.num, s.now - t)
      let longest := minBy (fun (x y : Nat × Nat) => y.2 < x.2) wait
      let gr := s.group who
      let w := match longest with
        | some x => min (2 ^ 32 - 1) (aclkOf s x.2)
        | none => 0
      let lg := match longest with
        | some x => x.1
        | none => 0xFFFFFF
      let sq := last.toNat * 2 ^ 16 + (splitId (barObj b) br.k).toNat
      let s := leuth s 2 4 (lg * 2 ^ 40 + w) gr.core gr.num sq pc.toNat false false
      let rc : SplitRec := { group := gr.num, pc := pc, longest := lg, wait := w, prev := last, ident := splitId (barObj b) br.k }
      let s := setBar s b { br with k := br.k + 1, record := some rc }
      let s := s.groups.foldl (fun s e =>
        if e.2.launch == l && !e.2.ended && (e.2.allWaits ++ e.2.runWaits).any (fun w => match w with
          | .phase b' q' _ _ => b' == b && phaseComplete (br.k + 1) q'
          | _ => false) then s.wire (.phasePass e.1 b) else s) s
      advanceBar s b who pc last n
    else s

/-- Every barrier that a group of a launch may be a member of, as far as anyone has arrived. -/
def barsOf (s : State) (gr : Group) : List BarRef :=
  let bl := s.block gr.block
  let la := s.launch gr.launch
  (tkeys bl.bars).map (fun k => { level := .block, k := k, owner := gr.block, place := 0 }) ++
  ((tkeys la.cbars).filter fun k => k / 8 == bl.place).map (fun k => { level := .cluster, k := k % 8, owner := gr.launch, place := bl.place }) ++
  (tkeys la.gbars).map fun k => { level := .grid, k := k, owner := gr.launch, place := 0 }

/-! ### Faults that reach a record, the agent or the group -/

/-- The first fault delivered to the completion record (16 R391). -/
def launchFault (s : State) (l cause group : Nat) : State :=
  s.modLaunch l fun x => if x.reason == 0 then { x with reason := cause, fgroup := group } else x

/-- The triggers a delivered cause pulls (18 R436). -/
def causeTrigger (s : State) (cause : Nat) : State :=
  if cause == 8 || cause == 9 then rfrzTrigger s 1 else if cause == 21 then rfrzTrigger s 2 else s

/-- Those of every lane of a cause vector. -/
def causesTrigger (s : State) (cs : List LaneCause) : State := (dedup (cs.map (·.cause))).foldl causeTrigger s

/-- The live groups of a block. -/
def blockLive (s : State) (b : Nat) : Bool := s.groups.any fun e => e.2.block == b && !e.2.ended

/-- A subtree of a launch is cancelled (15 R370). -/
def subCancelled (s : State) (l sub : Nat) : Bool := (tget { parent := 0, cancelled := false } (s.launch l).subs sub).cancelled
/-- The group belongs to a cancelled set. -/
def cancelled (s : State) (gr : Group) : Bool := subCancelled s gr.launch gr.subtree

/-- What becomes of the operation a fault parked: retried from RPROG, or abandoned (R420). -/
def unpark (s : State) (p : Parked) (abandon : Bool) : State :=
  match p with
  | .none => s
  | .matrix core id =>
    let s := s.modCore core fun c => { c with tsch := c.tsch.map fun o =>
      if o.id == id && o.st == .parked then { o with st := if abandon then .abandoned else .queued } else o }
    if abandon then s.wire (.taskComplete core id) else s.wire (.tschStart core id)
  | .query c id =>
    let s := s.modCluster c fun cl => { cl with cqe := cl.cqe.map fun q =>
      if q.id == id then { q with parked := false, dropped := q.dropped || abandon } else q }
    s.wire (.cqeNodeRead c id)
  | .baton c q => s.wire (.batonResume c q)

/-- Queues an engine fault for its issuer: eight deep; a ninth goes to the debug agent alone; that of an ended issuer to the
completion record and the agent (17 R408), and what it parked is abandoned (12 R290). -/
def queueEFault (s : State) (g : Nat) (e : EFault) : State :=
  let gr := s.group g
  let s := faultRecord s gr.core gr.num e.tagSeq.toNat e.tagPc.toNat e.cause e.sub gr.ended
  if gr.ended then unpark (dbgEvt (causeTrigger (launchFault s gr.launch e.cause gr.num) e.cause) 3) e.parked true
  else if 8 ≤ gr.efaults.length then
    dbgEvt (causeTrigger (s.modGroup g fun gr => { gr with lost := min 15 (gr.lost + 1) }) e.cause) 3
  else s.modGroup g fun gr => { gr with efaults := gr.efaults ++ [e] }

/-- The parked operations of a group. -/
def parkedOf (s : State) (g : Nat) : List Parked :=
  (s.cores.flatMap fun c => (c.2.tsch.filter fun o => o.g == g && o.st == .parked).map fun o => Parked.matrix c.1 o.id) ++
  s.clusters.flatMap fun c => (c.2.cqe.filter fun q => q.g == g && q.parked).map fun q => Parked.query c.1 q.id

/-- Launches whose blocks wait for room are looked at again (16 R386). -/
def replace (s : State) : State :=
  s.launches.foldl (fun s e => if !e.2.done && e.2.nextBlock < recNblk e.2.record then s.wireOnce (.blockPlace e.1) else s) s
/-- Children that wait for a core, on any core, are looked at again (15 R367; 11 R267). -/
def childKick (s : State) : State :=
  s.cores.foldl (fun s e =>
    let s := if e.2.spawn.isEmpty then s else s.wireOnce (.spawnPlace e.1)
    (e.2.relay.filter (·.full)).foldl (fun s b => s.wireOnce (.relayGroupPlace e.1 b.id)) s) s

/-- A group ends (15 R348): pending register writes are discarded while its stores and its other accesses run on, its futures released, its barriers take it as arrived, its
slices and slot free, for whom waits, and its block ends with its last group. Fences of a cancelled group are dropped (14 R342, R344); an
arrival still under way is counted when what it orders is performed (14 R335). A group's end counts as a release (05 R109). Engine faults that wait for it go to
the completion record and the agent, and what they parked is abandoned (17 R408, 12 R278). -/
def endGroup (s : State) (g : Nat) : State :=
  let gr := s.group g
  if gr.ended then s
  else
    let s := gr.fut.foldl (fun s e => releaseFut s g (e.1 / 64) (e.1 % 64)) s
    let s := gr.efaults.foldl (fun s e => dbgEvt (causeTrigger (launchFault s gr.launch e.cause gr.num) e.cause) 3) s
    let s := (parkedOf s g).foldl (fun s p => unpark s p true) s
    let left := (gr.pend.filter fun (p : Pend) => (!writesReg p.op p.f || isAtomic p.op || runsOn p.op) &&
        !(cancelled s gr && (p.op == 0x360 || p.op == 0x361))).map fun (p : Pend) =>
      { p with flag := none, holds := false }
    let s := s.modGroup g fun gr =>
      { gr with ended := true, exited := BitVec.allOnes 64, entries := [], held := [], paused := [], run := none, pre := none,
                waitsAt := false, stoodAt := none, pend := left, owed := [], haz := [], fwaits := [], dfault := none, dlater := [], efaults := [],
                trap := none, preempt := false, idleSince := s.now, iv := min 0xFFFFFF (gr.iv + 1) }
    let s := left.foldl (fun s p => if p.after.isEmpty && p.afterSent.isEmpty then s else s.wire (.instrComplete g p.id)) s
    let s := s.modCore gr.core fun c => { c with binds := tdel c.binds g }
    let s := { s with dev := { s.dev with savedBytes := tdel s.dev.savedBytes g, engs := tdel s.dev.engs g } }
    let s := s.modBlock gr.block fun b =>
      { b with sems := b.sems.map fun e => (e.1, { e.2 with waiting := e.2.waiting.filter fun w => w.1 ≠ g }) }
    let pushed := if cancelled s gr then
        (s.launch gr.launch).stageQ.flatMap fun e => (e.2.pushes.filter fun w => w.1 == g).map (·.2.1)
      else []
    let s := s.modLaunch gr.launch fun l =>
      { l with stageQ := l.stageQ.map fun e => (e.1, { e.2 with
          pops := e.2.pops.filter fun w => w.1 ≠ g
          pushes := if cancelled s gr then e.2.pushes.filter fun w => w.1 ≠ g else e.2.pushes }) }
    let s := pushed.foldl (fun s id => cancelPend s g id) s
    let pc := match gr.run with
      | some r => r.pc
      | none => 0
    let s := (barsOf s gr).foldl (fun s b => advanceBar s b g pc gr.last 4) s
    let s := if blockLive s gr.block then s else ((s.core gr.core).relay.foldl (fun s b =>
      if b.block == gr.block then s.wireOnce (.relayTimeout gr.core b.id) else s) s).wire (.blockEnd gr.block)
    childKick (replace s)

/-- EndGroup(cause) of R405: the cause goes to the debug agent and to the completion record, and its FAULT record names the instruction
concerned (18 R431). -/
def endGroupCause (s : State) (g cause sub pc : Nat) : State :=
  let gr := s.group g
  let s := faultRecord s gr.core gr.num gr.seq.toNat pc cause sub false
  let s := dbgEvt (causeTrigger (launchFault s gr.launch cause gr.num) cause) 4
  endGroup s g

/-! ### Freeze checks shared by every writer (03 R61) -/

/-- The entry is live: RECALLING, FROZEN or THAWING. -/
def FzEnt.live (e : FzEnt) : Bool := e.st ≠ .free
/-- A write to [pa, pa + n) meets live entries that its check point knows of: the subcode of FROZEN_WRITE, THAWING if every
covering entry is THAWING. -/
def frozenSub (s : State) (pa n : Nat) : Option Nat :=
  let cov := (s.l2.fz.map (·.2)).filter fun e =>
    e.live && e.acked && e.pbase < pa + n && pa < e.pbase + 16 * e.sectors
  if cov.isEmpty then none else some (if cov.all fun e => e.st == .thawing then 1 else 0)

/-- Live freeze entries that an access of an ASID meets at its cluster's filter, checked exactly (03 R61, R62). -/
def filterSub (s : State) (asid va n : Nat) : Option Nat :=
  let cov := (s.l2.fz.map (·.2)).filter fun e =>
    e.live && e.acked && e.asid == asid && 16 * e.vbase < va + n && va < 16 * (e.vbase + e.sectors)
  if cov.isEmpty then none else some (if cov.all fun e => e.st == .thawing then 1 else 0)

/-! ### Taking a trap (17 R405 to R407) -/

/-- What a trap is taken with. -/
structure TrapInfo where
  lanes : Lanes
  active : Lanes
  ipc : DWord
  kind : Nat
  causes : List LaneCause
  resume : Sp DWord
  hdr : Sp DWord
  efault : Option EFault
  runPc : DWord
  stand : List (DWord × Nat)
  atile : Option Nat
  deriving DecidableEq, Repr

/-- The primary cause and its subcode (R398). -/
def primary (cs : List LaneCause) : Nat × Nat :=
  match minBy (fun (a b : LaneCause) => a.cause < b.cause || (a.cause == b.cause && a.lane < b.lane)) cs with
  | some c => (c.cause, c.sub)
  | none => (0, 0)

/-- The cause a lane holds, 0 if none: the lowest it raised (R398). -/
def laneCause (cs : List LaneCause) (l : Nat) : LaneCause :=
  match minBy (fun (a b : LaneCause) => a.cause < b.cause) (cs.filter fun c => c.lane == l) with
  | some c => c
  | none => { lane := l, cause := 0, sub := 0, addr := 0 }

/-- TFRAME of a group (R406). -/
def tframe (s : State) (gr : Group) : Nat :=
  bits (ctxDw s (s.ctxOf gr) 2) 55 13 * 8192 + 8192 * (32 * gr.core + gr.slot)

/-- Dword i of the frame (R406, R407). -/
def frameDword (s : State) (gr : Group) (t : TrapInfo) (i : Nat) : Nat :=
  let (cause, sub) := primary t.causes
  let regs := s.regsOf gr
  let inLane (l x : Nat) : Nat := if hasLane t.lanes l then x else 0
  let v (j l : Nat) : Nat := if l < gr.w then inLane l (gr.getV (vNum regs (240 + j)) l).toNat else 0
  if i == 0 then
    gr.rgncnt.toNat * 2 ^ 32 + gr.lost * 2 ^ 24 + t.kind * 2 ^ 20 + sub * 256 + cause
  else if i == 1 then t.lanes.toNat
  else if i == 2 then t.active.toNat
  else if i == 3 then t.ipc.toNat
  else if i == 4 then (match t.efault with
    | some e => e.tagPc.toNat
    | none => 0)
  else if i == 5 then (match t.efault with
    | some e => e.tagSeq.toNat * 2 ^ 32 + e.rprog
    | none => 0)
  else if i == 6 then gr.dasid * 2 ^ 48 + gr.phys * 2 ^ 40 + gr.w * 2 ^ 32 + gr.num
  else if i == 7 then (match t.atile with
    | some a => 1024 + a
    | none => 0)
  else if i < 13 then
    ((List.range 64).foldl (fun x l => x + (laneCause t.causes l).cause * 2 ^ (5 * l)) 0) / 2 ^ (64 * (i - 8)) % 2 ^ 64
  else if i < 16 then 0
  else if i < 80 then inLane (i - 16) (tget 0 t.resume (i - 16)).toNat
  else if i < 144 then inLane (i - 80) (tget 0 t.hdr (i - 80)).toNat
  else if i < 208 then
    (match t.efault with
      | some e => if i == 144 then e.addr else 0
      | none =>
        let k := laneCause t.causes (i - 144)
        inLane (i - 144) (if k.cause == 15 then 0 else k.addr))
  else if i < 224 then (gr.getPM (i - 208) &&& t.lanes).toNat
  else if i < 240 then (if i == 239 then 0 else (tget 0 gr.pPois (i - 224) &&& t.lanes).toNat)
  else if i < 256 then (tget 0 gr.vPois (vNum regs (240 + (i - 240))) &&& t.lanes).toNat
  else if i < 263 then (gr.getS (56 + (i - 256))).toNat
  else if i == 263 then bits gr.sPois.toNat 62 56
  else if i < 512 then 0
  else
    let k := i - 512
    v (k / 32) (2 * (k % 32)) + 2 ^ 32 * v (k / 32) (2 * (k % 32) + 1)

/-- What the checks at issue of an LSU access to the frame answer, if anything (03 R61, 18 R437). -/
def frameBad (s : State) (core asid a : Nat) (wr : Bool) : Option (Nat × Nat) :=
  if (watchHits s (clusterOf core) asid a 8192 (!wr) wr false).any fun h => h.action == 0 then some (6, 0)
  else if wr then (filterSub s asid a 8192).map fun u => (7, u) else none
/-- The other watchpoints that it hits: each writes its record, and one that stops takes the group at its next run boundary (log 92). -/
def frameWatch (s : State) (g : Nat) (asid a : Nat) (pc : DWord) (wr : Bool) : State :=
  let gr := s.group g
  (watchHits s (clusterOf gr.core) asid a 8192 (!wr) wr false).foldl (fun s h =>
    let s := watchRecord s (clusterOf gr.core) gr.core gr.num gr.seq.toNat pc.toNat h false
    if h.holds then s.modGroup g fun gr => { gr with stopReq := true } else s) s
/-- The LSU access that writes or reads a trap frame, in the context's own ASID, as 512 pieces of 16 bytes (R406; log 92). -/
def framePend (s : State) (gr : Group) (id : Nat) (use : FrameUse) (lanes : Lanes) (a : Nat) (pc : DWord) (vals : List (Nat × Nat)) : Pend :=
  let op := if use == .restore then 0x200 else 0x201
  let (af, sent) := orderOf gr lanes 0 false (op == 0x201) 0 0 [(a, 8192)]
  { id := id, op := op, f := { eFields 0 0 0 none with mod := 4 }, pc := pc, seq := gr.seq, lanes := lanes, entry := lanes, flag := none, hm := true
    asid := s.ctxOf gr, addrs := (List.range 512).map fun i => (i, a + 16 * i), vals := vals, vals2 := [], left := 0, sent := false
    ready := false, after := af, afterSent := sent, pieces := [], res := [], aux := 0, since := s.now, bad := [], holds := false
    nextPc := pc, nextHdr := pc, drain := none, frame := some use }
/-- The stores of a trap frame (R406). -/
def framePieces (s : State) (gr : Group) (t : TrapInfo) : List (Nat × Nat) :=
  (List.range 512).map fun i => (i, frameDword s gr t (2 * i) + 2 ^ 64 * frameDword s gr t (2 * i + 1))
/-- A store of the group's trap frame has not passed its checks: until then the handler does not issue (R405, R406). -/
def Group.frameOpen (gr : Group) : Bool := gr.pend.any fun p => match p.frame with
  | some (.save _ _) => !p.ready
  | _ => false

/-- What a run cut short still owes (R420). -/
def Group.owe (gr : Group) : Group :=
  match gr.run with
  | some r => if r.issued && !(r.waits.isEmpty && r.retire == 0 && !r.yield) then
      { gr with owed := gr.owed ++ [{ hdr := r.pc, waits := r.waits, retire := r.retire, yield := r.yield }] }
    else gr
  | none => gr

/-- The wait states that lanes which do not resume inside their run take, and whether they retire. -/
def Group.owedTo (gr : Group) (hdr : DWord) (l : Nat) : List Wait × Bool :=
  let os := gr.owed.filter fun o => o.hdr == hdr
  (os.flatMap fun o => (o.waits.filter fun w => hasLane w.2 l).map (·.1), os.any fun o => hasLane o.retire l)

/-- What is owed to some lanes is gone. -/
def Group.unowe (gr : Group) (hdr : DWord) (lanes : Lanes) : Group :=
  { gr with owed := (gr.owed.map fun o =>
      if o.hdr == hdr then { o with waits := (o.waits.map fun w => (w.1, w.2 &&& ~~~ lanes)).filter fun w => w.2 ≠ 0
                                    retire := o.retire &&& ~~~ lanes } else o).filter fun o =>
        !(o.waits.isEmpty && o.retire == 0) }

/-- TAKING A TRAP (R405): the stores of the frame at TFRAME begin, HM is set, the handler flags set, the trap lanes sent to TVEC as one
entry, and the group's other entries paused; or the group ends, in handler mode, without TVEC.EN, or when the frame write faults, now or
later (`deferFault`).
-/
def takeTrap (s : State) (g : Nat) (t : TrapInfo) : State :=
  let gr := s.group g
  let (cause, sub) := primary t.causes
  let asid := s.ctxOf gr
  let tvec := ctxDw s asid 1
  let s := causesTrigger s t.causes
  if gr.hm || !bitOf tvec 0 then endGroupCause s g cause sub t.ipc.toNat
  else match frameBad s gr.core asid (tframe s gr) true with
  | some (c, u) => endGroupCause (faultRecord s gr.core gr.num gr.seq.toNat t.ipc.toNat c u false) g cause sub t.ipc.toNat
  | none =>
    let vec := BitVec.ofNat 64 (bits tvec 55 2 * 4)
    let prio := peekPrio s gr vec
    let others := (gr.entries.map fun e => { e with mask := e.mask &&& ~~~ t.lanes }) ++
      gr.held.map fun x => { pc := x.pc, hdr := x.hdr, mask := oneLane x.lane &&& ~~~ t.lanes, prio := 0, pass := 0, waits := x.waits,
                             issued := x.since }
    let ctx : TrapCtx :=
      { lanes := t.lanes, kind := t.kind, parked := (match t.efault with
          | some e => e.parked
          | none => .none),
        frame := tframe s gr, runPc := t.runPc, stand := t.stand }
    let (id, s) := (frameWatch s g asid (tframe s gr) t.ipc true).fresh
    let p := framePend s gr id (.save cause sub) t.lanes (tframe s gr) t.ipc (framePieces s gr t)
    (addPend (s.modGroup g fun gr =>
      { gr.owe with
        hm := true, hflags := List.replicate 12 FlagSt.reset, trap := some ctx, paused := others.filter fun e => e.mask ≠ 0
        entries := [{ pc := vec, hdr := vec, mask := t.lanes, prio := prio, pass := 0, waits := [], issued := 0 }]
        held := [], run := none, stalled := false, waitsAt := false, stoodAt := none, ferr := [] }) g p).wire (.instrComplete g id)

/-- The lanes of a list of lane numbers that satisfy p. -/
def laneSet (p : Nat → Bool) (ls : List Nat) : Lanes := ls.foldl (fun m l => if p l then m ||| oneLane l else m) 0

/-! ### The return from a trap (17 R420, R421) -/

/-- A deferred fault of lanes that did not roll back is due after the return (17 R403). -/
def takeLater (s : State) (g : Nat) : State :=
  match (s.group g).dlater with
  | [] => s
  | d :: r => (s.modGroup g fun gr => { gr with dfault := some d, dlater := r }).wire (.deferredFault g)

/-- The frame as 1024 dwords, from what the reads of its pieces brought. -/
def frameRead (p : Pend) : List Nat := (List.range 1024).map fun i => tget 0 p.vals (i / 2) / 2 ^ (64 * (i % 2)) % 2 ^ 64

/-- Restores one lane's p0 to p14 and v240 to v255 with their poison from the frame. -/
def restoreLane (regs : Nat) (fr : List Nat) (gr : Group) (l : Nat) : Group :=
  let gr := (List.range 15).foldl (fun (gr : Group) k =>
    gr.wrP k l (bitOf (fr.getD (208 + k) 0) l) (bitOf (fr.getD (224 + k) 0) l)) gr
  (List.range 16).foldl (fun (gr : Group) j =>
    let d := fr.getD (512 + 32 * j + l / 2) 0
    gr.wrV (vNum regs (240 + j)) l (BitVec.ofNat 32 (if l % 2 == 0 then d else d / 2 ^ 32)) (bitOf (fr.getD (240 + j) 0) l)) gr

/-- A wait state as the end of a run begins it (18 R430). -/
def stamp (s : State) (w : Wait) : Wait :=
  match w with
  | .phase b q _ _ => .phase b q s.now (phaseComplete (getBar s b).k q)
  | .sem k _ => .sem k s.now
  | w => w

/-- The barrier unit looks at the phases that a group waits for. -/
def passWires (s : State) (g : Nat) : State :=
  (s.group g).allWaits.foldl (fun s w => match w with
    | .phase b q _ _ => if phaseComplete (getBar s b).k q then s.wireOnce (.phasePass g b) else s
    | _ => s) s

/-- RETURN FROM A TRAP (R420): every handler lane stands at ERET, and the frame is read. Registers, PCs, headers and region entries come from
the frame, the counts of the trapped run's unissued instructions are settled (R421), the parked operation goes on or is abandoned,
and the paused entries resume. -/
def returnFromTrap (s : State) (g : Nat) (fr : List Nat) : State :=
  let gr := s.group g
  match gr.trap with
  | none => s
  | some t =>
    let lanes := t.lanes &&& gr.live
    let regs := s.regsOf gr
    let pcOf (l : Nat) : DWord := BitVec.ofNat 64 (fr.getD (16 + l) 0)
    let hdOf (l : Nat) : DWord := BitVec.ofNat 64 (fr.getD (80 + l) 0)
    let keep := t.stand.filter fun x => (lanesOf lanes).any fun l =>
      hdOf l == t.runPc && t.runPc.toNat < (pcOf l).toNat && (pcOf l).toNat ≤ x.1.toNat
    let gone := t.stand.filter fun x => !keep.contains x
    let gr := (lanesOf lanes).foldl (restoreLane regs fr) gr
    let gr := (List.range 7).foldl (fun (gr : Group) j =>
      gr.wrS (56 + j) (BitVec.ofNat 64 (fr.getD (256 + j) 0)) (bitOf (fr.getD 263 0) j)) gr
    let gr := gone.foldl (fun (gr : Group) x => gr.modFlag false x.2 FlagSt.done) gr
    let gr : Group := { gr with
      hm := false, trap := none, stand := gr.stand ++ keep, run := none, paused := []
      pend := gr.pend.map fun p => if p.hm then { p with flag := none } else p
      haz := gr.haz.filter fun h => !h.hm
      efaults := gr.efaults.map fun e => if e.flag.any (·.1) then { e with flag := none } else e
      region := (lanesOf lanes).foldl (fun r l => tput r l (pcOf l)) gr.region
      regionHdr := (lanesOf lanes).foldl (fun r l => tput r l (hdOf l)) gr.regionHdr
      rgncnt := gr.rgncnt + 1
      entries := gr.paused.take 8
      held := (gr.paused.drop 8).flatMap fun (e : Entry) => (lanesOf e.mask).map fun l => { lane := l, pc := e.pc, hdr := e.hdr, waits := e.waits, since := e.issued } }
    let inside (l : Nat) : Bool := hdOf l == t.runPc && pcOf l ≠ hdOf l
    let outs := (lanesOf lanes).filter fun l => !inside l
    let gone := laneSet (fun l => (gr.owedTo t.runPc l).2) outs
    let moves : List Held := ((lanesOf lanes).filter fun l => !hasLane gone l).map fun l =>
      { lane := l, pc := pcOf l, hdr := hdOf l, waits := if inside l then [] else (gr.owedTo t.runPc l).1.map (stamp s), since := gr.issues }
    let gr := gr.unowe t.runPc (laneSet (fun _ => true) outs)
    let gr := ({ gr with exited := gr.exited ||| gone } : Group).joinAll (peekPrio s gr) moves
    let s := settle (s.setGroup g gr.joinRelease) g
    let s := if t.kind == 2 then unpark s t.parked (bitOf (fr.getD 0 0) 23) else s
    let s := passWires s g
    if (s.group g).live == 0 then endGroup s g else takeLater s g

/-- Every lane has the wait state. -/
def Group.allWaitFor (gr : Group) (w : Wait) : Bool :=
  (gr.entries.all fun e => e.waits.contains w) && gr.held.all fun x => x.waits.contains w
/-- Every handler lane that has not exited stands at ERET (R420). -/
def eretReady (gr : Group) : Bool :=
  gr.hm && gr.run.isNone && !gr.entries.isEmpty && gr.allWaitFor .eret

/-- A store of the group to its trap frame is not yet performed. -/
def frameStores (gr : Group) (t : TrapCtx) : Bool :=
  gr.pend.any fun p => [0x201, 0x20B, 0x250, 0x254].contains p.op && p.addrs.any fun a => t.frame < a.2 + 16 && a.2 < t.frame + 8192
/-- The return from a trap: once the group's earlier stores to the frame are performed, the frame is read, and with its data the group returns
(R420); a fault of the read is one within the handler. -/
def eretTry (s : State) (g : Nat) : State :=
  let gr := s.group g
  match gr.trap with
  | none => s
  | some t =>
    let pc := match gr.entries with
      | e :: _ => e.pc
      | [] => 0
    if !eretReady gr || gr.pend.any (fun p => p.frame == some .restore) then s
    else if frameStores gr t then s.wire (.eret g)
    else match frameBad s gr.core (s.ctxOf gr) t.frame false with
    | some (c, u) => endGroupCause s g c u pc.toNat
    | none =>
      let (id, s) := (frameWatch s g (s.ctxOf gr) t.frame pc false).fresh
      (addPend s g (framePend s gr id .restore t.lanes t.frame pc [])).wire (.instrComplete g id)

/-! ### The end of a run -/

/-- When held lanes have waited through 64 issues, the entry issued most recently that has no wait state is held in their place
(15 R350). -/
def rotateHeld (s : State) (g : Nat) : State :=
  let gr := s.group g
  match gr.held, minBy (fun (a b : Entry) => b.issued < a.issued) (gr.entries.filter fun e => e.waits.isEmpty) with
  | x :: _, some e =>
    if gr.issues < x.since + 64 then s
    else settle (s.setGroup g { gr with
      entries := gr.entries.erase e
      held := gr.held ++ (lanesOf e.mask).map fun l => { lane := l, pc := e.pc, hdr := e.hdr, waits := e.waits, since := gr.issues } }) g
  | _, _ => s

/-- The run's lanes move to their next PCs with the wait states it gave them (15 R349); exits, join releases, the group's end
and the return from a trap follow. -/
def endRun (s : State) (g : Nat) : State :=
  let gr := s.group g
  match gr.run with
  | none => s
  | some r =>
    let fall := r.pc + BitVec.ofNat 64 (4 + 4 * r.ofs)
    let gone := r.retire ||| gr.exited
    let stay := lanesOf (r.lanes &&& ~~~ gone)
    let yl : List Wait := if r.yield && gr.preempt then [.yielded] else []
    let gr1 := { gr with run := none, exited := gone, stalled := false, waitsAt := false, stoodAt := none }
    let gr2 := gr1.joinAll (peekPrio s gr) (stay.map fun l =>
      { lane := l, pc := tget fall r.next l, hdr := tget fall r.next l
        waits := ((r.waits.filter fun w => hasLane w.2 l).map fun w => stamp s w.1) ++ yl, since := gr.issues })
    let gr3 := gr2.joinRelease
    let s1 := rotateHeld (settle (s.setGroup g gr3) g) g
    if gr3.live == 0 then endGroup s1 g
    else
      let s2 := passWires s1 g
      let s3 := if gr3.stopReq then dbgEvt s2 2 else s2
      let s4 := if gr3.dfault.isSome then s3.wire (.deferredFault g) else s3
      if cancelled s4 gr3 then endGroup s4 g
      else eretTry s4 g

/-! ### Issue -/

/-- What an instruction sees at issue. -/
structure Ctx where
  g : Nat
  gr : Group
  r : Run
  op : Nat
  f : EForm
  sp : OpSpec
  regs : Nat
  pc : DWord
  nw : Nat
  entry : Lanes
  lanes : Lanes
  flag : Option Nat
  deriving DecidableEq, Repr

/-- An instruction's own part: its checks (causes per lane), whether it waits, its effect and whether its completion comes
later, further registers it uses, whether it acts with no active lane, whether the group stops at it for the debug agent, what its
waiting itself brings about, the engine fault that its own causes are taken as (13 R307), with the state then, and whether it
stores to host memory. `sure` are those of its checks that rest on its encoding and the state alone, beside the ones that their cause shows; `others`
what lanes that found no cause at issue find by completing translation and every check (R399); `notes` the records it leaves where a watchpoint turns
it away (18 R437). -/
structure Meaning where
  check : Ctx → State → List LaneCause := fun _ _ => []
  others : Ctx → State → List Nat → List LaneCause := fun _ _ _ => []
  notes : Ctx → State → State := fun _ s => s
  sure : Ctx → State → List LaneCause := fun _ _ => []
  stall : Ctx → State → Bool := fun _ _ => false
  act : Ctx → State → State × Bool
  uses : Ctx → State → List RegUse := fun _ _ => []
  always : Bool := false
  halts : Ctx → State → Bool := fun _ _ => false
  onStall : Ctx → State → State := fun _ s => s
  engine : Ctx → State → Option (EFault × State) := fun _ _ => none
  host : Ctx → State → Bool := fun _ _ => false

/-- The guard of a lane (06 R126). -/
def guardOf (gr : Group) (f : EForm) (l : Nat) : Bool :=
  let a := gr.getP f.g0.toNat l
  let b := gr.getP f.g1.toNat l
  match f.gc.toNat with
  | 0 => a
  | 1 => !a
  | 2 => a && b
  | 3 => a || b
  | 4 => a && !b
  | _ => !a && !b

/-- A guard predicate that the combine reads is poisoned in the lane. -/
def guardPois (gr : Group) (f : EForm) (l : Nat) : Bool :=
  gr.poisP f.g0.toNat l || (2 ≤ f.gc.toNat && gr.poisP f.g1.toNat l)

/-- The flag a selection names under a header (06 R125, R135). -/
def selFlag (h : HForm) (fsel : BitVec 2) : Option Nat :=
  let n := if fsel == 1 then h.setA.toNat else if fsel == 2 then h.setB.toNat else 15
  if n < 12 then some n else none

/-- The context in which the current group issues an instruction, if a run of it is in progress. -/
def issueCtx (s : State) (op : Nat) (f : EForm) : Option Ctx :=
  let gr := s.group s.cur
  match gr.run with
  | none => none
  | some r =>
    if !r.issued then none
    else
      let entry := r.lanes &&& ~~~ gr.exited
      let ls := lanesOf entry
      some {
        g := s.cur, gr := gr, r := r, op := op, f := f, sp := (opSpec op).getD {}, regs := s.regsOf gr
        pc := r.pc + BitVec.ofNat 64 (4 + 4 * r.ofs)
        nw := wordsOf (r.words.getD r.ofs 0)
        entry := entry, lanes := laneSet (guardOf gr f) ls
        flag := selFlag r.h f.fsel }

/-- The same cause on every lane of a set. -/
def onLanes (m : Lanes) (cause sub : Nat) : List LaneCause :=
  (lanesOf m).map fun l => { lane := l, cause := cause, sub := sub, addr := 0 }

/-- The lowest lane of a set, as a set (06 R162). -/
def lowest (m : Lanes) : Lanes :=
  match lanesOf m with
  | [] => 0
  | l :: _ => oneLane l

/-- Privileged opcodes that need system privilege; a TLBI of one address space asks for handler privilege alone (17 R415). -/
def needsPriv (op : Nat) : Bool := [0x372, 0x373, 0x374, 0x376, 0x27D].contains op

/-- The predicates that the guard reads in every lane of the entry (06 R126). -/
def guardUses (f : EForm) : List RegUse :=
  useP (f.g0.setWidth 8) false :: (if 2 ≤ f.gc.toNat then [useP (f.g1.setWidth 8) false] else [])
/-- The registers the instruction uses in its active lanes. -/
def allUses (c : Ctx) (sem : Meaning) (s : State) : List RegUse := regUses c.op c.f ++ sem.uses c s

/-- The lanes of a set in which a register read meets an uncorrectable error (22 R478). -/
def ueLanes (c : Ctx) (ls : Lanes) (us : List RegUse) : Lanes :=
  us.foldl (fun m u =>
    if u.wr then m
    else match u.k with
      | .s => if u.n ≠ 63 && hasLane c.gr.sUe u.n then m ||| ls else m
      | .p => m ||| (tget 0 c.gr.pUe u.n &&& ls)
      | .v => (List.range u.cnt).foldl (fun m j => m ||| (tget 0 c.gr.vUe (vNum c.regs (u.n + j)) &&& ls)) m) 0

/-- The lanes of a set that read or write a hazarded destination (06 R136, R137). -/
def hazLanes (c : Ctx) (ls : Lanes) (us : List RegUse) : Lanes :=
  us.foldl (fun m u => c.gr.haz.foldl (fun m h =>
    let hit : Bool := match u.k with
      | .s => h.isS && h.n == u.n && u.n ≠ 63
      | .p => h.isP && h.n == u.n && u.n ≠ 15
      | .v => !h.isS && !h.isP && (List.range u.cnt).any fun j => vNum c.regs (u.n + j) == h.n
    if hit then m ||| (if h.isS then ls else h.lanes &&& ls) else m) m) 0

/-- The destinations of a long-latency instruction, hazarded until a run waits on its flag (06 R136). -/
def hazOf (c : Ctx) (us : List RegUse) : List Haz :=
  match c.flag with
  | none => []
  | some k => us.flatMap fun u =>
    if !u.wr then []
    else match u.k with
      | .s => [{ isS := true, isP := false, n := u.n, lanes := 0, flag := k, hm := c.gr.hm }]
      | .p => [{ isS := false, isP := true, n := u.n, lanes := c.lanes, flag := k, hm := c.gr.hm }]
      | .v => (List.range u.cnt).map fun j =>
          { isS := false, isP := false, n := vNum c.regs (u.n + j), lanes := c.lanes, flag := k, hm := c.gr.hm }

/-- Counted instructions of a run from a word offset on: (PC, flag) (06 R135). -/
def countedFrom (pc : DWord) (h : HForm) : List Word → Nat → Nat → List (DWord × Nat)
  | _, _, 0 => []
  | [], _, _ => []
  | w :: ws, ofs, n + 1 =>
    let k := wordsOf w
    let rest := countedFrom pc h (ws.drop (k - 1)) (ofs + k) n
    match decodeWords (w :: ws) with
    | .ok (i, _) =>
      match i.parts with
      | some (op, f) =>
        match opSpec op with
        | some sp =>
          match selFlag h f.fsel with
          | some fl => if sp.flag ≠ .short then (pc + BitVec.ofNat 64 (4 + 4 * ofs), fl) :: rest else rest
          | none => rest
        | none => rest
      | none => rest
    | .error _ => rest

/-- The causes found before the instruction's own checks: the encoding and privilege, whatever the guard (06 R150), then per lane a poisoned
guard, a register with an uncorrectable error, and in checked mode a hazard; the guard's predicates are read in every lane. -/
def commonCauses (c : Ctx) (sem : Meaning) (s : State) : List LaneCause :=
  match illegalSub c.op c.f c.regs c.flag.isSome with
  | some sub => onLanes c.entry 1 sub
  | none =>
    let us := allUses c sem s
    let gp := laneSet (guardPois c.gr c.f) (lanesOf c.entry)
    let gu := guardUses c.f
    (if needsPriv c.op && !ctxPriv s (s.ctxOf c.gr) && !(c.op == 0x372 && c.gr.hm && c.f.modBits 1 0 ≤ 1) then onLanes c.entry 2 0 else []) ++
    onLanes gp 10 0 ++ onLanes (ueLanes c c.lanes us ||| ueLanes c c.entry gu) 12 0 ++
    (if recChecked (s.recOf c.gr) then onLanes (hazLanes c c.lanes us ||| hazLanes c c.entry gu) 16 0 else [])

/-- A group-level instruction's poisoned s operand traps on the lowest active lane (07 R162). -/
def groupPois (c : Ctx) (us : List RegUse) : List LaneCause :=
  if c.sp.group && us.any (fun u => u.k == .s && !u.wr && c.gr.poisS u.n) then onLanes (lowest c.lanes) 10 0 else []

/-- A cause that does not rest on the value of an operand. -/
def LaneCause.ofState (k : LaneCause) : Bool :=
  k.cause == 2 || (k.cause == 1 && [0x0F, 0x10, 0x13, 0x15, 0x16, 0x17, 0x18, 0x19, 0x1B, 0x1C].contains k.sub)

/-- The causes that the issue stage finds. A poisoned s operand of a group-level instruction has no value to check (log 4). -/
def stageCauses (c : Ctx) (sem : Meaning) (s : State) : List LaneCause :=
  commonCauses c sem s ++
  (if c.lanes == 0 && !sem.always then []
    else
      let gp := groupPois c (allUses c sem s)
      gp ++ (if gp.isEmpty then sem.check c s else sem.sure c s ++ (sem.check c s).filter LaneCause.ofState))
/-- Every cause with which the instruction traps at issue: once some lane has one, the other active lanes find theirs too (R399). -/
def issueCauses (c : Ctx) (sem : Meaning) (s : State) : List LaneCause :=
  match illegalSub c.op c.f c.regs c.flag.isSome with
  | some sub => onLanes c.entry 1 sub
  | none =>
    let cs := stageCauses c sem s
    if cs.isEmpty then [] else cs ++ sem.others c s ((lanesOf c.lanes).filter fun l => !cs.any fun k => k.lane == l)

/-- A precise trap at the instruction (17 R401): resume PCs at it, headers at the run's, and the counts that stand (R421). -/
def trapPrecise (c : Ctx) (cs : List LaneCause) (atile : Option Nat) (s : State) : State :=
  let ls := lanesOf c.entry
  takeTrap s c.g {
    lanes := c.entry, active := c.lanes, ipc := c.pc, kind := 0, causes := cs
    resume := ls.map fun l => (l, c.pc)
    hdr := ls.map fun l => (l, c.r.pc)
    efault := none, runPc := c.r.pc
    stand := countedFrom c.r.pc c.r.h (c.r.words.drop c.r.ofs) c.r.ofs c.r.left
    atile := atile }

/-- A precise trap that is an engine fault (13 R307). -/
def trapEngine (c : Ctx) (cs : List LaneCause) (e : EFault) (s : State) : State :=
  let ls := lanesOf c.entry
  takeTrap s c.g {
    lanes := c.entry, active := c.entry, ipc := c.pc, kind := 2, causes := cs
    resume := ls.map fun l => (l, c.pc)
    hdr := ls.map fun l => (l, c.r.pc)
    efault := some e, runPc := c.r.pc
    stand := countedFrom c.r.pc c.r.h (c.r.words.drop c.r.ofs) c.r.ofs c.r.left
    atile := none }

/-- The instruction waits, by its `own` rule or for something before it, and is tried again after another step; a group of a cancelled set
retires there (15 R370). -/
def stallGroup (s : State) (g : Nat) (own : Bool) : State :=
  if cancelled s (s.group g) then endGroup s g else s.modGroup g fun gr =>
    { gr with stalled := true, waitsAt := own, stoodAt := some (gr.stoodAt.getD s.now) }

/-- The group stops at the instruction, with no lane committed (18 R427): its lanes stand there at the HALT blocking point, and the
counts of the run's unissued instructions stand. -/
def stopAt (c : Ctx) (s : State) : State :=
  let s := s.modGroup c.g fun gr =>
    ({ gr.owe with
      run := none, stalled := false, waitsAt := false, stoodAt := none, stopReq := true
      stand := gr.stand ++ countedFrom c.r.pc c.r.h (c.r.words.drop c.r.ofs) c.r.ofs c.r.left }).join c.pc c.r.pc c.entry
        c.r.h.prio.toNat [.halt]
  dbgEvt s 2

/-- An atomic or a store to host memory of some of the lanes has not committed (17 R402). -/
def Group.heldBack (gr : Group) (lanes : Lanes) : Bool := gr.pend.any fun p => p.holds && (p.entry &&& lanes) ≠ 0
/-- The run passes on to its next instruction, or ends after its last: where that has yet to commit, once it has (17 R402). -/
def advance (c : Ctx) (s : State) : State :=
  let gr := s.group c.g
  match gr.run with
  | none => s
  | some r =>
    let s := evCount s 3 (some c.gr.core) 1
    let s := s.modGroup c.g fun gr => { gr with run := some { r with ofs := r.ofs + c.nw, left := r.left - 1 }, stalled := false, waitsAt := false, stoodAt := none }
    if 1 < r.left || (s.group c.g).heldBack r.lanes then s else endRun s c.g

/-- Header of the run that begins at the instruction after this one, or of this run. -/
def nextHdr (c : Ctx) : DWord :=
  if c.r.left ≤ 1 then c.pc + BitVec.ofNat 64 (4 * c.nw) else c.r.pc

/-- What an instruction leaves behind at issue beside its effect: the flag it counts on when it completes at once, its hazards,
and for a non-idempotent instruction the new region entry (17 R400, R402) and the launch-site tag (18 R426). -/
def afterAct (c : Ctx) (sem : Meaning) (s0 : State) (r : State × Bool) : State :=
  r.1.modGroup c.g fun gr =>
    if gr.ended then gr
    else
      let us := regUses c.op c.f ++ sem.uses c s0
      let gr := { gr with haz := gr.haz ++ hazOf c us }
      let gr := if r.2 then gr else gr.decFlag c.gr.hm c.flag
      let gr := if commitsAtIssue c.op then gr.enterRegion c.entry (c.pc + BitVec.ofNat 64 (4 * c.nw)) (nextHdr c) else gr
      if takesTag c.op then { gr with seq := gr.seq + 1 } else gr

/-- The path on which an instruction makes accesses at its issue, as a bit of an XFENCE's masks: an access of the LSU or the GSC path, and the records
and rows that TTASK, LEAFCFG and LEAF read and write for the matrix path (14 R343; log 102). -/
def issuePath (op : Nat) : Option Nat :=
  if onPath op then some (if isGsc op then 1 else 0) else if op == 0x261 || op == 0x268 || op == 0x269 then some 3 else none
/-- An access on a path that a pending XFENCE of its lanes names after it holds its run (14 R343). -/
def fenceHolds (c : Ctx) : Bool :=
  (issuePath c.op).any fun k => c.gr.pend.any fun q => q.op == 0x361 && (q.lanes &&& c.lanes) ≠ 0 && bitOf q.f.c.toNat k

/-- The instruction commits only once every earlier access of its lanes has completed (17 R402). -/
def commitsLate (c : Ctx) (sem : Meaning) (s : State) : Bool := nonIdempotent c.op || sem.host c s

/-- An instruction waits for an earlier access to commit, behind an XFENCE, or, being non-idempotent, for every earlier LSU and GSC access
of its lanes (17 R402). -/
def accessWait (c : Ctx) (sem : Meaning) (s : State) : Bool :=
  fenceHolds c ||
  c.gr.heldBack c.entry ||
  (commitsLate c sem s && c.gr.pend.any fun p => p.isAccess && (p.entry &&& c.entry) ≠ 0)
/-- It waits for any of these, or by its own rule. -/
def mustWait (c : Ctx) (sem : Meaning) (s : State) : Bool := accessWait c sem s || sem.stall c s

/-- A deferred fault of lanes of the run waits to be taken. -/
def rollsBack (gr : Group) (lanes : Lanes) : Bool :=
  match gr.dfault with
  | some d => (d.lanes &&& lanes) ≠ 0
  | none => false
/-- The run ends before an instruction that cannot issue, since an access before it has not completed but faulted (R402, R403):
its lanes outside the trap stand at the instruction. -/
def cutRun (s : State) (g : Nat) (pc : DWord) (lanes : Lanes) : State :=
  let gr := s.group g
  match gr.run, gr.dfault with
  | some r, some d =>
    let cnt := countedFrom r.pc r.h (r.words.drop r.ofs) r.ofs r.left
    let rest := lanes &&& ~~~ d.lanes
    let gr := { gr.owe with run := none, stalled := false, waitsAt := false, stoodAt := none }
    s.setGroup g (if rest == 0 then { gr with dfault := some { d with runPc := r.pc, stand := cnt } }
      else ({ gr with stand := gr.stand ++ cnt }).join pc r.pc rest r.h.prio.toNat [])
  | _, _ => s

/-- ATILE of a trap whose cause is ACC_FIRST_USE, which carries the tile in place of an address (17 R407). -/
def atileOf (cs : List LaneCause) : Option Nat :=
  match minBy (fun (a b : LaneCause) => a.cause < b.cause) cs with
  | some k => if k.cause == 15 then some k.addr else none
  | none => none

/-- THE ISSUE OF AN INSTRUCTION: causes found at issue are taken as a precise trap once the lanes' pending register destinations
are complete (17 R405); an instruction with no active lane completes at once; otherwise it waits or has its effect. -/
def issue (op : Nat) (f : EForm) (sem : Meaning) (s : State) : Host.Outcome State Fault Refusal :=
  match issueCtx s op f with
  | none => .fault .noRun
  | some c =>
    let cs := issueCauses c sem s
    if !cs.isEmpty then
      if rollsBack c.gr c.entry then .next (cutRun s c.g c.pc c.entry)
      else if c.gr.regPending c.entry then .next (stallGroup s c.g false)
      else match (if (commonCauses c sem s).isEmpty then sem.engine c s else none) with
      | some (e, s) => .next (trapEngine c cs e s)
      | none => .next (trapPrecise c cs (atileOf cs) (if cs.any (fun k => k.cause == 6) then sem.notes c s else s))
    else if c.lanes == 0 && !sem.always then
      .next (advance c (s.modGroup c.g fun gr => gr.decFlag c.gr.hm c.flag))
    else if rollsBack c.gr c.entry && commitsLate c sem s then .next (cutRun s c.g c.pc c.entry)
    else if sem.halts c s then .next (stopAt c (sem.notes c s))
    else if mustWait c sem s then
      let own := sem.stall c s && !accessWait c sem s
      .next (stallGroup (if own then sem.onStall c s else s) c.g own)
    else .next (advance c (afterAct c sem s (sem.act c s)))

/-- The issue of a B-form: exactly its E-form (06 R129). -/
def issueB (op : Nat) (f : BForm) (sem : Meaning) (s : State) : Host.Outcome State Fault Refusal := issue op (bToE op f) sem s

/-- An effect on the group alone, complete at issue. -/
def onGroup (f : Ctx → State → Group) : Ctx → State → State × Bool := fun c s => (s.setGroup c.g (f c s), false)

/-- A new pending instruction of the current issue, with nothing outstanding. -/
def newPend (c : Ctx) (id : Nat) (s : State) : Pend :=
  { id := id, op := c.op, f := c.f, pc := c.pc, seq := c.gr.seq, lanes := c.lanes, entry := c.entry, flag := c.flag, hm := c.gr.hm,
    asid := c.gr.dasid, addrs := [], vals := [], vals2 := [], left := 0, sent := false, ready := false, after := [],
    afterSent := [], pieces := [], res := [], aux := 0, since := s.now, bad := [], holds := false,
    nextPc := c.pc + BitVec.ofNat 64 (4 * c.nw), nextHdr := nextHdr c, drain := none, frame := none }

/-- A pending instruction whose result is fixed: its registers are written when INSTR_COMPLETE comes. -/
def pendReady (c : Ctx) (s : State) (res : List RegWrite) : State × Bool :=
  let (id, s) := s.fresh
  ((addPend s c.g { newPend c id s with ready := true, res := res }).wire (.instrComplete c.g id), true)

/-- Writes the registers of a result list. -/
def applyRes (gr : Group) (res : List RegWrite) : Group :=
  res.foldl (fun (gr : Group) w =>
    if w.isS then gr.wrS w.n w.val w.poison
    else if w.lane < gr.w then gr.wrV w.n w.lane (w.val.setWidth 32) w.poison else gr) gr
/-- Writes an instruction's results, but for lanes of its entry that have retired or exited since its issue, which keep what they held then (06 R139,
11 R256). -/
def Pend.put (p : Pend) (gr : Group) (res : List RegWrite) : Group :=
  applyRes gr (res.filter fun w => w.isS || (hasLane p.entry w.lane && !hasLane gr.exited w.lane))

end Sys2Proof.Machine
end

