-- ==== Sys2Proof/Machine/Operands.lean ====
section
/-!
DEFINITION. Operand forms of classes 00 and 01 and of the cross-lane instructions: registers, pairs, immediates and literals (06
R113, R116, R117, R127, R149; 09 R207, R208), packed elements (08 R185), the poison of a result (09 R210), and the writing of a
destination in either half (R209).
-/

namespace Sys2Proof.Machine

open Sys2Proof

/-- Width of an element in the integer domain (09 R207). -/
def intWidth (ty : Nat) : Nat :=
  match ty with
  | 6 | 7 => 16
  | 8 | 9 => 8
  | 10 | 11 => 4
  | 12 | 13 => 64
  | _ => 32
/-- The TYPE is a two's-complement format. -/
def intSigned (ty : Nat) : Bool := !(ty == 7 || ty == 9 || ty == 11 || ty == 13 || ty == 14)

/-- Bits of an operand register in a lane: an s register whole, a v register, or the pair of R113. -/
def regBits (gr : Group) (regs : Nat) (isS : Bool) (n : Nat) (wide : Bool) (l : Nat) : Nat :=
  if isS then (gr.getS n).toNat
  else if wide then (gr.getV (vNum regs n) l).toNat + 2 ^ 32 * (gr.getV (vNum regs (n + 1)) l).toNat
  else (gr.getV (vNum regs n) l).toNat

/-- Operand A. -/
def opA (c : Ctx) (wide : Bool) (l : Nat) : Nat := regBits c.gr c.regs c.f.sa c.f.a.toNat wide l
/-- Operand B: the literal where the opcode's literal replaces B (R127), else a register. -/
def opB (c : Ctx) (wide : Bool) (l : Nat) : Nat :=
  match c.sp.lit, c.f.lit with
  | .b, some x => x.toNat
  | _, _ => regBits c.gr c.regs c.f.sb c.f.b.toNat wide l
/-- Operand C, likewise. -/
def opC (c : Ctx) (wide : Bool) (l : Nat) : Nat :=
  match c.sp.lit, c.f.lit with
  | .c, some x => x.toNat
  | _, _ => regBits c.gr c.regs c.f.sc c.f.c.toNat wide l
/-- Operand E as a register; MOD[3] is its S bit in CAS (07 R177). -/
def opE (c : Ctx) (wide : Bool) (l : Nat) : Nat := regBits c.gr c.regs (c.f.modBit 3) c.f.e.toNat wide l

/-- An 8-bit immediate, sign-extended to 64 bits (R149). -/
def immS (x : BitVec 8) : Nat := (x.signExtend 64).toNat

/-- One register use is poisoned in a lane (R114). -/
def RegUse.pois (c : Ctx) (l : Nat) (u : RegUse) : Bool :=
  match u.k with
  | .s => c.gr.poisS u.n
  | .p => c.gr.poisP u.n l
  | .v => (List.range u.cnt).any fun j => c.gr.poisV (vNum c.regs (u.n + j)) l

/-- R210: some register operand the instruction names is poisoned in the lane. -/
def resPois (c : Ctx) (l : Nat) : Bool := (regUses c.op c.f).any fun u => !u.wr && u.pois c l

/-- Element i of width w (R185). -/
def elemAt (w x i : Nat) : Nat := x / 2 ^ (w * i) % 2 ^ w
/-- Elements of width w packed from element 0 up. -/
def packElems (w : Nat) : List Nat → Nat
  | [] => 0
  | e :: r => e % 2 ^ w + 2 ^ w * packElems w r
/-- Elements per register: one for a scalar or an element of at least 32 bits. -/
def elemCount (sd : Bool) (w : Nat) : Nat := if sd || 32 ≤ w then 1 else 32 / w

/-- A scalar result of w bits extended to 64 (R185). -/
def extendTo64 (sg : Bool) (w x : Nat) : Nat := if sg then wrap 64 (signed w x) else x % 2 ^ w

/-- Writes v[n] of a lane, or its pair. -/
def wrVec (gr : Group) (regs n : Nat) (wide : Bool) (l x : Nat) (pois : Bool) : Group :=
  let g1 := gr.wrV (vNum regs n) l (BitVec.ofNat 32 x) pois
  if wide then g1.wrV (vNum regs (n + 1)) l (BitVec.ofNat 32 (x / 2 ^ 32)) pois else g1

/-- Writes D: one s register with SD set, taken from the lowest active lane's value, else v[D] of every active lane (R209). -/
def wrDest (c : Ctx) (sd wide : Bool) (val : Nat → Nat) (pois : Nat → Bool) (gr : Group) : Group :=
  if sd then
    let l := (lanesOf c.lanes).headD 0
    gr.wrS c.f.d.toNat (BitVec.ofNat 64 (val l)) (pois l)
  else (lanesOf c.lanes).foldl (fun gr l => wrVec gr c.regs c.f.d.toNat wide l (val l) (pois l)) gr

/-- Writes a predicate of every active lane. -/
def wrPred (c : Ctx) (n : Nat) (val pois : Nat → Bool) (gr : Group) : Group :=
  (lanesOf c.lanes).foldl (fun gr l => gr.wrP n l (val l) (pois l)) gr

/-- The result of an element-wise instruction in one lane, packed in a vector and extended in a scalar. -/
def elemResult (sd sg : Bool) (w : Nat) (f : Nat → Nat) : Nat :=
  if sd then extendTo64 sg w (f 0 % 2 ^ w) else packElems w ((List.range (elemCount sd w)).map f)

end Sys2Proof.Machine
end

