-- ==== Sys2Proof/Machine/Flags.lean ====
section
/-!
DEFINITION. The truth values the instructions compute: integer comparisons (09 R222), their combining with a predicate, the truth
table of PLOP (R223), and the clamp of a saturating result (08 R200).
-/

namespace Sys2Proof.Machine

open Sys2Proof

/-- Relation cc over an ordering of the operands: less and equal (R222). -/
def ccHolds (cc : Nat) (lt eq : Bool) : Bool :=
  match cc with
  | 0 => eq
  | 1 => !eq
  | 2 => lt
  | 3 => lt || eq
  | 4 => !lt && !eq
  | _ => !lt

/-- A value of w bits read by its signedness (08 R189). -/
def valOf (sg : Bool) (w x : Nat) : Int := if sg then signed w x else ((x % 2 ^ w : Nat) : Int)

/-- An integer comparison. -/
def icmpHolds (cc : Nat) (sg : Bool) (w a b : Nat) : Bool :=
  ccHolds cc (valOf sg w a < valOf sg w b) (valOf sg w a == valOf sg w b)

/-- The two predicates a compare writes, by its combining mode (R222). -/
def combine (mode : Nat) (t pc : Bool) : Bool × Bool :=
  match mode with
  | 0 => (t, !t)
  | 1 => (pc && t, pc && !t)
  | _ => (pc || t, pc || !t)

/-- Entry 4a + 2b + c of a truth table (R223). -/
def plopHolds (tt : Nat) (a b c : Bool) : Bool :=
  bitOf tt ((if a then 4 else 0) + (if b then 2 else 0) + (if c then 1 else 0))

/-- Smallest and largest value of a format. -/
def minOf (sg : Bool) (w : Nat) : Int := if sg then -(2 ^ (w - 1) : Int) else 0
def maxOf (sg : Bool) (w : Nat) : Int := if sg then 2 ^ (w - 1) - 1 else 2 ^ w - 1
/-- The value clamped to a format's range (R200). -/
def clampTo (sg : Bool) (w : Nat) (x : Int) : Int := max (minOf sg w) (min (maxOf sg w) x)

/-- An exact integer result, clamped or wrapped (R213). -/
def narrow (sat sg : Bool) (w : Nat) (x : Int) : Nat := wrap w (if sat then clampTo sg w x else x)

end Sys2Proof.Machine
end

