-- ==== Sys2Proof/Machine/Float.lean ====
section
/-!
DEFINITION. Number formats and arithmetic rules (08): the binary float formats, exact values, RoundFloat, overflow, NaNs, and the
exact sum of terms that every float result rounds once.
-/

namespace Sys2Proof.Machine

open Sys2Proof

/-- A binary float format (R186): exponent and mantissa widths, bias, the largest finite magnitude, and whether it has infinities
and NaNs. -/
structure Fmt where
  ew : Nat
  mw : Nat
  bias : Nat
  top : Nat
  hasInf : Bool
  hasNan : Bool
  deriving DecidableEq, Repr

/-- The float format of a TYPE code (R184, R186). -/
def fmtOf (code : Nat) : Fmt :=
  match code with
  | 1 => ⟨5, 10, 15, 0x7BFF, true, true⟩
  | 2 => ⟨8, 7, 127, 0x7F7F, true, true⟩
  | 3 => ⟨4, 3, 7, 0x7E, false, true⟩
  | 4 => ⟨5, 2, 15, 0x7B, true, true⟩
  | 5 => ⟨2, 1, 1, 7, false, false⟩
  | _ => ⟨8, 23, 127, 0x7F7FFFFF, true, true⟩
/-- FP32. -/
def fp32 : Fmt := fmtOf 0
/-- Width of a format. -/
def Fmt.width (F : Fmt) : Nat := 1 + F.ew + F.mw
/-- Exponent of the smallest normal value. -/
def Fmt.emin (F : Fmt) : Int := 1 - (F.bias : Int)
/-- Magnitude bits of infinity, where there is one. -/
def Fmt.infMag (F : Fmt) : Nat := (2 ^ F.ew - 1) * 2 ^ F.mw
/-- Sign bit of an element. -/
def Fmt.sign (F : Fmt) (x : Nat) : Bool := bitOf x (F.width - 1)
/-- The element without its sign. -/
def Fmt.mag (F : Fmt) (x : Nat) : Nat := x % 2 ^ (F.width - 1)
/-- The encoding is a NaN: past infinity, or in E4M3 past the largest value. -/
def Fmt.isNan (F : Fmt) (x : Nat) : Bool := F.hasNan && (if F.hasInf then F.infMag else F.top) < F.mag x
/-- The encoding is an infinity. -/
def Fmt.isInf (F : Fmt) (x : Nat) : Bool := F.hasInf && F.mag x == F.infMag
/-- An element from its sign and magnitude bits. -/
def Fmt.pack (F : Fmt) (neg : Bool) (mag : Nat) : Nat := mag + if neg then 2 ^ (F.width - 1) else 0

/-- An exact value: m times 2^e. -/
structure Dy where
  m : Int
  e : Int
  deriving DecidableEq, Repr

/-- A non-NaN operand: a signed zero, an exact value, or an infinity. -/
inductive FV where
  | zero (neg : Bool)
  | fin (x : Dy)
  | inf (neg : Bool)
  deriving DecidableEq, Repr

/-- The value of an encoding that is no NaN (R186). -/
def Fmt.val (F : Fmt) (x : Nat) : FV :=
  let s := F.sign x
  let mg := F.mag x
  if F.isInf x then .inf s
  else if mg == 0 then .zero s
  else
    let ef := mg / 2 ^ F.mw
    let m : Nat := if ef == 0 then mg else 2 ^ F.mw + mg % 2 ^ F.mw
    .fin { m := if s then -(m : Int) else m, e := (if ef == 0 then 1 else (ef : Int)) - F.bias - F.mw }

/-- 2^k for an exponent that is not negative, else 1. -/
def pow2 (k : Int) : Int := 2 ^ k.toNat
/-- The sum of two exact values. -/
def Dy.add (a b : Dy) : Dy := let e := min a.e b.e; { m := a.m * pow2 (a.e - e) + b.m * pow2 (b.e - e), e := e }
/-- The product of two exact values. -/
def Dy.mul (a b : Dy) : Dy := { m := a.m * b.m, e := a.e + b.e }
def Dy.neg (a : Dy) : Dy := { a with m := -a.m }
/-- Floor(Log2(Abs(x))) of a non-zero value. -/
def Dy.log (x : Dy) : Int := (x.m.natAbs.log2 : Int) + x.e
/-- Floor of an exact value. -/
def Dy.floor (x : Dy) : Int := if 0 ≤ x.e then x.m * pow2 x.e else x.m / pow2 (-x.e)
/-- a < b. -/
def Dy.lt (a b : Dy) : Bool := (a.add b.neg).m < 0
/-- An integer as an exact value. -/
def Dy.ofInt (x : Int) : Dy := { m := x, e := 0 }

/-- A value with its sign inverted. -/
def FV.neg : FV → FV
  | .zero s => .zero !s
  | .fin x => .fin x.neg
  | .inf s => .inf !s
/-- The sign of a value. -/
def FV.isNeg : FV → Bool
  | .zero s => s
  | .fin x => x.m < 0
  | .inf s => s

/-- Rounding modes of RND (06 R125), RS with its field width k and random bits. -/
inductive Rnd where
  | rn | rz | ru | rd
  | rs (k rb : Nat)
  deriving DecidableEq, Repr
/-- The mode a RND field names. -/
def rndOf (x : Nat) : Rnd := match x with
  | 0 => .rn
  | 1 => .rz
  | 2 => .ru
  | _ => .rd

/-- Whether the magnitude q + rem / 2^sh rounds up (R190). -/
def roundsUp (md : Rnd) (neg : Bool) (q rem sh : Nat) : Bool :=
  match md with
  | .rn => 2 ^ sh < 2 * rem || (2 * rem == 2 ^ sh && q % 2 == 1)
  | .rz => false
  | .ru => rem ≠ 0 && !neg
  | .rd => rem ≠ 0 && neg
  | .rs k rb => 2 ^ k ≤ rem * 2 ^ k / 2 ^ sh + rb

/-- What a magnitude past the largest finite value becomes (R193). -/
def overflow (F : Fmt) (md : Rnd) (sat neg : Bool) : Nat :=
  if sat || md == .rz || (md == .rd && !neg) || (md == .ru && neg) || !F.hasNan then F.pack neg F.top
  else if F.hasInf then F.pack neg F.infMag
  else 0x7F

/-- RoundFloat of a non-zero exact value (R190). -/
def roundFloat (F : Fmt) (md : Rnd) (sat : Bool) (x : Dy) : Nat :=
  let neg : Bool := x.m < 0
  let e := max x.log F.emin
  let sh := e - F.mw - x.e
  let a := x.m.natAbs
  let q := if 0 ≤ sh then a / 2 ^ sh.toNat else a * 2 ^ (-sh).toNat
  let up : Bool := if 0 ≤ sh then roundsUp md neg q (a % 2 ^ sh.toNat) sh.toNat else false
  let mag := (e - F.emin).toNat * 2 ^ F.mw + q + (if up then 1 else 0)
  if F.top < mag then overflow F md sat neg else F.pack neg mag

/-- A value written to a format: zeros keep their sign, and an infinity stays infinite or, in a format without infinities, follows
R193. -/
def FV.encode (F : Fmt) (md : Rnd) (sat : Bool) : FV → Nat
  | .zero s => F.pack s 0
  | .fin x => if x.m == 0 then 0 else roundFloat F md sat x
  | .inf s => if F.hasInf then F.pack s F.infMag else if !F.hasNan || sat then F.pack s F.top else 0x7F

/-- Mantissa bits kept by a NaN's conversion are below the quiet bit (R197). -/
def nanTo (src dst : Fmt) (x : Nat) : Nat :=
  if !dst.hasNan then 0
  else if dst.width == 8 then (if dst.mw == 3 then 0x7F else 0x7E)
  else
    let pay := if src.width == 8 then 0 else x % 2 ^ (src.mw - 1)
    let pay' := if src.mw ≤ dst.mw then pay * 2 ^ (dst.mw - src.mw) else pay / 2 ^ (src.mw - dst.mw)
    dst.pack (src.sign x) (dst.infMag + 2 ^ (dst.mw - 1) + pay')

/-- The quiet form of a NaN: the top mantissa bit set (R187). -/
def quiet (F : Fmt) (x : Nat) : Nat := x ||| 2 ^ (F.mw - 1)

/-- H of R196. -/
def pcHash (pc : Nat) : Nat := bits pc 17 2 ^^^ bits pc 33 18
/-- The NaN an invalid operation creates (R196). -/
def createdNan (F : Fmt) (lane pc : Nat) : Nat :=
  match F.mw with
  | 23 => 0x7FC00000 + (lane % 64) * 2 ^ 16 + pcHash pc
  | 10 => 0x7E00 + (lane % 64) * 8 + pcHash pc / 2 ^ 13
  | 7 => 0x7FC0 + lane % 64
  | 3 => 0x7F
  | _ => 0x7E

/-- The exact product of two values, if valid. -/
def FV.mul (a b : FV) : Option FV :=
  let s := a.isNeg != b.isNeg
  match a, b with
  | .inf _, .zero _ => none
  | .zero _, .inf _ => none
  | .inf _, _ => some (.inf s)
  | _, .inf _ => some (.inf s)
  | .fin x, .fin y => some (.fin (x.mul y))
  | _, _ => some (.zero s)

/-- The exact sum of terms, if valid, with the sign of an exact zero by R191. -/
def sumTerms (md : Rnd) (ts : List FV) : Option FV :=
  let pinf := ts.any fun t => t == .inf false
  let ninf := ts.any fun t => t == .inf true
  if pinf && ninf then none
  else if pinf || ninf then some (.inf ninf)
  else
    let x := ts.foldl (fun a t => match t with
      | .fin x => a.add x
      | _ => a) (Dy.ofInt 0)
    if x.m ≠ 0 then some (.fin x)
    else if ts.all fun t => t == .zero true then some (.zero true)
    else if ts.all fun t => t == .zero false then some (.zero false)
    else some (.zero (md == .rd))

/-- The first NaN of a list of elements. -/
def firstNan (F : Fmt) (xs : List Nat) : Option Nat := xs.find? F.isNan

/-- The products of pairs, if all are valid. -/
def products : List (FV × FV) → Option (List FV)
  | [] => some []
  | (a, b) :: r => match a.mul b, products r with
    | some p, some ps => some (p :: ps)
    | _, _ => none

/-- One rounded float result: the first NaN made quiet, else the sum of products and addends rounded once, else a created NaN (R198,
R199, R231, R235). Operands have format G, the addend and the result format F. -/
def sumResult (G F : Fmt) (md : Rnd) (sat : Bool) (lane pc : Nat) (nans : List Nat) (prods : List (Nat × Nat)) (adds : List Nat)
    (neg : Bool) : Nat :=
  match firstNan G nans with
  | some x => if G == F then quiet F x else nanTo G F (quiet G x)
  | none =>
    match firstNan F adds with
    | some x => quiet F x
    | none =>
      let av := adds.map F.val
      let av := if neg then (match av with
        | a :: b :: r => a :: b.neg :: r
        | v => v) else av
      match products (prods.map fun p => (G.val p.1, G.val p.2)) with
      | none => createdNan F lane pc
      | some ps => match sumTerms md (ps ++ av) with
        | none => createdNan F lane pc
        | some v => v.encode F md sat

/-- FFMA.RN of FP32 with SAT 0 (R231), as table and special-function evaluation use it. -/
def ffmaRn (lane pc a b k : Nat) : Nat := sumResult fp32 fp32 .rn false lane pc [a, b] [(a, b)] [k] false

/-- Sign-magnitude order of elements that are no NaNs, −0 below +0 (R231). -/
def magKey (F : Fmt) (x : Nat) : Int := if F.sign x then -(F.mag x : Int) - 1 else F.mag x
/-- Numeric order: both zeros equal (R233). -/
def numKey (F : Fmt) (x : Nat) : Int := if F.sign x then -(F.mag x : Int) else F.mag x

/-- Rounding of a value to an integer by a mode (08 R194, 10 R234): the magnitude and whether it is negative. -/
def roundInt (md : Rnd) (x : Dy) : Int :=
  let neg : Bool := x.m < 0
  let a := x.m.natAbs
  if 0 ≤ x.e then x.m * pow2 x.e
  else
    let sh := (-x.e).toNat
    let q := a / 2 ^ sh
    let r : Nat := if roundsUp md neg q (a % 2 ^ sh) sh then q + 1 else q
    if neg then -(r : Int) else r

/-- FRND of one element (10 R234). -/
def frnd (F : Fmt) (md : Rnd) (x : Nat) : Nat :=
  if F.isNan x then quiet F x
  else match F.val x with
  | .fin v =>
    let r := roundInt md v
    if r == 0 then F.pack (F.sign x) 0 else roundFloat F .rn false (Dy.ofInt r)
  | _ => x

/-- The TYPE code is a float format. -/
def isFloat (code : Nat) : Bool := code < 6
/-- Width of any format code, with 0000 FP32 and 1111 INT32 (10 R236). -/
def codeWidth (code : Nat) : Nat := if isFloat code then (fmtOf code).width else intWidth code

/-- Convert(x, destination, RND, SAT) from a source code (08 R193 to R197, 10 R237). -/
def convert (src dst : Nat) (md : Rnd) (sat : Bool) (x : Nat) : Nat :=
  match isFloat src, isFloat dst with
  | true, true =>
    let S := fmtOf src
    let D := fmtOf dst
    if S.isNan x then (if src == dst then quiet D x else nanTo S D (quiet S x))
    else if src == dst then x
    else (S.val x).encode D md sat
  | true, false =>
    let S := fmtOf src
    let w := intWidth dst
    let sg := intSigned dst
    if S.isNan x then 0
    else match S.val x with
      | .zero _ => 0
      | .inf s => wrap w (if s then minOf sg w else maxOf sg w)
      | .fin v => wrap w (clampTo sg w (roundInt md v))
  | false, true =>
    let v := valOf (intSigned src) (intWidth src) x
    if v == 0 then 0 else roundFloat (fmtOf dst) md sat (Dy.ofInt v)
  | false, false =>
    let w := intWidth dst
    let v := valOf (intSigned src) (intWidth src) x
    wrap w (if sat then clampTo (intSigned dst) w v else v)

/-- Relation cc of FCMP (10 R233). -/
def fcmpHolds (F : Fmt) (cc a b : Nat) : Bool :=
  let nan := F.isNan a || F.isNan b
  if cc == 6 then nan
  else if nan then cc == 1
  else ccHolds cc (numKey F a < numKey F b) (numKey F a == numKey F b)

end Sys2Proof.Machine
end

