-- ==== Sys2Proof/Machine/Integer.lean ====
section
/-!
DEFINITION. Class 00: the integer, logic, move, address and predicate instructions (09 R207 to R225). Every one is short-latency and
complete at issue.
-/

namespace Sys2Proof.Machine

open Sys2Proof

/-- An effect on the group alone, from a register update. -/
def regAct (f : Ctx → Group → Group) : Meaning := { act := onGroup fun c s => f c (s.group c.g) }

/-- An element-wise integer instruction over operands A, B and C (R207, R208): `f sg w a b c` gives an element's w result bits. -/
def elemSem (bImm : Option Bool) (f : Ctx → Bool → Nat → Nat → Nat → Nat → Nat) : Meaning :=
  regAct fun c =>
    let ty := c.f.type.toNat
    let w := intWidth ty
    let sg := intSigned ty
    let sd := c.f.modBit 5
    let wide := w == 64
    let val (l : Nat) : Nat :=
      let a := opA c wide l
      let b (i : Nat) : Nat := match bImm with
        | none => elemAt w (opB c wide l) i
        | some true => immS c.f.b % 2 ^ w
        | some false => c.f.b.toNat % 2 ^ w
      let x := opC c wide l
      elemResult sd sg w fun i => f c sg w (elemAt w a i) (b i) (elemAt w x i)
    wrDest c sd wide val (resPois c)

/-- Arithmetic on exact integers (R213). -/
def arith (x : Int → Int → Int → Int) (c : Ctx) (sg : Bool) (w a b k : Nat) : Nat :=
  narrow c.f.sat sg w (x (valOf sg w a) (valOf sg w b) (valOf sg w k))

/-- Shifts of R201 by amount n: packed elements take the low 8 bits of theirs. -/
def shiftAmount (c : Ctx) (w n : Nat) : Nat := if !c.f.modBit 5 && w < 32 then n % 256 else n
def shl (w a n : Nat) : Nat := if w ≤ n then 0 else a * 2 ^ n % 2 ^ w
def shr (w a n : Nat) : Nat := if w ≤ n then 0 else a / 2 ^ n
def sar (w a n : Nat) : Nat := wrap w (signed w a / ((2 ^ min n w : Nat) : Int))
/-- Rotation left by n modulo w (R215). -/
def rotl (w a n : Nat) : Nat := let k := n % w; (a * 2 ^ k % 2 ^ w) + a / 2 ^ (w - k)

def iaddSem : Meaning := elemSem none (arith fun a b _ => a + b)
def iaddImmSem : Meaning := elemSem (some true) (arith fun a b _ => a + b)
def isubSem : Meaning := elemSem none (arith fun a b _ => a - b)
def imulSem : Meaning := elemSem none (arith fun a b _ => a * b)
def imulhSem : Meaning := elemSem none fun _ sg w a b _ => wrap w ((valOf sg w a * valOf sg w b) / ((2 ^ w : Nat) : Int))
def imadSem : Meaning := elemSem none (arith fun a b k => a * b + k)
def iminSem : Meaning := elemSem none (arith fun a b _ => min a b)
def imaxSem : Meaning := elemSem none (arith fun a b _ => max a b)
def iabsSem : Meaning := elemSem none fun c sg w a _ _ => narrow c.f.sat sg w (((signed w a).natAbs : Nat) : Int)
def andSem : Meaning := elemSem none fun _ _ _ a b _ => a &&& b
def andImmSem : Meaning := elemSem (some false) fun _ _ _ a b _ => a &&& b
def orSem : Meaning := elemSem none fun _ _ _ a b _ => a ||| b
def xorSem : Meaning := elemSem none fun _ _ _ a b _ => a ^^^ b
def andnSem : Meaning := elemSem none fun _ _ w a b _ => a &&& (2 ^ w - 1 - b)
def notSem : Meaning := elemSem none fun _ _ w a _ _ => 2 ^ w - 1 - a
def shlSem : Meaning := elemSem none fun c _ w a b _ => shl w a (shiftAmount c w b)
def shlImmSem : Meaning := elemSem (some false) fun c _ w a b _ => shl w a (shiftAmount c w b)
def shrSem : Meaning := elemSem none fun c _ w a b _ => shr w a (shiftAmount c w b)
def shrImmSem : Meaning := elemSem (some false) fun c _ w a b _ => shr w a (shiftAmount c w b)
def sarSem : Meaning := elemSem none fun c _ w a b _ => sar w a (shiftAmount c w b)
def sarImmSem : Meaning := elemSem (some false) fun c _ w a b _ => sar w a (shiftAmount c w b)
def rotSem : Meaning := elemSem none fun c _ w a b _ =>
  let n := shiftAmount c w b % w
  if c.f.modBit 0 then rotl w a (w - n) else rotl w a n
def movSem : Meaning := elemSem none fun _ _ _ a _ _ => a

/-- LI: the immediate or the literal (R208, R219). -/
def liSem : Meaning := regAct fun c =>
  let ty := c.f.type.toNat
  let w := intWidth ty
  let sd := c.f.modBit 5
  let val (_ : Nat) : Nat := elemResult sd (intSigned ty) w fun i => match c.f.lit with
    | some x => elemAt w x.toNat i
    | none => immS c.f.b % 2 ^ w
  wrDest c sd (w == 64) val fun _ => false

/-- LEA (R220). -/
def leaSem : Meaning := regAct fun c =>
  let ty := c.f.type.toNat
  let sd := c.f.modBit 5
  let disp : Int := match c.f.lit with
    | some x => x.toInt
    | none => signed 16 (c.f.e.toNat * 256 + c.f.c.toNat)
  let val (l : Nat) : Nat :=
    let b := regBits c.gr c.regs c.f.sb c.f.b.toNat (is64 ty) l
    let ext : Int := if is64 ty then (b : Int) else if ty == 14 then ((b % 2 ^ 32 : Nat) : Int) else signed 32 b
    wrap 64 ((opA c true l : Int) + ext * ((2 ^ c.f.modBits 1 0 : Nat) : Int) + disp)
  wrDest c sd true val (resPois c)

/-- Bits of the position and length operand (R217). -/
def bfPos (x : Nat) : Nat := x % 256
def bfLen (x : Nat) : Nat := x / 256 % 256
/-- BFE (R217). -/
def bfe (sg : Bool) (w a b : Nat) : Nat :=
  let pos := bfPos b
  let len := bfLen b
  if len == 0 || w ≤ pos then 0
  else
    let top := min (pos + len) w
    let f := bits a (top - 1) pos
    if sg then wrap w (signed (top - pos) f) else f
def bfeSem : Meaning := elemSem none fun _ sg w a b _ => bfe sg w a b
/-- BFI (R217). -/
def bfi (w a b k : Nat) : Nat :=
  let pos := bfPos k
  (List.range (min (bfLen k) (w - min pos w))).foldl (fun r j =>
    let bit := if bitOf b j then 1 else 0
    setBits r (pos + j) (pos + j) bit) a
def bfiSem : Meaning := elemSem none fun _ _ w a b k => bfi w a b k
/-- Number of 1 bits, leading zeros, and bit reversal of w bits (R218). -/
def popc (w a : Nat) : Nat := ((List.range w).filter (bitOf a)).length
def clz (w a : Nat) : Nat := match ((List.range w).filter (bitOf a)).getLast? with
  | some i => w - 1 - i
  | none => w
def brev (w a : Nat) : Nat := (List.range w).foldl (fun r j => if bitOf a j then r + 2 ^ (w - 1 - j) else r) 0
def popcSem : Meaning := elemSem none fun _ _ w a _ _ => popc w a
def clzSem : Meaning := elemSem none fun _ _ w a _ _ => clz w a
def brevSem : Meaning := elemSem none fun _ _ w a _ _ => brev w a

/-- SEL (R221). -/
def selSem : Meaning := regAct fun c =>
  let ty := c.f.type.toNat
  let w := intWidth ty
  let sd := c.f.modBit 5
  let wide := w == 64
  let cond (l : Nat) : Bool := if c.f.sc then (c.gr.getS c.f.c.toNat) ≠ 0 else c.gr.getP c.f.c.toNat l
  let condPois (l : Nat) : Bool := if c.f.sc then c.gr.poisS c.f.c.toNat else c.gr.poisP c.f.c.toNat l
  let pick (l : Nat) : Nat := if cond l then opA c wide l else opB c wide l
  let val (l : Nat) : Nat := elemResult sd (intSigned ty) w fun i => elemAt w (pick l) i
  let pois (l : Nat) : Bool :=
    condPois l ||
      if cond l then (useOf .r c.f.a c.f.sa (if wide then 2 else 1) false).any (RegUse.pois c l)
      else c.f.lit.isNone && (useOf .r c.f.b c.f.sb (if wide then 2 else 1) false).any (RegUse.pois c l)
  wrDest c sd wide val pois

/-- The compare instructions' predicate writes (R222): `holds` gives the comparison of a lane. -/
def cmpSem (holds : Ctx → Nat → Bool) : Meaning := regAct fun c gr =>
  let mode := c.f.modBits 4 3
  let res (l : Nat) : Bool × Bool := combine mode (holds c l) (c.gr.getP c.f.c.toNat l)
  let pois (l : Nat) : Bool :=
    (regUses c.op c.f).any fun u => !u.wr && u.pois c l
  wrPred c c.f.e.toNat (fun l => (res l).2) pois (wrPred c c.f.d.toNat (fun l => (res l).1) pois gr)

def icmpSem : Meaning := cmpSem fun c l =>
  let ty := c.f.type.toNat
  let w := intWidth ty
  icmpHolds (c.f.modBits 2 0) (intSigned ty) w (opA c (w == 64) l) (opB c (w == 64) l)

/-- PLOP (R223). -/
def plopSem : Meaning := regAct fun c =>
  wrPred c c.f.d.toNat
    (fun l => plopHolds c.f.e.toNat (c.gr.getP c.f.a.toNat l) (c.gr.getP c.f.b.toNat l) (c.gr.getP c.f.c.toNat l)) (resPois c)

/-- BRMH: every operand and the result unsigned (R225). -/
def brmh (w k a b m : Nat) : Nat := wrap w ((a : Int) - ((a * b / 2 ^ (w + k) * m : Nat) : Int))
def brmhSem : Meaning := regAct fun c =>
  let w := intWidth c.f.type.toNat
  let wide := w == 64
  let val (l : Nat) : Nat := brmh w (c.f.modBits 4 0) (opA c wide l % 2 ^ w) (opB c wide l % 2 ^ w) (opC c wide l % 2 ^ w)
  wrDest c (c.f.modBit 5) wide val (resPois c)

/-! ### The instructions -/

/-- IADD_B (R213). -/
def execIaddB (f : BForm) (s : State) : Host.Outcome State Fault Refusal := issueB 0x000 f iaddSem s
/-- IADD_E (R213). -/
def execIaddE (f : EForm) (s : State) : Host.Outcome State Fault Refusal := issue 0x000 f iaddSem s
/-- ISUB_B (R213). -/
def execIsubB (f : BForm) (s : State) : Host.Outcome State Fault Refusal := issueB 0x001 f isubSem s
/-- ISUB_E (R213). -/
def execIsubE (f : EForm) (s : State) : Host.Outcome State Fault Refusal := issue 0x001 f isubSem s
/-- IMUL_B (R213). -/
def execImulB (f : BForm) (s : State) : Host.Outcome State Fault Refusal := issueB 0x002 f imulSem s
/-- IMUL_E (R213). -/
def execImulE (f : EForm) (s : State) : Host.Outcome State Fault Refusal := issue 0x002 f imulSem s
/-- IMULH_B (R213). -/
def execImulhB (f : BForm) (s : State) : Host.Outcome State Fault Refusal := issueB 0x003 f imulhSem s
/-- IMULH_E (R213). -/
def execImulhE (f : EForm) (s : State) : Host.Outcome State Fault Refusal := issue 0x003 f imulhSem s
/-- IMAD_B (R213). -/
def execImadB (f : BForm) (s : State) : Host.Outcome State Fault Refusal := issueB 0x004 f imadSem s
/-- IMAD_E (R213). -/
def execImadE (f : EForm) (s : State) : Host.Outcome State Fault Refusal := issue 0x004 f imadSem s
/-- IMIN_B (R213). -/
def execIminB (f : BForm) (s : State) : Host.Outcome State Fault Refusal := issueB 0x005 f iminSem s
/-- IMIN_E (R213). -/
def execIminE (f : EForm) (s : State) : Host.Outcome State Fault Refusal := issue 0x005 f iminSem s
/-- IMAX_B (R213). -/
def execImaxB (f : BForm) (s : State) : Host.Outcome State Fault Refusal := issueB 0x006 f imaxSem s
/-- IMAX_E (R213). -/
def execImaxE (f : EForm) (s : State) : Host.Outcome State Fault Refusal := issue 0x006 f imaxSem s
/-- IABS_B (R213). -/
def execIabsB (f : BForm) (s : State) : Host.Outcome State Fault Refusal := issueB 0x007 f iabsSem s
/-- IABS_E (R213). -/
def execIabsE (f : EForm) (s : State) : Host.Outcome State Fault Refusal := issue 0x007 f iabsSem s
/-- AND_B (R215). -/
def execAndB (f : BForm) (s : State) : Host.Outcome State Fault Refusal := issueB 0x008 f andSem s
/-- AND_E (R215). -/
def execAndE (f : EForm) (s : State) : Host.Outcome State Fault Refusal := issue 0x008 f andSem s
/-- OR_B (R215). -/
def execOrB (f : BForm) (s : State) : Host.Outcome State Fault Refusal := issueB 0x009 f orSem s
/-- OR_E (R215). -/
def execOrE (f : EForm) (s : State) : Host.Outcome State Fault Refusal := issue 0x009 f orSem s
/-- XOR_B (R215). -/
def execXorB (f : BForm) (s : State) : Host.Outcome State Fault Refusal := issueB 0x00A f xorSem s
/-- XOR_E (R215). -/
def execXorE (f : EForm) (s : State) : Host.Outcome State Fault Refusal := issue 0x00A f xorSem s
/-- ANDN_B (R215). -/
def execAndnB (f : BForm) (s : State) : Host.Outcome State Fault Refusal := issueB 0x00B f andnSem s
/-- ANDN_E (R215). -/
def execAndnE (f : EForm) (s : State) : Host.Outcome State Fault Refusal := issue 0x00B f andnSem s
/-- SHL_B (R215). -/
def execShlB (f : BForm) (s : State) : Host.Outcome State Fault Refusal := issueB 0x00C f shlSem s
/-- SHL_E (R215). -/
def execShlE (f : EForm) (s : State) : Host.Outcome State Fault Refusal := issue 0x00C f shlSem s
/-- SHR_B (R215). -/
def execShrB (f : BForm) (s : State) : Host.Outcome State Fault Refusal := issueB 0x00D f shrSem s
/-- SHR_E (R215). -/
def execShrE (f : EForm) (s : State) : Host.Outcome State Fault Refusal := issue 0x00D f shrSem s
/-- SAR_B (R215). -/
def execSarB (f : BForm) (s : State) : Host.Outcome State Fault Refusal := issueB 0x00E f sarSem s
/-- SAR_E (R215). -/
def execSarE (f : EForm) (s : State) : Host.Outcome State Fault Refusal := issue 0x00E f sarSem s
/-- NOT_B (R215). -/
def execNotB (f : BForm) (s : State) : Host.Outcome State Fault Refusal := issueB 0x00F f notSem s
/-- NOT_E (R215). -/
def execNotE (f : EForm) (s : State) : Host.Outcome State Fault Refusal := issue 0x00F f notSem s
/-- MOV_B (R219). -/
def execMovB (f : BForm) (s : State) : Host.Outcome State Fault Refusal := issueB 0x010 f movSem s
/-- MOV_E (R219). -/
def execMovE (f : EForm) (s : State) : Host.Outcome State Fault Refusal := issue 0x010 f movSem s
/-- LI_B (R219). -/
def execLiB (f : BForm) (s : State) : Host.Outcome State Fault Refusal := issueB 0x011 f liSem s
/-- LI_E (R219). -/
def execLiE (f : EForm) (s : State) : Host.Outcome State Fault Refusal := issue 0x011 f liSem s
/-- LEA_B (R220). -/
def execLeaB (f : BForm) (s : State) : Host.Outcome State Fault Refusal := issueB 0x012 f leaSem s
/-- LEA_E (R220). -/
def execLeaE (f : EForm) (s : State) : Host.Outcome State Fault Refusal := issue 0x012 f leaSem s
/-- IADD_IMM_B (R213). -/
def execIaddImmB (f : BForm) (s : State) : Host.Outcome State Fault Refusal := issueB 0x013 f iaddImmSem s
/-- IADD_IMM_E (R213). -/
def execIaddImmE (f : EForm) (s : State) : Host.Outcome State Fault Refusal := issue 0x013 f iaddImmSem s
/-- SHL_IMM_B (R215). -/
def execShlImmB (f : BForm) (s : State) : Host.Outcome State Fault Refusal := issueB 0x014 f shlImmSem s
/-- SHL_IMM_E (R215). -/
def execShlImmE (f : EForm) (s : State) : Host.Outcome State Fault Refusal := issue 0x014 f shlImmSem s
/-- SHR_IMM_B (R215). -/
def execShrImmB (f : BForm) (s : State) : Host.Outcome State Fault Refusal := issueB 0x015 f shrImmSem s
/-- SHR_IMM_E (R215). -/
def execShrImmE (f : EForm) (s : State) : Host.Outcome State Fault Refusal := issue 0x015 f shrImmSem s
/-- SAR_IMM_B (R215). -/
def execSarImmB (f : BForm) (s : State) : Host.Outcome State Fault Refusal := issueB 0x016 f sarImmSem s
/-- SAR_IMM_E (R215). -/
def execSarImmE (f : EForm) (s : State) : Host.Outcome State Fault Refusal := issue 0x016 f sarImmSem s
/-- AND_IMM_B (R215). -/
def execAndImmB (f : BForm) (s : State) : Host.Outcome State Fault Refusal := issueB 0x017 f andImmSem s
/-- AND_IMM_E (R215). -/
def execAndImmE (f : EForm) (s : State) : Host.Outcome State Fault Refusal := issue 0x017 f andImmSem s
/-- ROT (R215). -/
def execRot (f : EForm) (s : State) : Host.Outcome State Fault Refusal := issue 0x020 f rotSem s
/-- BFE (R217). -/
def execBfe (f : EForm) (s : State) : Host.Outcome State Fault Refusal := issue 0x021 f bfeSem s
/-- BFI (R217). -/
def execBfi (f : EForm) (s : State) : Host.Outcome State Fault Refusal := issue 0x022 f bfiSem s
/-- POPC (R218). -/
def execPopc (f : EForm) (s : State) : Host.Outcome State Fault Refusal := issue 0x023 f popcSem s
/-- CLZ (R218). -/
def execClz (f : EForm) (s : State) : Host.Outcome State Fault Refusal := issue 0x024 f clzSem s
/-- BREV (R218). -/
def execBrev (f : EForm) (s : State) : Host.Outcome State Fault Refusal := issue 0x025 f brevSem s
/-- SEL (R221). -/
def execSel (f : EForm) (s : State) : Host.Outcome State Fault Refusal := issue 0x026 f selSem s
/-- ICMP (R222). -/
def execIcmp (f : EForm) (s : State) : Host.Outcome State Fault Refusal := issue 0x027 f icmpSem s
/-- PLOP (R223). -/
def execPlop (f : EForm) (s : State) : Host.Outcome State Fault Refusal := issue 0x028 f plopSem s
/-- BRMH (R225). -/
def execBrmh (f : EForm) (s : State) : Host.Outcome State Fault Refusal := issue 0x029 f brmhSem s

end Sys2Proof.Machine
end

