-- ==== Sys2Proof/Machine/FloatOps.lean ====
section
/-!
DEFINITION. Class 01 but for the special functions and tables: float arithmetic, comparison, conversion, dot products and the
counter-based generator (10 R227 to R241).
-/

namespace Sys2Proof.Machine

open Sys2Proof

/-- The lane field of a created NaN: the lane, or in the scalar half the lowest lane whose guard is 1 (R228; `wrDest` asks for that
lane). An element-wise float instruction: `f F lane a b c` gives an element's bits. -/
def floatSem (f : Ctx → Fmt → Nat → Nat → Nat → Nat → Nat) : Meaning :=
  regAct fun c =>
    let F := fmtOf c.f.type.toNat
    let w := F.width
    let sd := c.f.modBit 5
    let val (l : Nat) : Nat :=
      let a := opA c false l
      let b := opB c false l
      let x := opC c false l
      elemResult sd false w fun i => f c F l (elemAt w a i) (elemAt w b i) (elemAt w x i)
    wrDest c sd false val (resPois c)

/-- The mode of the instruction. -/
def Ctx.rnd (c : Ctx) : Rnd := rndOf c.f.rnd.toNat

/-- FADD and FSUB (R231). -/
def faddSem : Meaning := floatSem fun c F l a b _ => sumResult F F c.rnd c.f.sat l c.pc.toNat [] [] [a, b] false
def fsubSem : Meaning := floatSem fun c F l a b _ => sumResult F F c.rnd c.f.sat l c.pc.toNat [] [] [a, b] true
/-- FMUL. -/
def fmulSem : Meaning := floatSem fun c F l a b _ => sumResult F F c.rnd c.f.sat l c.pc.toNat [a, b] [(a, b)] [] false
/-- FFMA, rounded once. -/
def ffmaSem : Meaning := floatSem fun c F l a b k => sumResult F F c.rnd c.f.sat l c.pc.toNat [a, b] [(a, b)] [k] false
/-- FMIN and FMAX: the first NaN, else by order with −0 < +0. -/
def fpick (max : Bool) (F : Fmt) (a b : Nat) : Nat :=
  match firstNan F [a, b] with
  | some x => quiet F x
  | none => if (magKey F b < magKey F a) == max then a else b
def fminSem : Meaning := floatSem fun _ F _ a b _ => fpick false F a b
def fmaxSem : Meaning := floatSem fun _ F _ a b _ => fpick true F a b
/-- FABS and FNEG change the sign alone. -/
def fabsSem : Meaning := floatSem fun _ F _ a _ _ => F.mag a
def fnegSem : Meaning := floatSem fun _ F _ a _ _ => F.pack (!F.sign a) (F.mag a)
/-- FRND (R234). -/
def frndSem : Meaning := floatSem fun c F _ a _ _ => frnd F c.rnd a

/-- FCMP reads element 0 (R233). -/
def fcmpSem : Meaning := cmpSem fun c l =>
  let F := fmtOf c.f.type.toNat
  fcmpHolds F (c.f.modBits 2 0) (elemAt F.width (opA c false l) 0) (elemAt F.width (opB c false l) 0)

/-- DOT2 and DOT4: n packed elements of TYPE, C and D FP32 (R235). -/
def dotSem (n : Nat) : Meaning := regAct fun c =>
  let G := fmtOf c.f.type.toNat
  let w := G.width
  let val (l : Nat) : Nat :=
    let as := (List.range n).map (elemAt w (opA c false l))
    let bs := (List.range n).map (elemAt w (opB c false l))
    sumResult G fp32 c.rnd c.f.sat l c.pc.toNat (as ++ bs) (as.zip bs) [opC c false l % 2 ^ 32] false
  wrDest c (c.f.modBit 5) false val (resPois c)
def dot2Sem : Meaning := dotSem 2
def dot4Sem : Meaning := dotSem 4

/-- The part conversion of R236 and R237: source elements, destination elements, and whether D is read. -/
def cvtReads (c : Ctx) : Bool :=
  !c.f.modBit 5 && slotsOf (codeWidth (c.f.modBits 3 0)) < slotsOf (codeWidth c.f.type.toNat)

/-- CVT, or CVTSR with the random bits of B (R238). -/
def cvtGen (sr : Bool) : Meaning where
  uses c _ := if cvtReads c then [useV c.f.d 1 1 false] else []
  act := onGroup fun c s =>
    let src := c.f.modBits 3 0
    let dst := c.f.type.toNat
    let ws := codeWidth src
    let wd := codeWidth dst
    let sd := c.f.modBit 5
    let n := if sd then 1 else slotsOf wd
    let k := min 16 (32 / n)
    let mode (l di : Nat) : Rnd := if sr then .rs k (elemAt k (opB c false l % 2 ^ 32) di) else c.rnd
    let part := c.f.c.toNat
    let wide := ws == 64
    let val (l : Nat) : Nat :=
      let a := opA c wide l
      if sd then
        let r := convert src dst (mode l 0) c.f.sat (a % 2 ^ ws)
        if isFloat dst then r else extendTo64 (intSigned dst) wd r
      else
        let ss := slotsOf ws
        let ds := slotsOf wd
        let e := min ss ds
        let old := if ss < ds then (List.range ds).map (elemAt wd (regBits c.gr c.regs false c.f.d.toNat false l))
          else List.replicate ds 0
        packElems wd ((List.range e).foldl (fun o i =>
          let si := if ds < ss then e * part + i else i
          let di := if ss < ds then e * part + i else i
          modAt o di fun _ => convert src dst (mode l di) c.f.sat (elemAt ws a si)) old)
    let pois (l : Nat) : Bool := resPois c l || (cvtReads c && (useV c.f.d 1 1 false).pois c l)
    wrDest c sd (wd == 64) val pois (s.group c.g)
def cvtSem : Meaning := cvtGen false
def cvtsrSem : Meaning := cvtGen true

/-- One round of the generator (R241): (x0, x1, x2, x3), k0, k1 and the rotation. -/
def rngRound (x : Nat × Nat × Nat × Nat) (k0 k1 rho : Nat) : Nat × Nat × Nat × Nat :=
  let (x0, x1, x2, x3) := x
  let p := x0 * 0xE817FB2D
  let q := x2 * 0xB5A34C69
  let lo (n : Nat) : Nat := n % 2 ^ 32
  let hi (n : Nat) : Nat := n / 2 ^ 32
  (rotl 32 (hi q ^^^ x1 ^^^ k0) rho, lo q, rotl 32 (hi p ^^^ x3 ^^^ k1) rho, lo p)
/-- The rounds, with the keys raised after each. -/
def rngRounds : List Nat → Nat × Nat × Nat × Nat → Nat → Nat → Nat × Nat × Nat × Nat
  | [], x, _, _ => x
  | rho :: r, x, k0, k1 => rngRounds r (rngRound x k0 k1 rho) ((k0 + 0x8F1BBCDD) % 2 ^ 32) ((k1 + 0x4D2C6DFB) % 2 ^ 32)
/-- RngBlock (R241). -/
def rngBlock (key ctr : Nat) : Nat × Nat × Nat × Nat :=
  rngRounds [7, 13, 19, 5, 11, 23, 3, 17] (ctr % 2 ^ 32, ctr / 2 ^ 32 % 2 ^ 32, 0x5D3A91C4, 0x27F0B6E8) (key % 2 ^ 32)
    (key / 2 ^ 32 % 2 ^ 32)
/-- RNG (R240). -/
def rngSem : Meaning := regAct fun c gr =>
  (lanesOf c.lanes).foldl (fun gr l =>
    let (x0, x1, x2, x3) := rngBlock (opA c true l) (opB c true l)
    let d := c.f.d.toNat
    let p := resPois c l
    wrVec (wrVec gr c.regs d true l (x0 + 2 ^ 32 * x1) p) c.regs (d + 2) true l (x2 + 2 ^ 32 * x3) p) gr

/-! ### The instructions -/

/-- FADD_B (R231). -/
def execFaddB (f : BForm) (s : State) : Host.Outcome State Fault Refusal := issueB 0x100 f faddSem s
/-- FADD_E (R231). -/
def execFaddE (f : EForm) (s : State) : Host.Outcome State Fault Refusal := issue 0x100 f faddSem s
/-- FSUB_B (R231). -/
def execFsubB (f : BForm) (s : State) : Host.Outcome State Fault Refusal := issueB 0x101 f fsubSem s
/-- FSUB_E (R231). -/
def execFsubE (f : EForm) (s : State) : Host.Outcome State Fault Refusal := issue 0x101 f fsubSem s
/-- FMUL_B (R231). -/
def execFmulB (f : BForm) (s : State) : Host.Outcome State Fault Refusal := issueB 0x102 f fmulSem s
/-- FMUL_E (R231). -/
def execFmulE (f : EForm) (s : State) : Host.Outcome State Fault Refusal := issue 0x102 f fmulSem s
/-- FFMA_B (R231). -/
def execFfmaB (f : BForm) (s : State) : Host.Outcome State Fault Refusal := issueB 0x103 f ffmaSem s
/-- FFMA_E (R231). -/
def execFfmaE (f : EForm) (s : State) : Host.Outcome State Fault Refusal := issue 0x103 f ffmaSem s
/-- FMIN_B (R231). -/
def execFminB (f : BForm) (s : State) : Host.Outcome State Fault Refusal := issueB 0x104 f fminSem s
/-- FMIN_E (R231). -/
def execFminE (f : EForm) (s : State) : Host.Outcome State Fault Refusal := issue 0x104 f fminSem s
/-- FMAX_B (R231). -/
def execFmaxB (f : BForm) (s : State) : Host.Outcome State Fault Refusal := issueB 0x105 f fmaxSem s
/-- FMAX_E (R231). -/
def execFmaxE (f : EForm) (s : State) : Host.Outcome State Fault Refusal := issue 0x105 f fmaxSem s
/-- FABS_B (R231). -/
def execFabsB (f : BForm) (s : State) : Host.Outcome State Fault Refusal := issueB 0x106 f fabsSem s
/-- FABS_E (R231). -/
def execFabsE (f : EForm) (s : State) : Host.Outcome State Fault Refusal := issue 0x106 f fabsSem s
/-- FNEG_B (R231). -/
def execFnegB (f : BForm) (s : State) : Host.Outcome State Fault Refusal := issueB 0x107 f fnegSem s
/-- FNEG_E (R231). -/
def execFnegE (f : EForm) (s : State) : Host.Outcome State Fault Refusal := issue 0x107 f fnegSem s
/-- FCMP (R233). -/
def execFcmp (f : EForm) (s : State) : Host.Outcome State Fault Refusal := issue 0x120 f fcmpSem s
/-- DOT2 (R235). -/
def execDot2 (f : EForm) (s : State) : Host.Outcome State Fault Refusal := issue 0x121 f dot2Sem s
/-- DOT4 (R235). -/
def execDot4 (f : EForm) (s : State) : Host.Outcome State Fault Refusal := issue 0x122 f dot4Sem s
/-- CVT (R237). -/
def execCvt (f : EForm) (s : State) : Host.Outcome State Fault Refusal := issue 0x123 f cvtSem s
/-- CVTSR (R238). -/
def execCvtsr (f : EForm) (s : State) : Host.Outcome State Fault Refusal := issue 0x124 f cvtsrSem s
/-- FRND (R234). -/
def execFrnd (f : EForm) (s : State) : Host.Outcome State Fault Refusal := issue 0x125 f frndSem s
/-- RNG (R241). -/
def execRng (f : EForm) (s : State) : Host.Outcome State Fault Refusal := issue 0x126 f rngSem s

end Sys2Proof.Machine
end

