-- ==== Sys2Proof/Machine/Sfu.lean ====
section
/-!
DEFINITION. The special functions (10 R242 to R244, R481): fixed results, reduction, segments, the segment's coefficients from the exact
function at three points, evaluation and reconstruction. The function's values are taken in fixed point with `fxN` bits below the
point, which settles every rounding of R481 (log 6).
-/

namespace Sys2Proof.Machine

open Sys2Proof

/-! ### Real functions in fixed point -/

/-- Bits below the point. -/
def fxN : Nat := 400
def fxOne : Nat := 2 ^ fxN
def fxMul (a b : Nat) : Nat := a * b / fxOne
def fxDiv (a b : Nat) : Nat := a * fxOne / b

/-- Floor of the square root, bit by bit from 2^(n-1) down. -/
def isqrtFrom (x : Nat) : Nat → Nat → Nat
  | 0, s => s
  | n + 1, s => let t := s + 2 ^ n; isqrtFrom x n (if t * t ≤ x then t else s)
def isqrt (x : Nat) : Nat := isqrtFrom x (x.log2 / 2 + 1) 0
/-- Square root of a fixed-point number. -/
def fxSqrt (a : Nat) : Nat := isqrt (a * fxOne)

/-- Sum of p, p z2 / 3, p z2^2 / 5 and on: the series of the inverse hyperbolic tangent. -/
def atanhLoop (z2 : Nat) : Nat → Nat → Nat → Nat → Nat
  | 0, _, _, acc => acc
  | k + 1, p, n, acc => if p == 0 then acc else atanhLoop z2 k (fxMul p z2) (n + 2) (acc + p / n)
/-- Natural logarithm of 1 ≤ r. -/
def fxLn (r : Nat) : Nat := let z := fxDiv (r - fxOne) (r + fxOne); 2 * atanhLoop (fxMul z z) 400 z 1 0
def fxLn2 : Nat := fxLn (2 * fxOne)
/-- Sum of t, t f / n, t f^2 / n(n+1) and on. -/
def expLoop (f : Nat) : Nat → Nat → Nat → Nat → Nat
  | 0, _, _, acc => acc
  | k + 1, t, n, acc => if t == 0 then acc else expLoop f k (fxMul t f / n) (n + 1) (acc + t)
/-- e^x for x ≥ 0. -/
def fxExp (x : Nat) : Nat := let k := x / fxLn2; expLoop (x - k * fxLn2) 200 fxOne 1 0 * 2 ^ k
/-- e^(-x) for x ≥ 0. -/
def fxExpNeg (x : Nat) : Nat :=
  if x == 0 then fxOne else let k := x / fxLn2 + 1; expLoop (k * fxLn2 - x) 200 fxOne 1 0 / 2 ^ k

/-- Arctangent of 1 / d, with w bits below the point. -/
def atanInvLoop (d2 : Nat) : Nat → Nat → Nat → Bool → Int → Int
  | 0, _, _, _, acc => acc
  | k + 1, p, n, neg, acc =>
    if p == 0 then acc else atanInvLoop d2 k (p / d2) (n + 2) (!neg) (if neg then acc - (p / n : Nat) else acc + (p / n : Nat))
def atanInv (w d : Nat) : Int := atanInvLoop (d * d) w (2 ^ w / d) 1 false 0
/-- Bits below the point of `piBig`. -/
def piN : Nat := 640
/-- Pi, from 16 arctan(1/5) - 4 arctan(1/239). -/
def piBig : Nat := (16 * atanInv piN 5 - 4 * atanInv piN 239).toNat
def fxPi : Nat := piBig / 2 ^ (piN - fxN)

/-- Sum of t, 2 x2 t / 3, (2 x2)^2 t / 15 and on. -/
def erfLoop (x2 : Nat) : Nat → Nat → Nat → Nat → Nat
  | 0, _, _, acc => acc
  | k + 1, t, n, acc => if t == 0 then acc else erfLoop x2 k (2 * fxMul t x2 / n) (n + 2) (acc + t)
/-- erf(x) for x ≥ 0, given x and x squared. -/
def fxErf (x x2 : Nat) : Nat := fxDiv (2 * fxMul (fxExpNeg x2) (erfLoop x2 1500 x 3 0)) (fxSqrt fxPi)
/-- 1 - erf(r / √2) and 1 + erf(r / √2), halved: the normal distribution function of -r and r. -/
def fxPhi (neg : Bool) (r : Nat) : Nat :=
  let x2 := fxMul r r / 2
  let e := fxErf (fxSqrt x2) x2
  (if neg then fxOne - e else fxOne + e) / 2

/-- Sum of t, -t x2 / ((n+1)(n+2)) and on: sine or cosine. -/
def trigLoop (x2 : Nat) : Nat → Nat → Nat → Bool → Int → Int
  | 0, _, _, _, acc => acc
  | k + 1, t, n, neg, acc =>
    if t == 0 then acc
    else trigLoop x2 k (fxMul t x2 / ((n + 1) * (n + 2))) (n + 2) (!neg) (if neg then acc - (t : Int) else acc + (t : Int))
/-- sin(j pi / 2048) for j from 0 to 1024, exact at both ends. -/
def fxSinQ (j : Nat) : Int :=
  if j == 0 then 0 else if j == 1024 then (fxOne : Int) else let x := j * fxPi / 2048; trigLoop (fxMul x x) 200 x 1 false 0
/-- sin(h pi / 2048). -/
def fxSin (h : Nat) : Int :=
  let j := h % 1024
  match h % 4096 / 1024 with
  | 0 => fxSinQ j
  | 1 => fxSinQ (1024 - j)
  | 2 => -fxSinQ j
  | _ => -fxSinQ (1024 - j)

/-! ### Segments -/

/-- The functions of R242. -/
inductive SfuFn where
  | rcp | rsq | sqrt | exp2 | log2 | tanh | sigm | sin | cos | gelu | silu | erf
  deriving DecidableEq, Repr

/-- g of R481 at a fixed-point r; `neg` selects the row for negative arguments. -/
def sfuG (fn : SfuFn) (neg : Bool) (r : Nat) : Int :=
  match fn with
  | .rcp => (fxDiv fxOne r : Nat)
  | .rsq => (isqrt (fxOne * fxOne * fxOne / r) : Nat)
  | .exp2 => (if r == fxOne then 2 * fxOne else fxExp (fxMul r fxLn2) : Nat)
  | .log2 => (if r == 2 * fxOne then fxOne else fxDiv (fxLn r) fxLn2 : Nat)
  | .tanh => let e := fxExpNeg (2 * r); (fxDiv (fxOne - e) (fxOne + e) : Nat)
  | .sigm => (if neg then fxDiv fxOne (fxOne + fxExp r) else fxDiv fxOne (fxOne + fxExpNeg r) : Nat)
  | .gelu => if neg then -(fxMul r (fxPhi true r) : Nat) else (fxMul r (fxPhi false r) : Nat)
  | .silu => if neg then -(fxDiv r (fxOne + fxExp r) : Nat) else (fxDiv r (fxOne + fxExpNeg r) : Nat)
  | .erf => (fxErf r (fxMul r r) : Nat)
  | .sqrt | .sin | .cos => 0

/-- Rn(z): RoundFloat of an exact value to FP32 under RN, +0 for zero. -/
def rn32 (x : Dy) : Nat := if x.m == 0 then 0 else roundFloat fp32 .rn false x

/-- P of R481 for a fixed-point g0. -/
def sfuP (g0 : Int) : Int := if g0 == 0 then 0 else (fxN : Int) - (g0.natAbs.log2 : Int)

/-- Coefficients from three values and the width, given as the exact value 1 / Δ. -/
def sfuCoef (g0 g1 g2 : Int) (inv : Dy) : Nat × Nat × Nat :=
  let at0 (m : Int) : Dy := { m := m, e := sfuP g0 - fxN }
  (rn32 (at0 g0), rn32 ((at0 (4 * g1 - 3 * g0 - g2)).mul inv), rn32 ((at0 (2 * (g0 - 2 * g1 + g2))).mul (inv.mul inv)))

/-- An FP32 encoding as an exact value, zero for both zeros. -/
def dyOf (x : Nat) : Dy := match fp32.val x with
  | .fin d => d
  | _ => Dy.ofInt 0

/-- Step 4: Y from t and the coefficients. -/
def sfuEval (lane pc : Nat) (t : Dy) (p : Int) (co : Nat × Nat × Nat) : Dy :=
  let tb := rn32 t
  let q := ffmaRn lane pc tb co.2.2 co.2.1
  let y := dyOf (ffmaRn lane pc tb q co.1)
  { y with e := y.e - p }

/-- A non-negative exact value in fixed point. -/
def toFx (x : Dy) : Nat := if 0 ≤ x.e + fxN then x.m.natAbs * 2 ^ (x.e + fxN).toNat else x.m.natAbs / 2 ^ (-(x.e + fxN)).toNat

/-- Steps 2 to 4 on a segment that starts at a and is 2^dl wide. -/
def sfuSeg (fn : SfuFn) (neg : Bool) (lane pc : Nat) (r a : Dy) (dl : Int) : Dy :=
  let fa := toFx a
  let w := toFx { m := 1, e := dl }
  let g0 := sfuG fn neg fa
  let co := sfuCoef g0 (sfuG fn neg (fa + w / 2)) (sfuG fn neg (fa + w)) { m := 1, e := -dl }
  sfuEval lane pc (r.add a.neg) (sfuP g0) co

/-- On a binade set: 128 segments in each binade. -/
def sfuBinade (fn : SfuFn) (neg : Bool) (lane pc : Nat) (r : Dy) : Dy :=
  let e := r.log
  let k := ({ m := r.m, e := r.e - e + 7 } : Dy).floor - 128
  sfuSeg fn neg lane pc r { m := 128 + k, e := e - 7 } (e - 7)

/-- SIN and COS: 2048 segments of the circle, with the exact value of pi. -/
def sfuTrig (quarter : Nat) (lane pc : Nat) (x : Dy) : Dy :=
  let big : Int := x.m * pow2 (x.e + piN)
  let two : Int := (2 * piBig : Nat)
  let r := big - big / two * two
  let k := r * 2048 / two
  let h := 2 * k.toNat + quarter
  let g0 := fxSin h
  let inv : Dy := { m := ((2 ^ (2 * fxN) * 1024 / fxPi : Nat) : Int), e := -(fxN : Int) }
  sfuEval lane pc { m := r * 2048 - k * two, e := -(piN : Int) - 11 } (sfuP g0)
    (sfuCoef g0 (fxSin (h + 1)) (fxSin (h + 2)) inv)

/-- The value rounded once to FP32; a value of zero is +0. -/
def sfuOut (y : Dy) : Nat := rn32 y
/-- The value with the sign of x. -/
def sfuSigned (neg : Bool) (y : Dy) : Nat := rn32 (if neg then y.neg else y)
/-- |x| < 2^k. -/
def magBelow (x : Dy) (k : Int) : Bool := x.log < k
/-- x as an exact value is below the number n / 2^d. -/
def dyBelow (x : Dy) (n : Int) (d : Int) : Bool := x.lt { m := n, e := -d }

/-- The result for +0 or -0 (R244). -/
def sfuZero (fn : SfuFn) (s : Bool) : Nat :=
  let z := fp32.pack s 0
  match fn with
  | .rcp | .rsq => fp32.pack s fp32.infMag
  | .exp2 | .cos => 0x3F800000
  | .log2 => fp32.pack true fp32.infMag
  | .sigm => 0x3F000000
  | _ => z
/-- The result for +∞ or -∞ (R244). -/
def sfuInf (fn : SfuFn) (s : Bool) (nan : Nat) : Nat :=
  match fn with
  | .rcp => fp32.pack s 0
  | .rsq => if s then nan else 0
  | .sqrt | .log2 => if s then nan else fp32.infMag
  | .exp2 => if s then 0 else fp32.infMag
  | .tanh | .erf => fp32.pack s 0x3F800000
  | .sigm => if s then 0 else 0x3F800000
  | .sin | .cos => nan
  | .gelu | .silu => if s then fp32.pack true 0 else fp32.infMag

/-- The square root of a positive value, rounded once. -/
def sfuSqrt (x : Dy) : Nat :=
  let e := if x.e % 2 == 0 then x.e else x.e - 1
  let m := x.m.natAbs * (if x.e % 2 == 0 then 1 else 2) * 2 ^ 80
  let s := isqrt m
  rn32 { m := 2 * s + (if s * s == m then 0 else 1), e := e / 2 - 41 }

/-- The result for a finite non-zero x (R243, R481). -/
def sfuFin (fn : SfuFn) (lane pc xb : Nat) (x : Dy) : Nat :=
  let neg : Bool := x.m < 0
  let a : Dy := { x with m := x.m.natAbs }
  let e := a.log
  let m : Dy := { a with e := a.e - e }
  let nan := createdNan fp32 lane pc
  let one := 0x3F800000
  let bin (r : Dy) : Dy := sfuBinade fn neg lane pc r
  let half : Nat := rn32 (x.mul { m := 1, e := -1 })
  match fn with
  | .rcp => let y := bin m; sfuSigned neg { y with e := y.e - e }
  | .rsq =>
    if neg then nan
    else
      let k := e / 2
      let y := bin { a with e := a.e - 2 * k }
      sfuOut { y with e := y.e - k }
  | .sqrt => if neg then nan else sfuSqrt x
  | .exp2 =>
    if !dyBelow { m := -150, e := 0 } x.m (-x.e) then 0
    else if !dyBelow x 128 0 then fp32.infMag
    else
      let n := x.floor
      let r := x.add (Dy.ofInt (-n))
      let k := ({ r with e := r.e + 7 } : Dy).floor
      let y := sfuSeg fn neg lane pc r { m := k, e := -7 } (-7)
      sfuOut { y with e := y.e + n }
  | .log2 => if neg then nan else sfuOut ((bin m).add (Dy.ofInt e))
  | .tanh =>
    if magBelow a (-12) then xb
    else if !dyBelow a 73 3 then fp32.pack neg one
    else sfuSigned neg (bin a)
  | .erf =>
    if magBelow a (-12) then rn32 (x.mul (dyOf 0x3F906EBB))
    else if !dyBelow a 4 0 then fp32.pack neg one
    else sfuSigned neg (bin a)
  | .sigm =>
    if dyBelow x (-104) 0 then 0
    else if !dyBelow x 35 1 then one
    else if magBelow a (-24) then 0x3F000000
    else sfuOut (bin a)
  | .gelu =>
    if dyBelow x (-29) 1 then fp32.pack true 0
    else if !dyBelow x 6 0 then xb
    else if magBelow a (-24) then half
    else sfuOut (bin a)
  | .silu =>
    if dyBelow x (-109) 0 then fp32.pack true 0
    else if !dyBelow x 20 0 then xb
    else if magBelow a (-24) then half
    else sfuOut (bin a)
  | .sin => if magBelow a (-12) then xb else sfuOut (sfuTrig 0 lane pc x)
  | .cos => if magBelow a (-12) then one else sfuOut (sfuTrig 1024 lane pc x)

/-- Sfu(x) of an FP32 x. -/
def sfu (fn : SfuFn) (lane pc xb : Nat) : Nat :=
  if fp32.isNan xb then quiet fp32 xb
  else match fp32.val xb with
  | .zero s => sfuZero fn s
  | .inf s => sfuInf fn s (createdNan fp32 lane pc)
  | .fin x => sfuFin fn lane pc xb x

/-- A function of FP32 applied to elements of any format of R242: widened exactly, and rounded to the format. -/
def viaFp32 (c : Ctx) (f : Nat → Nat) (x : Nat) : Nat :=
  let code := c.f.type.toNat
  if code == 0 then f x else convert 0 code .rn false (f (convert code 0 .rn false x))

/-- A special function. -/
def sfuSem (fn : SfuFn) : Meaning := floatSem fun c _ l a _ _ => viaFp32 c (sfu fn l c.pc.toNat) a

def rcpSem : Meaning := sfuSem .rcp
def rsqSem : Meaning := sfuSem .rsq
def sqrtSem : Meaning := sfuSem .sqrt
def exp2Sem : Meaning := sfuSem .exp2
def log2Sem : Meaning := sfuSem .log2
def tanhSem : Meaning := sfuSem .tanh
def sigmSem : Meaning := sfuSem .sigm
def sinSem : Meaning := sfuSem .sin
def cosSem : Meaning := sfuSem .cos
def geluSem : Meaning := sfuSem .gelu
def siluSem : Meaning := sfuSem .silu
def erfSem : Meaning := sfuSem .erf

/-! ### The instructions -/

/-- RCP_B (R242). -/
def execRcpB (f : BForm) (s : State) : Host.Outcome State Fault Refusal := issueB 0x108 f rcpSem s
/-- RCP_E (R242). -/
def execRcpE (f : EForm) (s : State) : Host.Outcome State Fault Refusal := issue 0x108 f rcpSem s
/-- RSQ_B (R242). -/
def execRsqB (f : BForm) (s : State) : Host.Outcome State Fault Refusal := issueB 0x109 f rsqSem s
/-- RSQ_E (R242). -/
def execRsqE (f : EForm) (s : State) : Host.Outcome State Fault Refusal := issue 0x109 f rsqSem s
/-- SQRT_B (R242). -/
def execSqrtB (f : BForm) (s : State) : Host.Outcome State Fault Refusal := issueB 0x10A f sqrtSem s
/-- SQRT_E (R242). -/
def execSqrtE (f : EForm) (s : State) : Host.Outcome State Fault Refusal := issue 0x10A f sqrtSem s
/-- EXP2_B (R242). -/
def execExp2B (f : BForm) (s : State) : Host.Outcome State Fault Refusal := issueB 0x10B f exp2Sem s
/-- EXP2_E (R242). -/
def execExp2E (f : EForm) (s : State) : Host.Outcome State Fault Refusal := issue 0x10B f exp2Sem s
/-- LOG2_B (R242). -/
def execLog2B (f : BForm) (s : State) : Host.Outcome State Fault Refusal := issueB 0x10C f log2Sem s
/-- LOG2_E (R242). -/
def execLog2E (f : EForm) (s : State) : Host.Outcome State Fault Refusal := issue 0x10C f log2Sem s
/-- TANH_B (R242). -/
def execTanhB (f : BForm) (s : State) : Host.Outcome State Fault Refusal := issueB 0x10D f tanhSem s
/-- TANH_E (R242). -/
def execTanhE (f : EForm) (s : State) : Host.Outcome State Fault Refusal := issue 0x10D f tanhSem s
/-- SIGM_B (R242). -/
def execSigmB (f : BForm) (s : State) : Host.Outcome State Fault Refusal := issueB 0x10E f sigmSem s
/-- SIGM_E (R242). -/
def execSigmE (f : EForm) (s : State) : Host.Outcome State Fault Refusal := issue 0x10E f sigmSem s
/-- SIN (R481). -/
def execSin (f : EForm) (s : State) : Host.Outcome State Fault Refusal := issue 0x127 f sinSem s
/-- COS (R481). -/
def execCos (f : EForm) (s : State) : Host.Outcome State Fault Refusal := issue 0x128 f cosSem s
/-- GELU (R481). -/
def execGelu (f : EForm) (s : State) : Host.Outcome State Fault Refusal := issue 0x129 f geluSem s
/-- SILU (R481). -/
def execSilu (f : EForm) (s : State) : Host.Outcome State Fault Refusal := issue 0x12A f siluSem s
/-- ERF (R481). -/
def execErf (f : EForm) (s : State) : Host.Outcome State Fault Refusal := issue 0x12B f erfSem s

end Sys2Proof.Machine
end

