-- ==== Sys2Proof/Machine/Agents.lean ====
section
/-!
DEFINITION. Engines as agents of the L2 (03 R43, R47): an engine's access is translated at its port part by part (02 R37), checked there against
the freeze table (03 R61), and sent as a request for each frame; it goes on by the step it names when every part is answered.
-/

namespace Sys2Proof.Machine

open Sys2Proof

/-- An engine's fault: cause, subcode, address. -/
abbrev EngErr := Nat × Nat × Nat

/-- A command's identity: the issuing group, its launch-site tag and its core. -/
structure Tag where
  g : Nat
  pc : DWord
  seq : BitVec 32
  core : Nat
  deriving DecidableEq, Repr

/-- The cluster at which a port asks for walks. -/
def Port.cl (p : Port) : Nat := match p with
  | .bce k | .me k _ => clusterOf k
  | .cluster c => c
  | .phys => 0
/-- The agent number of a copy engine, and of a cluster's matrix engines and collector port (R43). -/
def bceAgent (core : Nat) : Nat := 16 + core
def mxeAgent (core : Nat) : Nat := 80 + clusterOf core
def gscAgent (c : Nat) : Nat := 96 + c
/-- That of a collision query engine; the last two share one. -/
def cqeAgent (c : Nat) : Nat := 112 + min c 14
def isCqe (agent : Nat) : Bool := 112 ≤ agent && agent < 127
/-- The port's own translation buffer (02 R37). -/
def Port.buf (s : State) (p : Port) : List Tlb := match p with
  | .bce k => (s.core k).bceTlb
  | .me k u => tget [] (s.core k).meTlb u
  | _ => []
/-- The port buffers a translation. -/
def Port.keep (s : State) (p : Port) (t : Tlb) : State := match p with
  | .bce k => s.modCore k fun c => { c with bceTlb := tlbPut 256 c.bceTlb t }
  | .me k u => s.modCore k fun c => { c with meTlb := tput c.meTlb u (tlbPut 256 (tget [] c.meTlb u) t) }
  | _ => s

/-- Translation at a port, by what a walk has just found too, with whether the frame is allocated in the L2, which it is not through a UC leaf
(02 R29); none where a walk is needed. Engines do not reach the register window (07 R178). -/
def Port.xlate (s : State) (p : Port) (asid va kind : Nat) (v : Option Verdict) : State × Option (Except EngErr (Nat × Bool)) :=
  let out (t : Tlb) : Except EngErr (Nat × Bool) := if isWindow (t.phys va) then .error (9, 2, va) else .ok (t.phys va, t.mt ≠ 2)
  if p = .phys then (s, some (.ok (va, true)))
  else match xlook (p.buf s) asid va kind none with
  | some (.fault c u) => (s, some (.error (c, u, va)))
  | some (.ok t) => (s, some (out t))
  | none => match xlook (s.cluster p.cl).tlb asid va kind v with
    | some (.fault c u) => (s, some (.error (c, u, va)))
    | some (.ok t) => (p.keep s t, some (out t))
    | none => (s, none)

/-! ### The records of accesses -/

def getEng (s : State) (id : Nat) : Option EngAcc := tfind s.dev.engs id
def setEng (s : State) (id : Nat) (e : EngAcc) : State := { s with dev := { s.dev with engs := tput s.dev.engs id e } }
/-- An access is over; answers that still come find nobody. -/
def dropEng (s : State) (id : Nat) : State := { s with dev := { s.dev with engs := tdel s.dev.engs id } }
/-- Every part is answered. -/
def EngAcc.finished (e : EngAcc) : Bool := e.segs.isEmpty && e.out.isEmpty
/-- The tag under which an access's faults and watch records go out. -/
def EngAcc.tag (e : EngAcc) : Tag := { g := e.g, pc := e.pc, seq := e.seq, core := e.core }

/-- The parts of a read of [va, va + n). -/
def readSegs (va n : Nat) : List EngSeg :=
  (splitAt 512 va n (n / 512 + 2)).map fun x => { va := x.1, len := x.2, bytes := [], tags := [], mask := 0 }
/-- The parts of a write of bytes with their uncorrectable-error tags. -/
def writeSegs (va : Nat) (b : List Byte) (tags : List Bool) : List EngSeg :=
  (splitAt 512 va b.length (b.length / 512 + 2)).map fun x =>
    { va := x.1, len := x.2, bytes := (b.drop (x.1 - va)).take x.2, tags := (tags.drop (x.1 - va)).take x.2, mask := 0 }

/-- The parts of a locked write of ranges, one for each frame of addresses (12 R289). -/
def lockSegs (rs : List (Nat × Nat)) : List EngSeg :=
  let all := rs.flatMap fun r => (List.range r.2).map (r.1 + ·)
  (dedup (all.map (· / 512))).map fun f =>
    let mine := all.filter fun a => a / 512 == f
    let lo := mine.foldl min (512 * f + 511)
    { va := lo, len := mine.foldl max lo - lo + 1, bytes := [], tags := []
      mask := BitVec.ofNat 512 (mine.foldl (fun m a => m ||| 2 ^ (a % 512)) 0) }

/-- A new access of a command. -/
def EngAcc.new (p : Port) (agent asid : Nat) (t : Tag) (write : Bool) (segs : List EngSeg) (cont : Msg) : EngAcc :=
  { port := p, agent := agent, asid := asid, write := write, lock := false, segs := segs, out := [], next := 0, got := [], err := none,
    g := t.g, pc := t.pc, seq := t.seq, core := t.core, cont := cont }

/-! ### How an access goes on -/

/-- The request for a part at its physical address, which allocates in the L2 or not. A locked write brings its bytes when the lock is released. -/
def EngAcc.req (s : State) (e : EngAcc) (id : Nat) (x : EngSeg) (pa : Nat) (alloc : Bool) : Req :=
  { (if !e.write then readReq s pa x.len e.agent (.eng id e.next)
    else if e.lock then { newReq s .wrU (frameOf pa) (byteSectors x.mask) e.agent (.eng id e.next) with bmask := x.mask }
    else writeReq s pa x.bytes e.agent (.eng id e.next)) with alloc := alloc }

/-- The FROZEN_WRITE subcode that a part of a write meets at the port (03 R61). -/
def EngSeg.frozen (x : EngSeg) (s : State) (pa : Nat) : Option Nat :=
  if x.mask == 0 then frozenSub s pa x.len
  else ((List.range 32).filter (hasSec (byteSectors x.mask))).findSome? fun i => frozenSub s (pa / 512 * 512 + 16 * i) 16
/-- The parts of a locked access in ascending physical address, once every one is translated (12 R289); none while a walk is awaited, or
with a fault. -/
def lockOrder (s : State) (id : Nat) (e : EngAcc) (v : Option Verdict) : State :=
  let r := e.segs.foldl (fun (a : State × List (Nat × EngSeg) × Bool) x =>
    if a.2.2 then a
    else match e.port.xlate a.1 e.asid x.va 1 v with
      | (s, none) => (addWaiter s e.port.cl e.asid { va := x.va, kind := 1, who := .eng id e.next }, a.2.1, true)
      | (s, some (.error err)) => (setEng s id { e with segs := [], err := some err }, a.2.1, true)
      | (s, some (.ok (pa, _))) => (s, a.2.1 ++ [(pa, x)], false)) (s, [], false)
  if r.2.2 then r.1
  else setEng r.1 id { e with segs := (sortBy (fun (a b : Nat × EngSeg) => a.1 < b.1) r.2.1).map (·.2), next := 1 }

/-- Parts go out in order: each is translated and, for a write, checked at the port; a fault stops the access there. Of a locked access
the next part goes out when the one before is locked (12 R289). -/
def engParts (s : State) (id : Nat) (v : Option Verdict) : Nat → State
  | 0 => s
  | n + 1 =>
    match getEng s id with
    | none => s
    | some e =>
      match e.segs with
      | [] => s
      | x :: rest =>
        let stop (s : State) (err : EngErr) : State := setEng s id { e with segs := [], err := some err }
        if e.lock && e.next == 0 then
          let s := lockOrder s id e v
          if (getEng s id).any (fun e => e.next == 1) then engParts s id v n else s
        else if e.lock && e.out.any (fun o => (tfind e.got o.1).isNone) then s
        else match e.port.xlate s e.asid x.va (if e.write then 1 else 0) v with
        | (s, none) => addWaiter s e.port.cl e.asid { va := x.va, kind := if e.write then 1 else 0, who := .eng id e.next }
        | (s, some (.error err)) => stop s err
        | (s, some (.ok (pa, alloc))) =>
          match (if e.write then x.frozen s pa else none) with
          | some u => stop s (7, u, x.va)
          | none =>
            let s := setEng s id { e with segs := rest, out := e.out ++ [(e.next, x, pa)], next := e.next + 1 }
            engParts (s.send (e.req s id x pa alloc)) id v n

/-- The access goes on; when it waits for nothing more, so does its command. -/
def engAdvance (s : State) (id : Nat) (v : Option Verdict) : State :=
  match getEng s id with
  | none => s
  | some e =>
    let s := engParts s id v (e.segs.length + 2)
    match getEng s id with
    | none => s
    | some e =>
      if e.segs.isEmpty && e.out.all (fun o => e.lock && (tfind e.got o.1).isSome) then s.wireOnce e.cont else s

/-- A command's access begins. -/
def engBegin (s : State) (id : Nat) (e : EngAcc) : State := engAdvance (setEng s id e) id none

/-- A group stops for the debug agent at its next run boundary (18 R427). -/
def requestStop (s : State) (g : Nat) : State :=
  let gr := s.group g
  let s := s.modGroup g fun gr => { gr with stopReq := true }
  if gr.run.isNone && !gr.stopReq then dbgEvt s 2 else s

/-- Watchpoints that an engine's write hits (18 R437): the write stands; a record is made; the issuer stops, or, having ended, leaves an
orphan, which the agent is told of (22 R467) and which freezes the recorders. -/
def engWatch (s : State) (t : Tag) (asid va n : Nat) : State :=
  let gr := s.group t.g
  (watchHits s (clusterOf t.core) asid va n false true true).foldl (fun s h =>
    let s := watchRecord s (clusterOf t.core) t.core gr.num t.seq.toNat t.pc.toNat h gr.ended
    if gr.ended then rfrzTrigger (dbgEvt s 0) 4 else if h.holds then requestStop s t.g else s) s

/-- Marks the units of [pa, pa + n) whose byte carries a tag. -/
def tagUnits (s : State) (pa : Nat) (tags : List Bool) : State :=
  (tags.zip (List.range tags.length)).foldl (fun s x => if x.1 then setUe s (pa + x.2) true else s) s

/-- What the sectors of an answer bring of a part, by virtual address. -/
def EngAcc.take (s : State) (got : Sp EngGot) (x : EngSeg) (pa : Nat) (r : Req) (race ue : BitVec 32) : Sp EngGot :=
  (List.range 32).foldl (fun got i =>
    let lo := max pa (512 * r.frame + 16 * i)
    let hi := min (pa + x.len) (512 * r.frame + 16 * i + 16)
    if hasSec r.smask i && lo < hi then
      tput got (x.va + (lo - pa))
        { bytes := physRead s lo (hi - lo), ue := List.replicate (hi - lo) (hasSec ue i), race := List.replicate (hi - lo) (hasSec race i) }
    else got) got
/-- What an access has read of [va, va + n), byte by byte. -/
def EngAcc.read (e : EngAcc) (va n : Nat) : EngGot :=
  let hits := (List.range n).filterMap fun i =>
    (e.got.find? fun x => x.1 ≤ va + i && va + i < x.1 + x.2.bytes.length).map fun x => (x.2, va + i - x.1)
  { bytes := hits.map fun h => h.1.bytes.getD h.2 0, ue := hits.map fun h => h.1.ue.getD h.2 false
    race := hits.map fun h => h.1.race.getD h.2 false }

/-- The directory has answered a part: its bytes are read, or written, or its frame is locked. To a query engine, data that is no frozen
replica is as good as racy (13 R311). -/
def engReply (s : State) (id k : Nat) (r : Req) (gr : Grant) (race ue : BitVec 32) : State :=
  match getEng s id with
  | none => s
  | some e =>
    match e.out.find? fun o => o.1 == k with
    | none => s
    | some (_, x, pa) =>
      let rest := e.out.filter fun o => o.1 ≠ k
      if e.write && e.lock then
        engAdvance (setEng s id { e with got := tput e.got k { bytes := [], ue := [], race := [] } }) id none
      else if e.write then engAdvance (engWatch (setEng s id { e with out := rest }) e.tag e.asid x.va x.len) id none
      else
        let race := if isCqe e.agent && gr ≠ Grant.f then r.smask else race
        let e := { e with got := EngAcc.take s e.got x pa r race ue }
        if (e.read x.va x.len).bytes.length < x.len then setEng s id e else engAdvance (setEng s id { e with out := rest }) id none

/-- The directory has answered a part with a fault. -/
def engFlt (s : State) (id k cause sub : Nat) : State :=
  match getEng s id with
  | none => s
  | some e =>
    match e.out.find? fun o => o.1 == k with
    | none => s
    | some (_, x, _) =>
      engAdvance (setEng s id { e with segs := [], out := e.out.filter (fun o => o.1 ≠ k), err := some (e.err.getD (cause, sub, x.va)) }) id none

/-- An engine fault goes to the command's issuer (17 R408). -/
def engFault (s : State) (t : Tag) (flag : Option (Bool × Nat)) (e : EngErr) (rprog : Nat) (p : Parked) (atile : Option Nat) : State :=
  queueEFault s t.g
    { cause := e.1, sub := e.2.1, addr := e.2.2, tagPc := t.pc, tagSeq := t.seq, rprog := rprog, flag := flag, parked := p, atile := atile }

end Sys2Proof.Machine
end

