-- ==== Sys2Proof/Machine/Run.lean ====
section
/-!
DEFINITION. Runs: the walk of a run's instructions over tile states, tables, barriers and queues (05 R102, 10 R248, 15 R352), which
entries are eligible, which entry and which group issues next (15 R350, 16 R387, R389), and the issue of a run header (06 R135).
-/

namespace Sys2Proof.Machine

open Sys2Proof

/-- The instructions of a run from a word offset on, as (offset, OP10, fields); an unassigned opcode is skipped. -/
def instrsFrom : List Word → Nat → Nat → List (Nat × Nat × EForm)
  | _, _, 0 => []
  | [], _, _ => []
  | w :: ws, ofs, n + 1 =>
    let k := wordsOf w
    let rest := instrsFrom (ws.drop (k - 1)) (ofs + k) n
    match decodeWords (w :: ws) with
    | .ok (i, _) => match i.parts with
      | some (op, f) => (ofs, op, f) :: rest
      | none => rest
    | .error _ => rest

/-- Instructions of a run before a word offset. -/
def instrsLeft (words : List Word) (ofs len : Nat) : Nat :=
  len - ((instrsAt words 0 len).filter (· < ofs)).length
where
  instrsAt : List Word → Nat → Nat → List Nat
  | _, _, 0 => []
  | [], _, _ => []
  | w :: ws, o, n + 1 => o :: instrsAt (ws.drop (wordsOf w - 1)) (o + wordsOf w) n

/-! ### Tile slots (05 R98 to R102) -/

/-- The physical slot of a block-relative tile number. -/
def tilePhys (b : Block) (n : Nat) : Option Nat := b.tiles[n]?
/-- The tile slot of a core. -/
def getTile (s : State) (core p : Nat) : Tile := tget Tile.reset (s.core core).tiles p
/-- The state with a tile slot changed. -/
def modTile (s : State) (core p : Nat) (f : Tile → Tile) : State :=
  s.modCore core fun c => { c with tiles := tmod Tile.reset c.tiles p f }

/-- The slot that a descriptor describes (R99). -/
def tileOf (d : Nat) : Tile :=
  { Tile.reset with pitch := bits d 105 84, cols := bits d 83 72, rows := bits d 71 60, unit32 := bitOf d 59, spars := bits d 58 57,
                    fmt := bits d 56 53, base := bits d 21 0, defd := true }
/-- The slot that a TDEF defines, by its group's registers (07 R177). -/
def tdefTile (gr : Group) (f : EForm) : Tile :=
  { tileOf ((gr.getS f.a.toNat).toNat + 2 ^ 64 * (gr.getS f.b.toNat).toNat) with st := if f.modBit 0 then .ready else .empty }

/-- How a walk over a run ends. -/
inductive WalkEnd where
  | ok
  | wait
  | never
  deriving DecidableEq, Repr

/-- The slot an instruction's encoding names, and the state its issue gives it (R101). -/
def tileEffect (bl : Block) (op : Nat) (f : EForm) : Option (Nat × TileState) :=
  let n : Option Nat := if op == 0x248 || ((op == 0x249 || op == 0x24A) && !f.modBit 0) then some f.d.toNat else none
  (n.bind (tilePhys bl)).map fun p =>
    (p, if op == 0x248 then (if f.modBit 0 then .ready else .empty) else if op == 0x249 then .filling else .draining)

/-- The issue-time effects still to come of the runs that other groups of the core have won (R103): slot states, the slots that TDEFs define, as
the registers stand (log 94), tables pending, copies and spawns. -/
structure Won where
  tiles : Sp TileState
  defs : Sp Tile
  tables : List Nat
  copies : Nat
  spawns : Nat
  deriving DecidableEq, Repr
/-- The instructions that a won run has yet to issue. -/
def wonInstrs (gr : Group) : List (Nat × Nat × EForm) :=
  match gr.run with
  | some r => if r.issued then instrsFrom (r.words.drop r.ofs) r.ofs r.left else []
  | none => []
/-- What the core's tile slots come to by the issue-time effects of one instruction (R101, R102): none for a slot that is not defined. -/
def Won.tile (w : Won) (s : State) (gr : Group) (op : Nat) (f : EForm) : Won :=
  match tileEffect (s.block gr.block) op f with
  | some (p, st) => if op == 0x248 || (getTile s gr.core p).defd || (tfind w.tiles p).isSome then
      { w with tiles := tput w.tiles p st, defs := if op == 0x248 then tput w.defs p (tdefTile gr f) else w.defs } else w
  | none => w
/-- The number under which a group's run was won. -/
def Group.won (gr : Group) : Nat := match gr.run with
  | some r => r.won
  | none => 0
/-- The groups of a core with a run in progress, in the order in which the runs were won (R103). -/
def wonRuns (s : State) (core : Nat) : List (Nat × Group) :=
  sortBy (fun (a b : Nat × Group) => a.2.won < b.2.won)
    (s.groups.filter fun e => e.2.core == core && !e.2.ended && !e.2.saved && e.2.run.isSome)
/-- The number of the run that the core wins next. -/
def nextWon (s : State) (core : Nat) : Nat := (wonRuns s core).foldl (fun n e => max n (e.2.won + 1)) 1
/-- The effects of the won runs of a core's groups, but for one group's. -/
def wonEffects (s : State) (g : Option Nat) (core : Nat) : Won :=
  (wonRuns s core).foldl (fun w e =>
    if g == some e.1 then w
    else (wonInstrs e.2).foldl (fun (w : Won) i =>
      let w := w.tile s e.2 i.2.1 i.2.2
      { w with tables := if i.2.1 == 0x12D then i.2.2.c.toNat :: w.tables else w.tables
               copies := if i.2.1 == 0x249 || i.2.1 == 0x24A then w.copies + 1 else w.copies
               spawns := if i.2.1 == 0x346 then w.spawns + 1 else w.spawns }) w)
    { tiles := [], defs := [], tables := [], copies := 0, spawns := 0 }
/-- STATE of a slot after the issue-time effects of every run that other groups have won (R103). -/
def wonTile (s : State) (g : Option Nat) (core p : Nat) : TileState :=
  (tfind (wonEffects s g core).tiles p).getD (getTile s core p).st

/-- An instruction that names a slot in its encoding waits at it for the issue-time effects on that slot of the runs that other groups of the core have
won before its own: effects come in the order in which the runs were won (R101, R103; log 94). -/
def tileHeld (s : State) (c : Ctx) (n : Nat) : Bool :=
  match tilePhys (s.block c.gr.block) n with
  | none => false
  | some p => (wonRuns s c.gr.core).any fun e => e.1 ≠ c.g && e.2.won < c.r.won &&
      (wonInstrs e.2).any fun i => (tileEffect (s.block e.2.block) i.2.1 i.2.2).any fun x => x.1 == p

/-- The worse of two outcomes. -/
def WalkEnd.max (a b : WalkEnd) : WalkEnd :=
  match a, b with
  | .never, _ => .never
  | _, .never => .never
  | .wait, _ => .wait
  | _, .wait => .wait
  | _, _ => .ok

/-- The walk of R102: the slots the run has changed so far, as (slot, state); copies counted against the queue's room. A check that
waits does not end the walk, since a later one may fail for good. -/
def tileWalk (s : State) (core : Nat) (bl : Block) (won : Won) : List (Nat × Nat × EForm) → Sp TileState → Nat → WalkEnd
  | [], _, copies => if copies == 0 || (s.core core).bce.length + won.copies + copies ≤ 32 then .ok else .wait
  | (_, op, f) :: r, ch, copies =>
    let copies' := if op == 0x249 || op == 0x24A then copies + 1 else copies
    match tileEffect bl op f with
    | none => tileWalk s core bl won r ch copies'
    | some (p, st') =>
      let t := getTile s core p
      if op ≠ 0x248 && !t.defd && (tfind ch p).isNone && (tfind won.tiles p).isNone then tileWalk s core bl won r ch copies'
      else
        let st := (tfind ch p).getD ((tfind won.tiles p).getD t.st)
        let good : Bool := match op with
          | 0x248 => st == .empty || st == .ready
          | 0x249 => st == .empty
          | _ => st == .ready
        let here : WalkEnd :=
          if !good then (if (tfind ch p).isSome then .never else .wait)
          else if op ≠ 0x24A && t.readers ≠ 0 then .wait else .ok
        here.max (tileWalk s core bl won r (tput ch p st') copies')

/-- The walk of R248 over activation tables: an ACT after an ATLOAD of its table in one run never becomes eligible. -/
def tableWalk (s : State) (core : Nat) (won : Won) : List (Nat × Nat × EForm) → List Nat → WalkEnd
  | [], _ => .ok
  | (_, op, f) :: r, loaded =>
    let k := f.c.toNat
    if op == 0x12D then tableWalk s core won r (k :: loaded)
    else if op == 0x12C then
      if loaded.contains k then .never
      else if won.tables.contains k || (tget ActTable.reset (s.core core).act k).pend then
        (match tableWalk s core won r loaded with
          | .never => .never
          | _ => .wait)
      else tableWalk s core won r loaded
    else tableWalk s core won r loaded

/-- The barriers at which a run arrives, one entry an arrival (R360). -/
def arrivalsOf (gr : Group) (bl : Block) (is : List (Nat × Nat × EForm)) : List BarRef :=
  is.filterMap fun (_, op, f) =>
    if op == 0x342 && (f.modBits 1 0 == 0 || f.modBits 1 0 == 2) && f.modBits 3 2 ≠ 3 then
      some (barRef gr bl (f.modBits 3 2) f.c.toNat)
    else none

/-! ### Eligibility (15 R352) -/

/-- Whether an entry may issue: it may, its header takes a fault, or it waits, at a blocking point or not. -/
inductive Elig where
  | ready
  | trap (cause sub : Nat)
  | no (blocking : Bool)
  deriving DecidableEq, Repr

/-- The header waits on the flag of an FWAIT that has read the handle of the query that a fault parked (13 R315). -/
def fwaitDue (s : State) (gr : Group) (wait : BitVec 12) (e : EFault) : Bool :=
  match e.parked with
  | .query c id => match (s.cluster c).cqe.find? fun q => q.id == id with
    | some q => gr.fwaits.any fun x => x.1 == q.k && wait.toNat.testBit x.2
    | none => false
  | _ => false
/-- The oldest engine fault due at a header that waits on these flags, which in handler mode are the handler's; one of a command that arms no flag is due
at any header (17 R405, R408, R447; log 15). -/
def dueEFault (s : State) (gr : Group) (wait : BitVec 12) : Option EFault :=
  gr.efaults.find? fun e => (match e.flag with
    | none => true
    | some (hm, k) => hm == gr.hm && wait.toNat.testBit k) || (!gr.hm && fwaitDue s gr wait e)

/-- A flag that waits only for a QPOP on an empty, open queue, or for an LDG from host or peer memory, makes a blocking point
(R352). -/
def flagBlocks (gr : Group) (k : Nat) : Bool :=
  let ps := gr.pend.filter fun p => p.flag == some k && !p.hm
  !ps.isEmpty && ps.all fun p => p.op == 0x34B || (p.op == 0x200 && p.pieces.any fun x => isHost x.pa)

/-- Flags of a header that are not set. -/
def unset (gr : Group) (wait : BitVec 12) : List Nat :=
  (List.range 12).filter fun k => wait.toNat.testBit k && !(gr.curFlags.getD k FlagSt.reset).set

/-- Some flag's count would pass 255 through the run; counts that stand already are in it (17 R421). -/
def pendOver (gr : Group) (cnt : List (DWord × Nat)) : Bool :=
  let cnt := gr.stand.foldl (fun l x => l.erase x) cnt
  (List.range 12).any fun k =>
    255 < (gr.curFlags.getD k FlagSt.reset).pend + (cnt.filter fun x => x.2 == k).length

/-- Stage queue k of a launch, and the records it holds (15 R365). -/
def getSq (s : State) (l k : Nat) : StageQ := tget StageQ.reset (s.launch l).stageQ k
def sqDepth (r : BitVec 1024) (k : Nat) : Nat := 2 ^ (recSq r k / 16 + 1)
/-- A run with a QPUSH waits for a pending one of its group (R352). -/
def pushWaits (gr : Group) (is : List (Nat × Nat × EForm)) : Bool := (is.any fun x => x.2.1 == 0x34A) && gr.pend.any fun p => p.op == 0x34A
/-- The queue that a group pushes to is full. -/
def pushFull (s : State) (gr : Group) : Bool :=
  let k := (s.block gr.block).stage
  sqDepth (s.recOf gr) k ≤ (getSq s gr.launch k).recs.length

/-- A condition of R352 at which a group may be saved holds a fetched run back, resumed inside at a word offset or begun. -/
def runSoft (s : State) (g : Nat) (h : HForm) (words : List Word) (mid : Bool) (ofs : Nat) : Bool :=
  let gr := s.group g
  let is := instrsFrom (words.drop ofs) ofs (instrsLeft words ofs h.len.toNat)
  let arr := arrivalsOf gr (s.block gr.block) is
  let spawns := (is.filter fun x => x.2.1 == 0x346).length
  (!mid && !(unset gr h.wait).isEmpty) ||
  arr.any (fun b => let br := getBar s b
    isMember s gr b && br.k + 4 < tget 0 br.issued gr.num + (arr.filter (· == b)).length) ||
  (spawns ≠ 0 && 64 < (s.core gr.core).spawn.length + (wonEffects s (some g) gr.core).spawns + spawns) ||
  pushWaits gr is

/-- The eligibility of a fetched run for a group, resumed inside at a word offset or begun. -/
def runElig (s : State) (g : Nat) (pc : DWord) (h : HForm) (words : List Word) (mid : Bool) (ofs : Nat) : Elig :=
  let gr := s.group g
  let bl := s.block gr.block
  let is := instrsFrom (words.drop ofs) ofs (instrsLeft words ofs h.len.toNat)
  let cnt := countedFrom pc h (words.drop ofs) ofs (instrsLeft words ofs h.len.toNat)
  let arr := arrivalsOf gr bl is
  let cnts := arr.map fun b => (arr.filter (· == b)).length
  if (!mid && (dueEFault s gr h.wait).isSome) then (if gr.regPending gr.live then .no false else .ready)
  else if cnts.any (5 ≤ ·) then .trap 1 0x0C
  else
    let won := wonEffects s (some g) gr.core
    match tileWalk s gr.core bl won is [] 0, tableWalk s gr.core won is [] with
    | .never, _ => .trap 1 0x0A
    | _, .never => .trap 1 0x0B
    | tw, aw =>
      let flags := if mid then [] else unset gr h.wait
      let hard := pendOver (if mid then gr else { gr with stand := [] }) cnt || (pushWaits gr is && !pushFull s gr) || tw == .wait || aw == .wait || flags.any fun k => gr.hm || !flagBlocks gr k
      if hard then .no false else if runSoft s g h words mid ofs then .no true else .ready

/-- The word offset at which an entry resumes the run at its header, or none where it is no instruction boundary (17 R420). -/
def resumeOfs (e : Entry) (words : List Word) (len : Nat) : Option Nat :=
  if e.pc == e.hdr then some 0
  else
    let d := (e.pc - e.hdr).toNat
    if d % 4 == 0 && 4 ≤ d && (instrsLeft.instrsAt words 0 len).contains (d / 4 - 1) then some (d / 4 - 1) else none

/-- The issue slots of a core that runs in progress hold (16 R389). -/
def slotsBusy (s : State) (core : Nat) : Nat := (s.groups.filter fun e => e.2.core == core && !e.2.ended && !e.2.saved && e.2.run.isSome).length
/-- The group is bound to slices, no trap's frame is still to pass its checks, and it may begin a run. -/
def mayIssue (s : State) (g : Nat) : Bool :=
  let gr := s.group g
  !gr.ended && !gr.saved && gr.run.isNone && gr.dfault.isNone && !gr.stopReq && !gr.frameOpen && (tfind (s.core gr.core).binds g).isSome
/-- One of its core's four issue slots is free too (01 R12, 16 R389). -/
def canIssue (s : State) (g : Nat) : Bool := mayIssue s g && slotsBusy s (s.group g).core < 4

/-- What an entry's run answers, its wait states aside. A fault at a header waits for the register destinations of its lanes (17 R405). -/
def headElig (s : State) (g : Nat) (e : Entry) : Elig :=
  let gr := s.group g
  let f := fetchFor s gr e.hdr
  let held (x : Elig) : Elig := match x with
    | .trap c u => if gr.regPending e.mask then .no false else .trap c u
    | x => x
  if f.miss.isSome then .no false
  else match f.bad with
  | some (c, u) => held (.trap c u)
  | none =>
    match resumeOfs e f.words f.h.len.toNat with
    | none => held (.trap 1 8)
    | some ofs => held (runElig s g e.hdr f.h f.words (e.pc ≠ e.hdr) ofs)
/-- The eligibility of a frontier entry. One with a wait state is at a blocking point unless its run is held back by a condition that is none
(R352); a YIELD under a pending pre-emption is no wait state of its own (15 R374). -/
def entryElig (s : State) (g : Nat) (e : Entry) : Elig :=
  if e.waits.all (· == .yielded) then headElig s g e
  else if (fetchFor s (s.group g) e.hdr).miss.isSome || headElig s g e ≠ .no false then .no true else .no false

/-- The entry may be taken now: to issue, or to take its header's fault. -/
def Elig.go (e : Elig) : Bool := match e with
  | .no _ => false
  | _ => true

/-- The order in which a group's eligible entries are chosen (15 R350). -/
def entryBefore (a b : Entry) : Bool :=
  let ba := 64 ≤ a.pass
  let bb := 64 ≤ b.pass
  if ba ≠ bb then ba
  else if ba && a.pass ≠ b.pass then b.pass < a.pass
  else if a.prio ≠ b.prio then b.prio < a.prio
  else if a.issued ≠ b.issued then a.issued < b.issued
  else a.pc.toNat < b.pc.toNat

/-- The instruction at which a group's run in progress stands. -/
def standing (gr : Group) : Option (Nat × EForm) :=
  match gr.run with
  | some r => if !r.issued then none
    else match decodeWords (r.words.drop r.ofs) with
    | .ok (i, _) => i.parts
    | .error _ => none
  | none => none
/-- Of two groups that stand at a unit's instruction, the first is served before the second: by age, then by core number (12 R299, 13 R321). -/
def servedBefore (s : State) (a b : Nat × Group) : Bool :=
  let x := a.2.stoodAt.getD s.now
  let y := b.2.stoodAt.getD s.now
  x < y || (x == y && (a.2.core < b.2.core || (a.2.core == b.2.core && a.1 < b.1)))
/-- Another group, which waits at such an instruction, is served before this one. -/
def servedAfter (s : State) (g : Nat) (at' : Group → Bool) : Bool :=
  s.groups.any fun e => e.1 ≠ g && e.2.waitsAt && !e.2.ended && !e.2.saved && at' e.2 && servedBefore s e (g, s.group g)

/-- The eligible entry that comes first (R350). -/
def firstEntry (s : State) (g : Nat) : Option Entry :=
  let gr := s.group g
  minBy entryBefore ((gr.entries.map fun e => { e with prio := peekPrio s gr e.hdr }).filter fun e => (entryElig s g e).go)
/-- Under a pending pre-emption, outside handler mode, a YIELD and a header with RGN set, to which the group has come, are blocking points (15
R374; 17 R409, R411). -/
def atYield (s : State) (g : Nat) : Bool :=
  let gr := s.group g
  gr.preempt && !gr.hm && (gr.entries.any (fun e => e.waits.contains .yielded) ||
    (firstEntry s g).any fun e => entryElig s g e == .ready && e.pc == e.hdr && (fetchFor s gr e.hdr).h.rgn)
/-- A group is at a blocking point: every live entry is, a run in progress standing at an instruction whose wait is one (15 R352, 17
R410). -/
def atBlocking (s : State) (g : Nat) : Bool :=
  let gr := s.group g
  let blocked := gr.entries.all fun e => entryElig s g e == .no true
  match gr.run with
  | some _ => blocked && gr.waitsAt && (standing gr).any fun x => x.1 == 0x273 || x.1 == 0x279 || x.1 == 0x355
  | none => gr.stopReq || (!gr.entries.isEmpty && blocked) || atYield s g

/-- The entry that the group issues next; none where a pending pre-emption is honoured now (17 R411), for which a pending QPOP is not waited
for (log 87). -/
def pickEntry (s : State) (g : Nat) : Option Entry :=
  let gr := s.group g
  if gr.preempt && !gr.hm && atBlocking s g && gr.pend.all (·.op ≠ 0x34B) then none else firstEntry s g

/-! ### Choice of the group (16 R387, R389) -/

/-- Min(PRIO, PMAX) of a record of a queue. -/
def recPrioQ (s : State) (r : BitVec 1024) (q : Nat) : Nat :=
  min (recPrio r) (bits (winNat s (0x100018 + 0x40 * q)) 62 60)

/-- The highest level among pending launches that wait on a counter which a record's launch signals. -/
def levelFrom (s : State) (ls : List (PendLaunch × Nat)) (r : BitVec 1024) : Nat :=
  ((ls.filter fun e => (recWc e.1.record).any fun c =>
    (recSc r).contains c && bits (winNat s (0x200000 + 8 * c)) 15 0 ≠ 0).map (·.2)).foldl max 0
/-- Pending launches pass their levels on until none rises: each is a level of its own or of a pending launch, so that as many rounds as there are
launches are enough. -/
def passLevels (s : State) : Nat → List (PendLaunch × Nat) → List (PendLaunch × Nat)
  | 0, ls => ls
  | n + 1, ls =>
    let up := ls.map fun e => (e.1, max e.2 (levelFrom s ls e.1.record))
    if up == ls then ls else passLevels s n up
/-- The level a record's launch inherits from the pending launches that wait on a counter it signals, transitively. -/
def inheritedOf (s : State) (r : BitVec 1024) : Nat :=
  levelFrom s (passLevels s s.dev.pending.length (s.dev.pending.map fun p => (p, recPrioQ s p.record p.queue))) r

/-- The effective priority of a group. -/
def effPrio (s : State) (gr : Group) : Nat :=
  min 7 (max gr.base (inheritedOf s (s.recOf gr)) + gr.aging)

/-- The order of R389. -/
def groupBefore (s : State) (a b : Group) : Bool :=
  let pa := effPrio s a
  let pb := effPrio s b
  if pa ≠ pb then pb < pa
  else if a.lastIssue ≠ b.lastIssue then a.lastIssue < b.lastIssue
  else if (s.launch a.launch).order ≠ (s.launch b.launch).order then (s.launch a.launch).order < (s.launch b.launch).order
  else a.num < b.num

/-- The group can go on: its run has an instruction to try, or an entry can be taken. -/
def groupReady (s : State) (g : Nat) : Bool :=
  let gr := s.group g
  !gr.ended && !gr.saved && !gr.stalled && match gr.run with
    | some _ => true
    | none => canIssue s g && (pickEntry s g).isSome

/-- The group for which a free issue slot of a core chooses a run (R389). -/
def pickHead (s : State) (core : Nat) : Option (Nat × Group) :=
  minBy (fun (a b : Nat × Group) => groupBefore s a.2 b.2)
    (s.groups.filter fun e => e.2.core == core && e.2.run.isNone && groupReady s e.1)
/-- The group that issues next: the runs in progress, each on its slot, and what the free slots of each core choose take turns, the one whose turn was
longest ago first (R389, R394; log 3). -/
def pickGroup (s : State) : Option Nat :=
  let runs := s.groups.filter fun e => e.2.run.isSome && groupReady s e.1
  let heads := (dedup (s.groups.map fun e => e.2.core)).filterMap (pickHead s)
  (minBy (fun (a b : Nat × Group) =>
    if a.2.turned ≠ b.2.turned then a.2.turned < b.2.turned else groupBefore s a.2 b.2) (runs ++ heads)).map (·.1)

/-- The lowest of a core's four issue slots that no run holds (R389). -/
def freeIssueSlot (s : State) (core : Nat) : Nat :=
  let used := (wonRuns s core).filterMap fun e => e.2.run.map (·.slot)
  ((List.range 4).find? fun k => !used.contains k).getD 0

/-! ### The issue of a run header -/

/-- Takes an entry out of the frontier and makes its fetched run the group's run, not yet issued. -/
def beginRun (s : State) (g : Nat) (e : Entry) (f : Fetched) : State :=
  let ofs := (resumeOfs e f.words f.h.len.toNat).getD 0
  s.modGroup g fun gr =>
    { gr with
      pre := none, ferr := []
      entries := gr.entries.filter fun x => !(x.pc == e.pc && x.hdr == e.hdr && x.waits == e.waits)
      run := some { pc := e.hdr, h := f.h, words := f.words, follow := f.follow, issued := false, mid := e.pc ≠ e.hdr,
                    slot := freeIssueSlot s gr.core, won := nextWon s gr.core, ofs := ofs,
                    left := instrsLeft f.words ofs f.h.len.toNat, lanes := e.mask, next := [], waits := [], retire := 0,
                    yield := false } }

/-- A fault raised at a run header for an entry (06 R131, 17 R401); a bad target is concerned itself, not the header of its run (R420). -/
def headerTrap (s : State) (g : Nat) (e : Entry) (cause sub : Nat) : State :=
  let ls := lanesOf e.mask
  takeTrap (s.modGroup g fun gr =>
      { gr with pre := none, ferr := [], entries := gr.entries.filter fun x => !(x.pc == e.pc && x.hdr == e.hdr && x.waits == e.waits) }) g {
    lanes := e.mask, active := e.mask, ipc := if cause == 1 && sub == 8 then e.pc else e.hdr, kind := 0
    causes := ls.map fun l => { lane := l, cause := cause, sub := sub, addr := if cause == 1 then 0 else e.hdr.toNat }
    resume := ls.map fun l => (l, e.pc)
    hdr := ls.map fun l => (l, e.hdr)
    efault := none, runPc := 0, stand := [], atile := none }

/-- An engine fault delivered at a header (17 R408). -/
def engineTrap (s : State) (g : Nat) (lanes active : Lanes) (pc hdr : DWord) (e : EFault) : State :=
  let ls := lanesOf lanes
  let s := s.modGroup g fun gr => { gr with efaults := gr.efaults.erase e, run := none }
  takeTrap s g {
    lanes := lanes, active := active, ipc := pc, kind := 2, causes := onLanes active e.cause e.sub
    resume := ls.map fun l => (l, pc)
    hdr := ls.map fun l => (l, hdr)
    efault := some e, runPc := 0, stand := [], atile := e.atile }

/-- What issuing a header does (06 R135, 17 R400, 15 R350): WAIT flags cleared, the counts armed, hazards of the waited flags
ended, a region entered, and the pass counts of the group's other eligible entries raised. A run resumed in its middle takes the
counts that stand and evaluates no WAIT (17 R420, R421). -/
def startRun (s : State) (g : Nat) (h : HForm) (r : Run) : State :=
  let gr := s.group g
  let mid := r.mid
  let cnt := countedFrom r.pc h (r.words.drop r.ofs) r.ofs r.left
  let others := gr.entries.map fun e => if (entryElig s g e).go then { e with pass := e.pass + 1 } else e
  let gr := { gr with entries := others }
  let gr := if mid then gr
    else (List.range 12).foldl (fun (gr : Group) k =>
      if h.wait.toNat.testBit k then gr.modFlag gr.hm k fun f => { f with set := false } else gr) gr
  let gr := if mid then gr
    else { gr with haz := gr.haz.filter fun x => x.hm ≠ gr.hm || !h.wait.toNat.testBit x.flag
                   fwaits := gr.fwaits.filter fun x => gr.hm || !h.wait.toNat.testBit x.2 }
  let gr := cnt.foldl (fun (gr : Group) x =>
    if mid && gr.stand.contains x then { gr with stand := gr.stand.erase x } else gr.modFlag gr.hm x.2 FlagSt.arm) gr
  let gr := if h.rgn && !mid then gr.enterRegion r.lanes r.pc r.pc else gr
  let due := if mid then gr.owed.filter fun o => o.hdr == r.pc else []
  let r := { r with waits := due.flatMap (fun (o : Owed) => (o.waits.map fun (w : Wait × Lanes) => (w.1, w.2 &&& r.lanes)).filter fun w => w.2 ≠ 0)
                    retire := due.foldl (fun m (o : Owed) => m ||| (o.retire &&& r.lanes)) 0, yield := due.any (·.yield) }
  let gr := if mid then gr.unowe r.pc r.lanes else gr
  let gr := { gr with
    run := some { r with h := h, issued := true }, issues := gr.issues + 1, stalled := false, lastIssue := s.now, aging := 0,
    idleSince := s.now, ranAt := (lanesOf r.lanes).foldl (fun t l => tput t l (gr.issues + 1)) gr.ranAt }
  let s := evCount (s.setGroup g gr) 2 (some gr.core) 1
  if r.left == 0 then endRun s g else s

/-- Where a run that has not issued begins. -/
def Run.start (r : Run) : DWord := if r.mid then r.pc + BitVec.ofNat 64 (4 + 4 * r.ofs) else r.pc
/-- The fetched run goes back to its entry: it is not eligible now. -/
def unissue (s : State) (g : Nat) (r : Run) : State :=
  s.modGroup g fun gr =>
    ({ gr with run := none, stalled := true }).join r.start r.pc r.lanes r.h.prio.toNat []

/-- THE ISSUE OF A RUN HEADER: a due engine fault is taken, a run that can never be eligible faults, an eligible run issues, and
any other goes back to wait. -/
def issueRun (h : HForm) (s : State) : Host.Outcome State Fault Refusal :=
  let g := s.cur
  let gr := s.group g
  match gr.run with
  | none => .fault .noRun
  | some r =>
    if r.issued then .fault .noRun
    else
      let e : Entry := { pc := r.start, hdr := r.pc, mask := r.lanes, prio := 0, pass := 0, waits := [], issued := 0 }
      let trap (c u : Nat) : State :=
        if gr.regPending r.lanes then unissue s g r else headerTrap (s.modGroup g fun gr => { gr with run := none }) g e c u
      if headerBad h then .next (trap 1 6)
      else
        match runElig s g r.pc h r.words r.mid r.ofs with
        | .no _ => .next (unissue s g r)
        | .trap c u => .next (trap c u)
        | .ready =>
          match (if r.mid then none else dueEFault s gr h.wait) with
          | some ef => .next (engineTrap s g r.lanes r.lanes r.pc r.pc ef)
          | none => .next (startRun s g h r)
where
  /-- LEN, SETA or SETB out of range (06 R134). -/
  headerBad (h : HForm) : Bool :=
    h.len == 0 || 24 < h.len.toNat || (12 ≤ h.setA.toNat && h.setA.toNat < 15) || (12 ≤ h.setB.toNat && h.setB.toNat < 15)

/-- The lanes whose guard is 1 under the guard fields of words that do not decode (06 R126; 17 R406 ACTIVE). -/
def rawActive (gr : Group) (ws : List Word) (entry : Lanes) : Lanes :=
  let w0 := ws.headD 0
  let f := if llOf w0 == 0 then bToE 0 (bFields w0) else eFields w0 (ws.getD 1 0) (ws.getD 2 0) none
  laneSet (guardOf gr f) (lanesOf entry)
/-- The words of the instruction that the current run has come to do not decode: ILLEGAL, BAD_OP, at it (06 R150). -/
def badOpTrap (s : State) (g : Nat) : State :=
  let gr := s.group g
  match gr.run with
  | none => s
  | some r =>
    if rollsBack gr (r.lanes &&& ~~~ gr.exited) then cutRun s g (r.pc + BitVec.ofNat 64 (4 + 4 * r.ofs)) (r.lanes &&& ~~~ gr.exited)
    else if gr.regPending (r.lanes &&& ~~~ gr.exited) then stallGroup s g false
    else
      let entry := r.lanes &&& ~~~ gr.exited
      let ls := lanesOf entry
      let pc := r.pc + BitVec.ofNat 64 (4 + 4 * r.ofs)
      takeTrap s g {
        lanes := entry, active := rawActive gr (r.words.drop r.ofs) entry, ipc := pc, kind := 0, causes := onLanes entry 1 1
        resume := ls.map fun l => (l, pc)
        hdr := ls.map fun l => (l, r.pc)
        efault := none, runPc := r.pc
        stand := countedFrom r.pc r.h (r.words.drop r.ofs) r.ofs r.left
        atile := none }

/-- A run header issues. -/
def execRun (h : HForm) (s : State) : Host.Outcome State Fault Refusal := issueRun h s

end Sys2Proof.Machine
end

