-- ==== Sys2Proof/Machine/Spaces.lean ====
section
/-!
DEFINITION. The explicit on-chip spaces (05 R89 to R97): the checks and the places of their accesses, writes with the tile flags they clear
(R104), the photo-finish unit (R109 to R112), atomic operations (07 R180, R181), deferred faults (17 R403), and the addresses of every
memory instruction (07 R160).
-/

namespace Sys2Proof.Machine

open Sys2Proof

/-! ### Deferred faults -/

/-- An access of the trap frame faults: the group ends, for a write with the trap's own cause, while the write's goes out as a FAULT record alone (17
R405), for a read with the read's, which is a fault within the handler (R409). A group that has ended abandons it. -/
def frameFault (s : State) (g : Nat) (p : Pend) (use : FrameUse) (causes : List LaneCause) : State :=
  let gr := s.group g
  let (c, u) := primary causes
  let s := finishPend s g p.id
  if gr.ended then s
  else match use with
    | .save k v => endGroupCause (faultRecord s gr.core gr.num gr.seq.toNat p.pc.toNat c u false) g k v p.pc.toNat
    | .restore => endGroupCause s g c u p.pc.toNat

/-- A pending access faults after issue (17 R401, R403): it is gone without effect, and the group will take the trap. Of a second
fault, lanes that the first rolls back execute the access again; the others take theirs after the return. -/
def deferFault (s : State) (g id : Nat) (causes : List LaneCause) : State :=
  let gr := s.group g
  match gr.findPend id with
  | none => s
  | some p => match p.frame with
  | some use => frameFault s g p use causes
  | none =>
    let due (lanes : Lanes) : DFault :=
      { lanes := lanes, active := p.lanes &&& lanes, ipc := p.pc, causes := causes, runPc := 0, stand := [] }
    let lanes := p.entry &&& gr.live
    let s := finishPend s g id
    match gr.dfault with
    | none =>
      if lanes == 0 then s else (s.modGroup g fun gr => { gr with dfault := some (due lanes) }).wire (.deferredFault g)
    | some d =>
      let rest := gr.dlater.foldl (fun m (x : DFault) => m &&& ~~~ x.lanes) (lanes &&& ~~~ d.lanes)
      if rest == 0 then s else s.modGroup g fun gr => { gr with dlater := gr.dlater ++ [due rest] }

/-- The group takes its deferred fault once its run has ended and the trap lanes' register destinations are complete (R403). -/
def evDeferredFault (g : Nat) (s : State) : State :=
  let gr := s.group g
  match gr.dfault with
  | none => s
  | some d =>
    if gr.ended then s
    else if gr.run.isSome || gr.regPending d.lanes then s.wire (.deferredFault g)
    else
      let lanes := d.lanes &&& gr.live
      let up (f : FlagSt) : FlagSt := if f.pend == 0 then { f with set := true } else f
      let within (l : Nat) : Bool := tget 0 gr.regionHdr l == d.runPc && tget 0 gr.region l ≠ d.runPc
      let gr := gr.unowe d.runPc (laneSet (fun l => !within l) (lanesOf lanes))
      let s := s.setGroup g { gr with dfault := none, flags := gr.flags.map up, hflags := if gr.hm then gr.hflags.map up else gr.hflags }
      if lanes == 0 then s
      else
        let ls := lanesOf lanes
        takeTrap s g {
          lanes := lanes, active := d.active &&& lanes, ipc := d.ipc, kind := 1, causes := d.causes
          resume := ls.map fun l => (l, tget 0 gr.region l)
          hdr := ls.map fun l => (l, tget 0 gr.regionHdr l)
          efault := none, runPc := d.runPc, stand := d.stand, atile := none }

/-! ### Addresses and data (07 R160) -/

/-- The displacement of a memory instruction. -/
def memDisp (op : Nat) (f : EForm) : Int :=
  if isAtomic op then (if op < 0x254 then f.e.toInt else 0)
  else match f.lit with
    | some x => x.toInt
    | none => signed 16 (f.e.toNat * 256 + f.c.toNat)
/-- The address of a lane. -/
def memAddr (c : Ctx) (l : Nat) : Nat :=
  let base := (c.gr.getS c.f.a.toNat).toNat
  let ofs : Int := if c.f.sb then (c.gr.getS c.f.b.toNat).toInt else (c.gr.getV (vNum c.regs c.f.b.toNat) l).toInt
  let scale := if isAtomic c.op then accessSize c.op c.f else 2 ^ c.f.modBits 5 4
  wrap 64 ((base : Int) + ofs * (scale : Int) + memDisp c.op c.f)

/-- v registers from n up as one number of k words. -/
def vWords (gr : Group) (regs n k l : Nat) : Nat :=
  (List.range k).foldl (fun x j => x + (gr.getV (vNum regs (n + j)) l).toNat * 2 ^ (32 * j)) 0
/-- The data of a store, or operand x (compare value) of an atomic. -/
def storeData (c : Ctx) (l : Nat) : Nat :=
  if isAtomic c.op then
    (match c.sp.lit, c.f.lit with
      | .c, some x => x.toNat
      | _, _ => regBits c.gr c.regs c.f.sc c.f.c.toNat (accessSize c.op c.f == 8) l) % 2 ^ (8 * accessSize c.op c.f)
  else vWords c.gr c.regs c.f.d.toNat (dataRegs (accessSize c.op c.f)) l % 2 ^ (8 * accessSize c.op c.f)

/-- The register writes of a loaded value of n bytes in a lane (07 R166). -/
def loadWrites (regs : Nat) (f : EForm) (n l x : Nat) (pois : Bool) : List RegWrite :=
  let x := if n < 4 && f.modBit 3 then wrap 32 (signed (8 * n) x) else x
  (List.range (dataRegs n)).map fun j =>
    { isS := false, n := vNum regs (f.d.toNat + j), lane := l, val := BitVec.ofNat 64 (x / 2 ^ (32 * j) % 2 ^ 32), poison := pois }

/-- The new value of an atomic from the old value o and operand x, of n bytes (07 R180). -/
def atomOp (code n o x lane pc : Nat) : Nat :=
  let w := 8 * n
  match code with
  | 0 => (o + x) % 2 ^ w
  | 1 => if signed w o ≤ signed w x then o else x
  | 2 => if signed w x ≤ signed w o then o else x
  | 3 => min o x
  | 4 => max o x
  | 5 => o &&& x
  | 6 => o ||| x
  | 7 => o ^^^ x
  | 8 => x
  | 9 => if x ≤ o then 0 else o + 1
  | _ => sumResult fp32 fp32 .rn false lane pc [] [] [o, x] false
/-- What an ATOM or CAS writes, if anything: a CAS whose comparison fails writes nothing. -/
def atomicNew (op : Nat) (f : EForm) (n o x new lane pc : Nat) : Option Nat :=
  if op < 0x254 then some (atomOp (f.modBits 3 0) n o x lane pc) else if o == x then some new else none

/-! ### Places and checks (R89, R92, R95, R97) -/

/-- Where an access in an explicit space lands. -/
inductive Loc where
  | core (core byte : Nat)
  | chip (byte : Nat)
  | lp (lane ofs : Nat)
  deriving DecidableEq, Repr

/-- The share record and slot that a window offset selects for a member block. -/
def shareSlot (s : State) (bl : Block) (m : Nat) : Option ShareSlot :=
  match bl.share with
  | none => none
  | some (r, _) => tfind (tget { launch := 0, key := 0, slots := [] } (s.cluster (clusterOf bl.core)).shares r).slots m

/-- Size of a space for a group, and the width of its offsets. -/
def spaceSize (s : State) (gr : Group) (sp : Nat) : Nat :=
  match sp with
  | 1 => (s.block gr.block).spSize
  | 3 => (s.launch gr.launch).xSize
  | _ => recLpR (s.recOf gr)
def spaceWidth (sp : Nat) : Nat :=
  match sp with
  | 1 => 22
  | 2 => 24
  | 3 => 26
  | _ => 11

/-- The cause an access to an explicit space raises at issue, or where it lands. -/
def locate (s : State) (gr : Group) (sp a n lane : Nat) : Except (Nat × Nat) Loc :=
  if a % n ≠ 0 then .error (3, 0)
  else if 2 ^ spaceWidth sp ≤ a then .error (4, 0)
  else if sp == 2 then
    match shareSlot s (s.block gr.block) (bits a 23 22) with
    | none => .error (5, 1)
    | some k =>
      if !k.held || k.revoked then .error (5, 0)
      else if k.len < bits a 21 0 + n then .error (4, 0)
      else .ok (.core (s.block k.block).core ((s.block k.block).spBase + k.base + bits a 21 0))
  else if spaceSize s gr sp < a + n then .error (4, 0)
  else .ok (match sp with
    | 1 => .core gr.core ((s.block gr.block).spBase + a)
    | 3 => .chip ((s.launch gr.launch).xBase + a)
    | _ => .lp lane a)

/-- A place as a piece of a pending access: spaces 1 and 2 by core and byte, 3 the chip, 4 the lane. -/
def Loc.piece (k : Loc) (lane n : Nat) : Piece :=
  match k with
  | .core c b => { lane := lane, ofs := c, pa := b, len := n, mt := 1, t := Tlb.none }
  | .chip b => { lane := lane, ofs := 0, pa := b, len := n, mt := 3, t := Tlb.none }
  | .lp l o => { lane := lane, ofs := l, pa := o, len := n, mt := 4, t := Tlb.none }

/-! ### Reads and writes -/

/-- Columns and rows of a slot in elements. -/
def Tile.nCols (t : Tile) : Nat := if t.unit32 then 32 * t.cols else t.cols
def Tile.nRows (t : Tile) : Nat := if t.unit32 then 32 * t.rows else t.rows
/-- Row bytes B (R100). -/
def rowBytes (fmt spars cols : Nat) : Nat :=
  if spars ≠ 0 then 128 * cols / 64
  else match fmt with
    | 0 | 14 | 15 => 4 * cols
    | 1 | 2 | 6 | 7 => 2 * cols
    | 3 | 4 | 8 | 9 => cols
    | 10 | 11 => cols / 2
    | _ => cols / 2 + cols / 32
def Tile.rowB (t : Tile) : Nat := rowBytes t.fmt t.spars t.nCols
/-- Base of a slot in its core's scratchpad: the block that holds it places it. -/
def tileBase (s : State) (core p : Nat) (t : Tile) : Nat :=
  match s.blocks.find? fun e => !e.2.ended && e.2.core == core && e.2.tiles.contains p with
  | some e => e.2.spBase + t.base
  | none => t.base
/-- Some byte of [a, a + n) lies in a row of the slot. -/
def Tile.hits (t : Tile) (base a n : Nat) : Bool :=
  (List.range t.nRows).any fun i => base + i * t.pitch < a + n && a < base + i * t.pitch + t.rowB
/-- Other slots that a write reaches lose their flags; FILLING and DRAINING ones are tainted (R104). -/
def taintTiles (s : State) (core a n : Nat) (own : Option Nat) : State :=
  let f (e : Nat × Tile) : Nat × Tile :=
    if e.2.defd && !(own == some e.1) && e.2.hits (tileBase s core e.1 e.2) a n then
      (e.1, { e.2 with az := false, af := false, taint := e.2.taint || e.2.st == .filling || e.2.st == .draining })
    else e
  s.modCore core fun c => { c with tiles := c.tiles.map f }

/-- Tags of sectors that [a, a + n) covers whole are cleared (R108). -/
def clearTags (t : Sp Bool) (a n : Nat) : Sp Bool := t.filter fun e => !(a ≤ 16 * e.1 && 16 * e.1 + 16 ≤ a + n)
/-- A byte table with bytes written. -/
def spPokes (t : Sp Byte) (a : Nat) : List Byte → Sp Byte
  | [] => t
  | b :: r => spPokes (tupd 0 t a b) (a + 1) r

/-- Writes core scratchpad bytes. -/
def coreWrite (s : State) (core a : Nat) (b : List Byte) (own : Option Nat) : State :=
  let s := taintTiles s core a b.length own
  s.modCore core fun c => { c with sp := spPokes c.sp a b, spUe := clearTags c.spUe a b.length }
/-- Writes chip scratchpad bytes. -/
def chipWrite (s : State) (a : Nat) (b : List Byte) : State :=
  { s with chip := { s.chip with bytes := spPokes s.chip.bytes a b, ue := clearTags s.chip.ue a b.length } }
/-- An engine write of core scratchpad also clears the shadow records of the sectors (R111). -/
def engWrite (s : State) (core a : Nat) (b : List Byte) (own : Option Nat) : State :=
  let s := coreWrite s core a b own
  s.modCore core fun c => { c with shadow := c.shadow.filter fun e => !(16 * e.1 < a + b.length && a < 16 * e.1 + 16) }

/-- Reads n bytes at a place. -/
def locRead (s : State) (g : Nat) (k : Loc) (n : Nat) : Nat :=
  match k with
  | .core c b => leNat (peeks (s.core c).sp b n)
  | .chip b => leNat (peeks s.chip.bytes b n)
  | .lp l o => leNat (peeks (s.group g).lp (2048 * l + o) n)
/-- Writes n bytes at a place. -/
def locWrite (s : State) (g : Nat) (k : Loc) (x n : Nat) : State :=
  match k with
  | .core c b => coreWrite s c b (leBytes x n) none
  | .chip b => chipWrite s b (leBytes x n)
  | .lp l o => s.modGroup g fun gr => { gr with lp := spPokes gr.lp (2048 * l + o) (leBytes x n) }
/-- The sector at a place carries an uncorrectable-error tag. -/
def locUe (s : State) (k : Loc) : Bool :=
  match k with
  | .core c b => tget false (s.core c).spUe (b / 16)
  | .chip b => tget false s.chip.ue (b / 16)
  | .lp _ _ => false

/-! ### The photo-finish unit (R109 to R112) -/

/-- The shadow record at a place. -/
def shadowAt (s : State) (k : Loc) : Shadow :=
  match k with
  | .core c b => tget Shadow.reset (s.core c).shadow (b / 16)
  | .chip b => tget Shadow.reset s.chip.shadow (b / 16)
  | .lp _ _ => Shadow.reset
/-- Records a write at a place. -/
def setShadow (s : State) (k : Loc) (v : Shadow) : State :=
  match k with
  | .core c b => s.modCore c fun x => { x with shadow := tput x.shadow (b / 16) v }
  | .chip b => { s with chip := { s.chip with shadow := tput s.chip.shadow (b / 16) v } }
  | .lp _ _ => s

/-- The access of group g conflicts with the record of a sector (R111). An ended group's interval has passed the record's. -/
def conflicts (s : State) (g : Nat) (r : Shadow) (atomic : Bool) : Bool :=
  let gr := s.group g
  let w := s.group r.key
  r.valid && r.key ≠ g && !(atomic && r.atomic) &&
  ((w.iv == r.wiv && r.wiv < 0xFFFFFF) || match r.scope with
    | 0 => true
    | 1 => w.block ≠ gr.block
    | 2 => clusterOf w.core ≠ clusterOf gr.core
    | _ => false)

/-- A RACE record, which names the sector of an offset (18 R432). -/
def raceRecord (s : State) (gr : Group) (sp ofs pc : Nat) (r : Shadow) : State :=
  leuth s 1 2 (r.writer * 2 ^ 40 + r.hash * 2 ^ 24 + r.wiv) gr.core gr.num
    ((match sp with
      | 1 => 0
      | 2 => 1
      | _ => 2) * 2 ^ 30 + ofs / 16 * 16 % 2 ^ 26) pc false false

/-- The interval number moves on (R109). -/
def Group.nextIv (gr : Group) (n : Nat) : Group := { gr with iv := min 0xFFFFFF (gr.iv + n) }
/-- Events of an access's ORD: a release and an acquire each count. -/
def ordEvents (ord : BitVec 2) : Nat := (if bitOf ord.toNat 0 then 1 else 0) + (if bitOf ord.toNat 1 then 1 else 0)

/-! ### Performing a pending access -/

/-- The place of a piece. -/
def Piece.loc (p : Piece) : Loc := if p.mt == 1 then .core p.ofs p.pa else if p.mt == 3 then .chip p.pa else .lp p.ofs p.pa

/-- Performs one lane of an access at its place: the state and the value read. -/
def performLane (s : State) (g : Nat) (p : Pend) (x : Piece) : State × Nat :=
  let k := x.loc
  let o := locRead s g k x.len
  let gr := s.group g
  let sp := (spaceOf p.op).getD 0
  let mark (s : State) : State :=
    if isStore p.op && sp ≠ 4 then
      setShadow s k { valid := true, scope := narrowScope sp p.f.scope.toNat, wiv := gr.iv, writer := gr.num, hash := pcHash p.pc.toNat,
                      atomic := isAtomic p.op, key := g }
    else s
  if isAtomic p.op then
    (mark (match atomicNew p.op p.f x.len o (tget 0 p.vals x.lane) (tget 0 p.vals2 x.lane) x.lane p.pc.toNat with
      | some v => locWrite s g k v x.len
      | none => s), o)
  else if isStore p.op then (mark (locWrite s g k (tget 0 p.vals x.lane) x.len), o)
  else (s, o)

/-- What a pending access to an explicit space meets when it is performed (R111, R112, R108): the deferred causes, and the races. -/
def spaceMeets (s : State) (g : Nat) (p : Pend) : List LaneCause × List Piece :=
  let sp := (spaceOf p.op).getD 0
  let race := p.pieces.filter fun x => sp ≠ 4 && conflicts s g (shadowAt s x.loc) (isAtomic p.op)
  let ue := p.pieces.filter fun x => isLoad p.op && locUe s x.loc
  ((if recRace (s.recOf (s.group g)) == 2 then race.map fun x => { lane := x.lane, cause := 11, sub := 0, addr := tget 0 p.addrs x.lane } else []) ++
    ue.map fun x => { lane := x.lane, cause := 12, sub := 0, addr := tget 0 p.addrs x.lane }, race)

/-- The register writes of a lane that is performed with value o. -/
def pieceWrites (regs : Nat) (p : Pend) (x : Piece) (o : Nat) : List RegWrite :=
  if isAtomic p.op then (List.range (x.len / 4)).map fun j =>
    { isS := false, n := vNum regs (p.f.d.toNat + j), lane := x.lane, val := BitVec.ofNat 64 (o / 2 ^ (32 * j) % 2 ^ 32), poison := false }
  else if isLoad p.op then loadWrites regs p.f x.len x.lane o false else []

/-- An access to an explicit space completes: its registers are written and its order counts (R109). -/
def spaceFinish (s : State) (g : Nat) (p : Pend) (ws : List RegWrite) : State :=
  finishPend (s.modGroup g fun gr => (p.put gr ws).nextIv (ordEvents p.f.ord)) g p.id

/-- An atomic in a scratchpad performs its next lane (07 R181): other operations may fall between two lanes. -/
def atomLane (s : State) (g : Nat) (p : Pend) : State :=
  match p.pieces with
  | [] => spaceFinish s g p p.res
  | x :: rest =>
    let (s, o) := performLane s g p x
    let res := p.res ++ pieceWrites (s.regsOf (s.group g)) p x o
    (s.modPend g p.id fun p => { p with pieces := rest, res := res }).wire (.instrComplete g p.id)

/-- A pending access to an explicit space is performed (R92, R111, R112): deferred faults first; then an atomic commits (17 R402) and goes lane
by lane, and any other access performs every lane in ascending order. -/
def performSpace (s : State) (g : Nat) (p : Pend) : State :=
  let gr := s.group g
  let sp := (spaceOf p.op).getD 0
  if p.aux ≠ 0 then atomLane s g p
  else
    let (cs, race) := spaceMeets s g p
    if !cs.isEmpty then deferFault s g p.id cs
    else
      let s := if recRace (s.recOf gr) == 1 then
        race.foldl (fun s x => raceRecord s gr sp (tget 0 p.addrs x.lane) p.pc.toNat (shadowAt s x.loc)) s else s
      if isAtomic p.op then
        let s := s.modPend g p.id fun p => { p with aux := 1, holds := false }
        let s := s.modGroup g fun gr => if gr.ended then gr else gr.enterRegion p.entry p.nextPc p.nextHdr
        atomLane s g p
      else
        let regs := s.regsOf gr
        let (s, ws) := p.pieces.foldl (fun (s, ws) x =>
          let (s, o) := performLane s g p x
          (s, ws ++ pieceWrites regs p x o)) (s, ([] : List RegWrite))
        spaceFinish s g p ws

/-! ### Releases (14 R330) -/

/-- A release access or fence whose ordering reaches beyond the cluster, or FREEZE, FREE, BESTMAX and TLBI, which order as such (07 R172, R171; 13
R324; 15 R373). -/
def Pend.releases (p : Pend) : Bool :=
  [0x243, 0x27C, 0x349, 0x372].contains p.op || (p.op == 0x361 && 3 ≤ p.f.scope.toNat) ||
  (((spaceOf p.op).isSome || p.op == 0x360) && bitOf p.f.ord.toNat 1 &&
    3 ≤ (match spaceOf p.op with
      | some (k + 1) => narrowScope (k + 1) p.f.scope.toNat
      | _ => p.f.scope.toNat))
/-- A release is cumulative (14 R330): stores of the cluster that its group can have read are performed before it. -/
def drainOk (s : State) (g : Nat) (p : Pend) : Bool :=
  !p.releases || !(s.cluster (clusterOf (s.group g).core)).storeQ.any fun e => !e.wc && e.op ≠ p.id && e.id < p.drain.getD s.nextId
/-- An access whose earlier accesses are performed notes the moment. -/
def drainMark (s : State) (g : Nat) (p : Pend) : State := s.modPend g p.id fun p => { p with drain := some (p.drain.getD s.nextId) }

/-- Address and data poison of a memory instruction (07 R160, R167, R182). -/
def memPois (c : Ctx) : List LaneCause := onLanes (laneSet (resPois c) (lanesOf c.lanes)) 10 0

/-- A new pending access with its addresses, data and ordering. -/
def memPend (c : Ctx) (id : Nat) (s : State) : Pend :=
  let ls := lanesOf c.lanes
  let n := accessSize c.op c.f
  let addrs := ls.map fun l => (l, memAddr c l)
  let (af, sent) := orderOf (s.group c.g) c.entry ((spaceOf c.op).getD 0) (isGsc c.op) (isStore c.op) c.f.ord.toNat c.f.scope.toNat
    (addrs.map fun e => (e.2, n))
  { newPend c id s with
    addrs := addrs
    vals := if isStore c.op then ls.map fun l => (l, storeData c l) else []
    vals2 := if c.op ≥ 0x254 && isAtomic c.op then ls.map fun l => (l, opE c (n == 8) l % 2 ^ (8 * n)) else []
    after := af, afterSent := sent }

/-- The causes an access to an explicit space raises at issue (R92, R95). -/
def spaceCheck (c : Ctx) (s : State) : List LaneCause :=
  memPois c ++ (lanesOf c.lanes).filterMap fun l =>
    match locate s c.gr ((spaceOf c.op).getD 0) (memAddr c l) (accessSize c.op c.f) l with
    | .error (k, u) => some { lane := l, cause := k, sub := u, addr := memAddr c l }
    | .ok _ => none

/-- A load, store or atomic of an explicit space: checked at issue, performed at its completion. -/
def spaceSem : Meaning where
  check := spaceCheck
  act c s :=
    let (id, s) := s.fresh
    let n := accessSize c.op c.f
    let p := memPend c id s
    let pieces := (lanesOf c.lanes).filterMap fun l =>
      match locate s c.gr ((spaceOf c.op).getD 0) (memAddr c l) n l with
      | .ok k => some (k.piece l n)
      | .error _ => none
    ((addPend s c.g { p with ready := true, pieces := pieces, holds := isAtomic c.op }).wire (.instrComplete c.g id), true)

def ldsSem : Meaning := spaceSem
def stsSem : Meaning := spaceSem
def ldkSem : Meaning := spaceSem
def stkSem : Meaning := spaceSem
def ldxSem : Meaning := spaceSem
def stxSem : Meaning := spaceSem
def ldlSem : Meaning := spaceSem
def stlSem : Meaning := spaceSem
def atomSSem : Meaning := spaceSem
def atomKSem : Meaning := spaceSem
def atomXSem : Meaning := spaceSem
def casSSem : Meaning := spaceSem
def casKSem : Meaning := spaceSem
def casXSem : Meaning := spaceSem

/-- A deferred fault is due. -/
def execDeferredFault (g : Nat) (s : State) : Host.Outcome State Fault Refusal := .next (evDeferredFault g s)

/-! ### The instructions -/

/-- LDS_B (R166). -/
def execLdsB (f : BForm) (s : State) : Host.Outcome State Fault Refusal := issueB 0x202 f ldsSem s
/-- LDS_E (R166). -/
def execLdsE (f : EForm) (s : State) : Host.Outcome State Fault Refusal := issue 0x202 f ldsSem s
/-- STS_B (R166). -/
def execStsB (f : BForm) (s : State) : Host.Outcome State Fault Refusal := issueB 0x203 f stsSem s
/-- STS_E (R166). -/
def execStsE (f : EForm) (s : State) : Host.Outcome State Fault Refusal := issue 0x203 f stsSem s
/-- LDK_B (R166). -/
def execLdkB (f : BForm) (s : State) : Host.Outcome State Fault Refusal := issueB 0x204 f ldkSem s
/-- LDK_E (R166). -/
def execLdkE (f : EForm) (s : State) : Host.Outcome State Fault Refusal := issue 0x204 f ldkSem s
/-- STK_B (R166). -/
def execStkB (f : BForm) (s : State) : Host.Outcome State Fault Refusal := issueB 0x205 f stkSem s
/-- STK_E (R166). -/
def execStkE (f : EForm) (s : State) : Host.Outcome State Fault Refusal := issue 0x205 f stkSem s
/-- LDX_B (R166). -/
def execLdxB (f : BForm) (s : State) : Host.Outcome State Fault Refusal := issueB 0x206 f ldxSem s
/-- LDX_E (R166). -/
def execLdxE (f : EForm) (s : State) : Host.Outcome State Fault Refusal := issue 0x206 f ldxSem s
/-- STX_B (R166). -/
def execStxB (f : BForm) (s : State) : Host.Outcome State Fault Refusal := issueB 0x207 f stxSem s
/-- STX_E (R166). -/
def execStxE (f : EForm) (s : State) : Host.Outcome State Fault Refusal := issue 0x207 f stxSem s
/-- LDL_B (R166). -/
def execLdlB (f : BForm) (s : State) : Host.Outcome State Fault Refusal := issueB 0x208 f ldlSem s
/-- LDL_E (R166). -/
def execLdlE (f : EForm) (s : State) : Host.Outcome State Fault Refusal := issue 0x208 f ldlSem s
/-- STL_B (R166). -/
def execStlB (f : BForm) (s : State) : Host.Outcome State Fault Refusal := issueB 0x209 f stlSem s
/-- STL_E (R166). -/
def execStlE (f : EForm) (s : State) : Host.Outcome State Fault Refusal := issue 0x209 f stlSem s
/-- ATOM_S (R181). -/
def execAtomS (f : EForm) (s : State) : Host.Outcome State Fault Refusal := issue 0x251 f atomSSem s
/-- ATOM_K (R181). -/
def execAtomK (f : EForm) (s : State) : Host.Outcome State Fault Refusal := issue 0x252 f atomKSem s
/-- ATOM_X (R181). -/
def execAtomX (f : EForm) (s : State) : Host.Outcome State Fault Refusal := issue 0x253 f atomXSem s
/-- CAS_S (R181). -/
def execCasS (f : EForm) (s : State) : Host.Outcome State Fault Refusal := issue 0x255 f casSSem s
/-- CAS_K (R181). -/
def execCasK (f : EForm) (s : State) : Host.Outcome State Fault Refusal := issue 0x256 f casKSem s
/-- CAS_X (R181). -/
def execCasX (f : EForm) (s : State) : Host.Outcome State Fault Refusal := issue 0x257 f casXSem s

end Sys2Proof.Machine
end

