-- ==== Sys2Proof/Machine/Directory.lean ====
section
/-!
DEFINITION. The L2 and its directory (03 R41 to R55): requests, collisions and forward queues, ways and evictions, recalls, fills, the performing
of writes and atomics, and the answers of caches, DRAM and the host. Values are held once, in memory (log 11); a transaction that waits for
nobody opens and closes in one step.
-/

namespace Sys2Proof.Machine

open Sys2Proof

/-! ### Requests -/

/-- The request asks for a write or for ownership. -/
def reqExcl (r : Req) : Bool := match r.kind with
  | .rdS | .rdU => false
  | _ => true
/-- A plain write (R53). -/
def reqPlainWrite (r : Req) : Bool := !r.sync && match r.kind with
  | .wrU | .rdO | .upg => true
  | _ => false
/-- A plain read. -/
def reqPlainRead (r : Req) : Bool := !r.sync && match r.kind with
  | .rdS | .rdU => true
  | _ => false
/-- Sectors of read a that collide racily with write b of another agent (R53). -/
def raceMask (a b : Req) : BitVec 32 :=
  if reqPlainRead a && reqPlainWrite b && a.agent ≠ b.agent then a.smask &&& byteSectors b.bmask else 0
/-- Age order, then agent number (R44, R49). -/
def reqBefore (a b : Req) : Bool :=
  let d := (b.age - a.age).toNat
  if d == 0 then a.agent < b.agent else d < 2 ^ 23

/-- The directory entry of a frame. -/
def dirOf (s : State) (frame : Nat) : DirEnt := tget DirEnt.reset s.l2.dir frame
def setDir (s : State) (frame : Nat) (d : DirEnt) : State := { s with l2 := { s.l2 with dir := tput s.l2.dir frame d } }
def modDir (s : State) (frame : Nat) (f : DirEnt → DirEnt) : State := setDir s frame (f (dirOf s frame))

/-- The sectors of line j of a frame. -/
def lineMask (j : Nat) : BitVec 32 := spanMask (4 * j) (4 * j + 3)
/-- Sectors that an open transaction, an eviction or a host snoop keeps others from (R48, R55). -/
def busyMask (d : DirEnt) : BitVec 32 :=
  d.snoops.foldl (fun m x => m ||| lineMask (x.line % 8))
    (d.opens.foldl (fun m t => m ||| t.req.smask) (if d.evict.isSome then BitVec.allOnes 32 else 0))
/-- A request collides (R48). -/
def collides (d : DirEnt) (m : BitVec 32) : Bool :=
  4 ≤ d.opens.length || (busyMask d &&& m) ≠ 0 || d.fwd.any fun t => t.req.smask &&& m ≠ 0

/-! ### L2 frame slots (R41, R42) -/

/-- The 64-byte units of a sector mask. -/
def unitsOf (m : BitVec 32) : BitVec 8 :=
  BitVec.ofNat 8 ((List.range 8).foldl (fun u j => if bits m.toNat (4 * j + 3) (4 * j) ≠ 0 then u + 2 ^ j else u) 0)
/-- Slice and set of a frame (R41). -/
def sliceOf (pa : Nat) : Nat :=
  bits pa 13 9 ^^^ bits pa 18 14 ^^^ bits pa 23 19 ^^^ bits pa 28 24 ^^^ bits pa 33 29 ^^^ bits pa 38 34 ^^^ bits pa 43 39 ^^^
    bits pa 48 44 ^^^ bits pa 51 49
def l2Set (pa : Nat) : Nat := bits pa 22 14 ^^^ bits pa 31 23 ^^^ bits pa 40 32 ^^^ bits pa 49 41 ^^^ bits pa 51 50
/-- Two frames share a slice and a set. -/
def sameSet (a b : Nat) : Bool := sliceOf (512 * a) == sliceOf (512 * b) && l2Set (512 * a) == l2Set (512 * b)
/-- The frame slots of a frame's set. -/
def l2Same (s : State) (frame : Nat) : List (Nat × L2Slot) := s.l2.slots.filter fun e => sameSet e.1 frame
/-- The frame holds a slot, or its set of twelve ways has one free. -/
def l2Room (s : State) (frame : Nat) : Bool := (tfind s.l2.slots frame).isSome || (l2Same s frame).length < 12
/-- Nothing goes on at a frame. -/
def dirIdle (d : DirEnt) : Bool := d.opens.isEmpty && d.fwd.isEmpty && d.evict.isNone && d.snoops.isEmpty
/-- The frame slot that a full set gives up: the least recently used at which nothing goes on (log 7). -/
def l2Victim (s : State) (frame : Nat) : Option Nat :=
  (minBy (fun (x y : Nat × L2Slot) => x.2.lru < y.2.lru) ((l2Same s frame).filter fun e => dirIdle (dirOf s e.1))).map (·.1)
/-- An eviction goes on in the frame's set. -/
def l2Evicting (s : State) (frame : Nat) : Bool := (l2Same s frame).any fun e => (dirOf s e.1).evict.isSome

/-- Units of a frame come to its L2 slot, which is made in the lowest free way of its set and becomes the most recent. -/
def l2Install (s : State) (frame : Nat) (u own : BitVec 8) (dirty : BitVec 32) : State :=
  let stamp := s.l2.slots.foldl (fun m e => max m (e.2.lru + 1)) 0
  let k := (tfind s.l2.slots frame).getD { L2Slot.reset with way := lowestFree ((l2Same s frame).map fun e => e.2.way) 0 12 }
  let k := { k with units := k.units ||| u, own := k.own ||| own, dirty := k.dirty ||| dirty, lru := stamp }
  { s with l2 := { s.l2 with slots := tput s.l2.slots frame k } }

/-- A CXL.cache request goes to the host (R55). -/
def cxlSend (s : State) (k : CxlKind) (line : Nat) : State :=
  ({ s with l2 := { s.l2 with cxl := s.l2.cxl ++ [(k, line)] } }).wire (.cxlCacheResponse line)
/-- Lines of host memory leave the L2: written ones by dirty-evict, the others by clean-evict (R55). -/
def cxlEvict (s : State) (frame : Nat) (u : BitVec 8) (dirty : BitVec 32) : State :=
  (List.range 8).foldl (fun s j =>
    if !bitOf u.toNat j then s
    else cxlSend s (if (dirty &&& lineMask j) == 0 then .cleanEvict else .dirtyEvict) (8 * frame + j)) s

/-! ### Answers -/

/-- Sectors of a mask that an entry in one of these states covers. -/
def coveredMask (s : State) (ok : FzState → Bool) (frame : Nat) (m : BitVec 32) : BitVec 32 :=
  BitVec.ofNat 32 ((List.range 32).foldl (fun x i =>
    let pa := 512 * frame + 16 * i
    if hasSec m i && s.l2.fz.any (fun e => ok e.2.st && e.2.pbase ≤ pa && pa < e.2.pbase + 16 * e.2.sectors) then x + 2 ^ i
    else x) 0)
/-- The collision query that makes a request has read its first node: a collect waits for it, so it completes on the same tree (13 R311). -/
def queryReads (s : State) (r : Req) : Bool :=
  isCqe r.agent && match r.who with
    | .eng id _ => s.clusters.any fun c => c.2.cqe.any fun q => q.id == id && !q.nodes.isEmpty
    | _ => false
/-- Sectors of a request that a FROZEN entry covers (R63), for a query in progress a thawing one too. -/
def replicaMask (s : State) (r : Req) : BitVec 32 :=
  coveredMask s (fun x => x == .frozen || (x == .thawing && queryReads s r)) r.frame r.smask
/-- Sectors of a mask whose unit is poisoned by an uncorrectable error. -/
def ueMask (s : State) (frame : Nat) (m : BitVec 32) : BitVec 32 :=
  BitVec.ofNat 32 ((List.range 32).foldl (fun x i => if hasSec m i && isUe s (512 * frame + 16 * i) then x + 2 ^ i else x) 0)
/-- The FROZEN_WRITE subcode of a write request at the slice (R61). -/
def reqFrozen (s : State) (r : Req) : Option Nat :=
  let m := if r.bmask == 0 then r.smask else byteSectors r.bmask
  let subs := (List.range 32).filterMap fun i => if hasSec m i then frozenSub s (512 * r.frame + 16 * i) 16 else none
  if subs.isEmpty then none else some (if subs.all (· == 1) then 1 else 0)

/-- A write that has passed its own check point is an earlier write (R61; log 16): a core's store or atomic that was admitted, an engine's
at its port, the host's at the CXL port. A walker's update is checked here. -/
def passed (s : State) (r : Req) : Bool :=
  match r.who with
  | .lsu g op => match (s.group g).findPend op with
    | some p => p.ready
    | none => false
  | .store c id => (s.cluster c).storeQ.any fun e => e.id == id
  | .gsc _ _ | .eng _ _ => true
  | .host => true
  | _ => false
/-- The request locks its frame for an update of several frames (12 R289). -/
def locks (s : State) (r : Req) : Bool :=
  match r.who with
  | .eng id _ => match getEng s id with
    | some e => e.lock
    | none => false
  | _ => false

/-- Performs the bytes of a WrU. -/
def performWrU (s : State) (r : Req) : State :=
  ((List.range 512).foldl (fun (a : State × List Byte) i =>
    if r.bmask.toNat.testBit i then
      match a.2 with
      | b :: rest => (physWrite a.1 (512 * r.frame + i) [b], rest)
      | [] => a
    else a) (s, r.bytes)).1

/-- A whole 64-byte unit written by one request clears its poison (02 R23). -/
def clearWhole (s : State) (r : Req) : State :=
  (List.range 8).foldl (fun s j =>
    if bits r.bmask.toNat (64 * j + 63) (64 * j) == 2 ^ 64 - 1 then setUe s (512 * r.frame + 64 * j) false else s) s

/-- Performs one lane's atomic at the slice, that of the access's first piece not yet performed (07 R181), or a walk's swap of an entry. -/
def performAtm (s : State) (r : Req) : State :=
  match r.who with
  | .lsu g op =>
    match (s.group g).findPend op with
    | none => s
    | some p =>
      match p.pieces.head? with
      | none => s
      | some x =>
        let o := leNat (physRead s x.pa x.len)
        let s := match atomicNew p.op p.f x.len o (tget 0 p.vals x.lane) (tget 0 p.vals2 x.lane) x.lane p.pc.toNat with
          | some v => physWrite s x.pa (leBytes v x.len)
          | none => s
        let regs := s.regsOf (s.group g)
        let ws := (List.range (x.len / 4)).map fun j : Nat =>
          ({ isS := false, n := vNum regs (p.f.d.toNat + j), lane := x.lane, val := BitVec.ofNat 64 (o / 2 ^ (32 * j) % 2 ^ 32),
             poison := false } : RegWrite)
        s.modPend g op fun p => { p with res := p.res ++ ws }
  | .walk c asid region => walkSwap s c asid region r
  | _ => s

/-- Uncorrectable-error tags that an engine's write brings (05 R108). -/
def reqTags (s : State) (r : Req) : State :=
  match r.who with
  | .eng id k => match (getEng s id).bind fun e => e.out.find? fun o => o.1 == k with
    | some (_, x, pa) => tagUnits s pa x.tags
    | none => s
  | _ => s

/-- The host has read a range that is frozen, being frozen or thawing (R58, R63). -/
def hostRead (s : State) (frame : Nat) (m : BitVec 32) : State :=
  { s with l2 := { s.l2 with fz := s.l2.fz.map fun e =>
      if e.2.live && (sectorMask frame e.2.pbase (16 * e.2.sectors) &&& m) ≠ 0 then (e.1, { e.2 with hr := true }) else e } }

/-- A transaction closes: its write or grant is performed and its requester answered (R47, R52, R63). A collector never gets F (04 R88). -/
def dirFinish (s : State) (r : Req) (race : BitVec 32) : State :=
  let fm := replicaMask s r
  let ue := ueMask s r.frame r.smask
  let race := race &&& ~~~ fm
  let d := dirOf s r.frame
  let cache := if r.agent < 16 then some r.agent else if r.agent == 127 then some 16 else none
  let keep (s : State) (own : BitVec 8) (dirty : BitVec 32) : State :=
    if r.alloc then l2Install s r.frame (unitsOf r.smask) own dirty
    else if isHost (512 * r.frame) then
      cxlEvict s r.frame (unitsOf r.smask &&& ~~~ (tget L2Slot.reset s.l2.slots r.frame).units) dirty
    else s
  let split (s : State) (g : Grant) (f : BitVec 32) : State :=
    let s := if f == 0 then s else s.wire (.data { r with smask := f } .f 0 (ue &&& f))
    let m := r.smask &&& ~~~ f
    if m == 0 then s else s.wire (.data { r with smask := m } g race (ue &&& m))
  match r.kind with
  | .rdS =>
    let d := match cache with
      | some k => if (r.smask &&& ~~~ fm) == 0 then d else { d with sharers := d.sharers ||| BitVec.ofNat 17 (2 ^ k) }
      | none => d
    let s := keep (setDir s r.frame d) 0 0
    split (if r.agent == 127 then hostRead s r.frame r.smask else s) .s fm
  | .rdO | .upg =>
    let own := (List.range 32).foldl (fun o i => if hasSec r.smask i then tput o i (cache.getD 31) else o) d.owner
    let sh : BitVec 17 := if r.smask == BitVec.allOnes 32 then 0 else d.sharers
    let s := setDir s r.frame { d with owned := d.owned ||| r.smask, owner := own, sharers := sh }
    (keep s (unitsOf r.smask) 0).wire (.data r .o 0 ue)
  | .rdU =>
    split (keep s 0 0) .u (match r.who with
      | .gsc _ _ => 0
      | _ => fm)
  | .wrU =>
    let s := reqTags (clearWhole (performWrU s r) r) r
    (keep s (unitsOf r.smask) (byteSectors r.bmask)).wire (.data r .cmp 0 0)
  | .atm =>
    let s := if ue == 0 then performAtm s r else s
    (keep s (unitsOf r.smask) r.smask).wire (.data r .u 0 ue)

/-! ### Opening and closing (R48 to R52) -/

/-- The owners, other than the requester for a grant, that must give up sectors of a mask. -/
def ownersOf (d : DirEnt) (m : BitVec 32) (self : Nat) : List Nat :=
  dedup (((List.range 32).filter fun i => hasSec m i && hasSec d.owned i).filterMap fun i =>
    let o := tget 0 d.owner i
    if o == self || 16 ≤ o then none else some o)
/-- The lines of a mask that the host must give up: those it owns, and for a write those it may share. -/
def hostLines (d : DirEnt) (m : BitVec 32) (self : Nat) (excl : Bool) : List Nat :=
  (List.range 8).filter fun j => (m &&& lineMask j) ≠ 0 && self ≠ 16 &&
    ((excl && bitOf d.sharers.toNat 16) || (List.range 4).any fun k => hasSec d.owned (4 * j + k) && tget 0 d.owner (4 * j + k) == 16)
/-- Caches and host lines that a transaction recalls (R52): line j of the frame as 16 + j. A cache that reads a sector it owns writes it back itself (04
R71). -/
def recallsOf (d : DirEnt) (r : Req) : List Nat × List Nat × List Nat :=
  let excl := reqExcl r
  let self := if r.agent == 127 then 16 else match r.kind with
    | .rdO | .upg => r.agent
    | _ => 200
  let owners := ownersOf d r.smask self
  let sharers := if excl then (List.range 16).filter fun k => bitOf d.sharers.toNat k && k ≠ self && !owners.contains k else []
  (owners, sharers, hostLines d r.smask self excl)
/-- Recalls, invalidations and back-invalidates go out. -/
def sendRecalls (s : State) (frame : Nat) (m : BitVec 32) (keep : Bool) (t : RclFor) (x : List Nat × List Nat × List Nat) : State :=
  let s := x.1.foldl (fun s k => s.wire (.rcl k frame m keep t)) s
  let s := x.2.1.foldl (fun s k => s.wire (.inv k frame m t)) s
  x.2.2.foldl (fun s j => s.wire (.bisnpResponse (8 * frame + j) t)) s
/-- The answers they wait for. -/
def acksOf (x : List Nat × List Nat × List Nat) : List Nat := x.1 ++ x.2.1 ++ x.2.2.map (16 + ·)

/-- The 64-byte units that a transaction must have before it is performed: those its sectors lie in, save units that a write covers whole or
that it writes through to DRAM; of host memory a write must hold every line owned (R42, R55, 14 R327). -/
def fillOf (s : State) (r : Req) : BitVec 8 :=
  let k := tget L2Slot.reset s.l2.slots r.frame
  let u := unitsOf r.smask
  if isHost (512 * r.frame) then u &&& ~~~ (if reqExcl r then k.units &&& k.own else k.units)
  else
    let whole := BitVec.ofNat 8 ((List.range 8).foldl (fun u j => if bits r.bmask.toNat (64 * j + 63) (64 * j) == 2 ^ 64 - 1 then u + 2 ^ j else u) 0)
    let need := if r.kind == ReqKind.wrU then (if r.alloc then u &&& ~~~ whole else 0) else u
    need &&& ~~~ k.units
/-- The fills go out: a line is not asked for twice. -/
def sendFills (s : State) (r : Req) (u : BitVec 8) : State :=
  (List.range 8).foldl (fun s j =>
    let line := 8 * r.frame + j
    if !bitOf u.toNat j then s
    else if isHost (512 * r.frame) then
      let k : CxlKind := if reqExcl r then .readOwn else .read
      if s.l2.cxl.contains (k, line) then s else cxlSend s k line
    else (evCount s 0x22 none 1).wireOnce (.dramFill line)) s

/-- A request waits in the input buffer (R50). -/
def buffer (s : State) (t : Txn) : State :=
  { s with l2 := { s.l2 with inbuf := insertBy (fun a b => reqBefore a.req b.req) t s.l2.inbuf } }

/-- A frame's L2 slot is free, and so is its directory entry but for what waits in it (R42). -/
def evictDone (s : State) (frame : Nat) : State :=
  let k := tget L2Slot.reset s.l2.slots frame
  let s := { s with l2 := { s.l2 with slots := tdel s.l2.slots frame } }
  let s := if isHost (512 * frame) then cxlEvict (touchTails s (512 * frame) 512) frame k.units k.dirty else s
  modDir s frame fun d => { d with owned := 0, owner := [], sharers := 0, evict := none }
/-- A set without room gives up a frame slot: its copies in caches and at the host are taken back first (R42); F replicas stay (R63). -/
def evictFor (s : State) (frame : Nat) : State :=
  if l2Evicting s frame then s
  else match l2Victim s frame with
  | none => s
  | some v =>
    let d := dirOf s v
    let all := BitVec.allOnes 32
    let owners := ownersOf d all 200
    let x := (owners, (List.range 16).filter (fun k => bitOf d.sharers.toNat k && !owners.contains k), hostLines d all 200 true)
    if (acksOf x).isEmpty then evictDone s v
    else sendRecalls (setDir s v { d with evict := some (acksOf x) }) v all false .evict x

/-- Opens a transaction (R48): a write to a frozen byte faults; one whose frame finds no way waits in the input buffer (log 74); otherwise
recalls, invalidations and fills go out, or it closes at once. -/
def dirOpen (s : State) (r : Req) (race : BitVec 32) (since : Nat) : State :=
  match (if reqExcl r && !passed s r then reqFrozen s r else none) with
  | some u => s.wire (.flt r 7 u)
  | none =>
    let s := if r.alloc && !l2Room s r.frame then evictFor s r.frame else s
    if r.alloc && !l2Room s r.frame then buffer s { req := r, slot := 0, acks := [], fill := 0, race := race, since := since }
    else
      let s := if r.alloc then l2Install s r.frame 0 0 0 else s
      let d := dirOf s r.frame
      let x := recallsOf d r
      let u := fillOf s r
      let lock := locks s r
      if (acksOf x).isEmpty && u == 0 && !lock then dirFinish s r race
      else
        let n := lowestFree (d.opens.map (·.slot)) 0 4
        let now := (acksOf x).isEmpty && u == 0
        let t : Txn := { req := r, slot := n, acks := if now then [99] else acksOf x, fill := u, race := race, since := since }
        let s := setDir s r.frame { d with opens := d.opens ++ [t] }
        if now then s.wire (.data r .cmp 0 0)
        else
          let s := sendRecalls s r.frame r.smask (!reqExcl r) (.slot n) x
          sendFills (if u == 0 then s else evCount s 0x20 none 1) r u

/-- Requests in the input buffer that want sectors of a mask of a frame: a younger one does not pass them. -/
def bufferedAt (s : State) (frame : Nat) (m : BitVec 32) : Bool := s.l2.inbuf.any fun t => t.req.frame == frame && (t.req.smask &&& m) ≠ 0
/-- A request opens, queues behind what it collides with, or waits in the input buffer (R48, R50). -/
def dirPlace (s : State) (t : Txn) : State :=
  let d := dirOf s t.req.frame
  if bufferedAt s t.req.frame t.req.smask then buffer s t
  else if !collides d t.req.smask then dirOpen s t.req t.race t.since
  else if d.fwd.length < 8 then
    setDir s t.req.frame { d with fwd := insertBy (fun (a b : Txn) => reqBefore a.req b.req) t d.fwd }
  else buffer s t

/-- Opens the forwards of a frame that no longer collide, oldest first, and takes requests from the input buffer as entries of the queue
free (R49, R50). -/
def dirPump (s : State) (frame : Nat) : Nat → State
  | 0 => s
  | n + 1 =>
    let d := dirOf s frame
    let free := (List.range d.fwd.length).find? fun i =>
      match d.fwd[i]? with
      | none => false
      | some t => d.opens.length < 4 && (busyMask d &&& t.req.smask) == 0 && !(d.fwd.take i).any fun o => o.req.smask &&& t.req.smask ≠ 0
    match free.bind fun i => (d.fwd[i]?).map fun t => (i, t) with
    | some (i, t) => dirPump (dirOpen (setDir s frame { d with fwd := d.fwd.eraseIdx i }) t.req t.race t.since) frame n
    | none =>
      if 8 ≤ d.fwd.length then s
      else match s.l2.inbuf.find? fun t => t.req.frame == frame with
        | none => s
        | some t =>
          if t.req.alloc && !l2Room s frame then s else
          let s := { s with l2 := { s.l2 with inbuf := s.l2.inbuf.erase t } }
          dirPump (setDir s frame { d with fwd := insertBy (fun (a b : Txn) => reqBefore a.req b.req) t d.fwd }) frame n
/-- Everything of a frame that can open does. -/
def pump (s : State) (frame : Nat) : State := dirPump s frame ((dirOf s frame).fwd.length + 2 * s.l2.inbuf.length + 2)

/-- Requests that wait for a way of a frame's set are tried again, oldest first. -/
def wayKick (s : State) (frame : Nat) : Nat → State
  | 0 => s
  | n + 1 =>
    match s.l2.inbuf.find? fun t => t.req.alloc && sameSet t.req.frame frame && (tfind s.l2.slots t.req.frame).isNone with
    | none => s
    | some t =>
      let s := if l2Room s t.req.frame then s else evictFor s t.req.frame
      if !l2Room s t.req.frame then s
      else wayKick (dirPlace { s with l2 := { s.l2 with inbuf := s.l2.inbuf.erase t } } t) frame n

/-- Closes the open transactions of a frame that wait for nothing, or locks their frame; then what waits is looked at again. -/
def dirSettle (s : State) (frame : Nat) : Nat → State
  | 0 => s
  | n + 1 =>
    let d := dirOf s frame
    match d.opens.find? fun t => t.acks.isEmpty && t.fill == 0 with
    | none => wayKick (pump s frame) frame s.l2.inbuf.length
    | some t =>
      if locks s t.req then
        dirSettle ((setDir s frame { d with opens := d.opens.map fun x => if x.slot == t.slot then { x with acks := [99] } else x }).wire
          (.data t.req .cmp 0 0)) frame n
      else dirSettle (dirFinish (setDir s frame { d with opens := d.opens.erase t }) t.req t.race) frame n
/-- The same, for as many as there can be. -/
def settleDir (s : State) (frame : Nat) : State := dirSettle s frame 9

/-- The credits that an agent has at each slice (R50; log 74). -/
def credits : Nat := 4
/-- The requests of an agent that a slice holds unopened. -/
def heldAt (s : State) (agent slice : Nat) : Nat :=
  let mine (t : Txn) : Bool := t.req.agent == agent && sliceOf (512 * t.req.frame) == slice
  (s.l2.inbuf.filter mine).length + s.l2.dir.foldl (fun n e => n + (e.2.fwd.filter mine).length) 0
/-- An agent keeps a request, and those to its frame that it sends later, in their order. -/
def keepBack (s : State) (r : Req) : State :=
  let later (m : Msg) : Bool := match m with
    | .req q => q.agent == r.agent && q.frame == r.frame
    | _ => false
  { s with wires := s.wires.filter (fun m => !later m) ++ .req r :: s.wires.filter later }
/-- A request arrives at the directory: races are noted on both sides (R53), and it finds its place. An agent without credits at the slice keeps a
request that would wait there. -/
def dirArrive (s : State) (r : Req) : State :=
  if r.smask == 0 then s
  else
    let d := dirOf s r.frame
    let clash := collides d r.smask || bufferedAt s r.frame r.smask
    let s := if !clash && r.alloc && !l2Room s r.frame then evictFor s r.frame else s
    let waits := clash || (r.alloc && !l2Room s r.frame)
    if waits && credits ≤ heldAt s r.agent (sliceOf (512 * r.frame)) then keepBack s r
    else
      let d := dirOf s r.frame
      let here := s.l2.inbuf.filter fun t => t.req.frame == r.frame
      let race := (d.opens ++ d.fwd ++ here).foldl (fun m q => m ||| raceMask r q.req) 0
      let note (q : Txn) : Txn := if q.req.frame == r.frame then { q with race := q.race ||| raceMask q.req r } else q
      let s := setDir s r.frame { d with opens := d.opens.map note, fwd := d.fwd.map note }
      let s := { s with l2 := { s.l2 with inbuf := s.l2.inbuf.map note } }
      dirPlace (if clash then evCount s 0x21 none 1 else s) { req := r, slot := 0, acks := [], fill := 0, race := race, since := s.now }

/-- A collision query engine's read never enters the collision order (R43): what it gets, frozen replicas apart, its query takes for no frozen data (13
R311). -/
def cqeRead (s : State) (r : Req) : State :=
  let f := replicaMask s r
  let ue := ueMask s r.frame r.smask
  let part (s : State) (m : BitVec 32) (g : Grant) : State := if m == 0 then s else s.wire (.data { r with smask := m } g 0 (ue &&& m))
  part (part s f .f) (r.smask &&& ~~~ f) .u

/-! ### The steps -/

/-- Requests (R47, R52). -/
def evReq (k : ReqKind) (r : Req) (s : State) : State := if isCqe r.agent then cqeRead s r else dirArrive s { r with kind := k }
/-- A request from outside the part: the CXL port gives the host's its age (R44), and checks its writes against the freeze table (R61). -/
def portReq (k : ReqKind) (r : Req) (s : State) : State :=
  if r.agent ≠ 127 then evReq k r s
  else
    let r := { r with kind := k, who := .host, age := s.time.setWidth 24 }
    match (if reqExcl r then reqFrozen s r else none) with
    | some u => s.wire (.flt r 7 u)
    | none => evReq k r s
def evRds (r : Req) (s : State) : State := portReq .rdS r s
def evRdo (r : Req) (s : State) : State := portReq .rdO r s
def evUpg (r : Req) (s : State) : State := portReq .upg r s
def evRdu (r : Req) (s : State) : State := portReq .rdU r s
def evWru (r : Req) (s : State) : State := portReq .wrU r s
def evAtm (r : Req) (s : State) : State := portReq .atm r s

/-- Sectors that a cache owned, or the host, are owned by nobody. -/
def unown (d : DirEnt) (who : Nat) (m : BitVec 32) : DirEnt :=
  let mine := (List.range 32).filter fun i => hasSec m i && hasSec d.owned i && tget 0 d.owner i == who
  { d with owned := mine.foldl (fun o i => o &&& ~~~ BitVec.ofNat 32 (2 ^ i)) d.owned, owner := mine.foldl (fun o i => tput o i 31) d.owner }

/-- The instruction caches of a cluster hold some of these sectors of a frame. -/
def codeHeld (s : State) (c frame : Nat) (m : BitVec 32) : Bool :=
  (List.range 4).any fun j => (s.core (4 * c + j)).icache.any fun x => x.sec / 32 == frame && hasSec m (x.sec % 32)
/-- A write-back: the owner's sectors reach the L2, and it keeps them in S or not (R47). Sectors that the cache owns again by then stay its
own. A cluster whose instruction caches hold one of them is still told of later writes (06 R158, R159; log 97). -/
def evWb (c frame : Nat) (mask : BitVec 32) (keep : Bool) (s : State) : State :=
  let held := (slotsOfPhys (s.cluster c) frame).foldl (fun m e => m ||| e.2.dirty) (0 : BitVec 32)
  let s := modDir s frame fun d =>
    let d := unown d c (mask &&& ~~~ held)
    { d with sharers := if keep || codeHeld s c frame mask then d.sharers ||| BitVec.ofNat 17 (2 ^ c) else d.sharers }
  if (tfind s.l2.slots frame).isSome then l2Install s frame (unitsOf mask) 0 mask else s

/-- Open transactions over a line that the host has taken back must have it anew before they are performed, by CXL.cache (R55). -/
def snoopAgain (s : State) (x : Snoop) : State :=
  let frame := x.line / 8
  let u : BitVec 8 := BitVec.ofNat 8 (2 ^ (x.line % 8))
  let lacks (t : Txn) : Bool := (t.req.smask &&& lineMask (x.line % 8)) ≠ 0 && (t.fill &&& u) == 0 && (x.drop || reqExcl t.req)
  let ts := (dirOf s frame).opens.filter lacks
  let s := modDir s frame fun d => { d with opens := d.opens.map fun t => if lacks t then { t with fill := t.fill ||| u } else t }
  ts.foldl (fun s t =>
    let k : CxlKind := if reqExcl t.req then .readOwn else .read
    if s.l2.cxl.contains (k, x.line) then s else cxlSend s k x.line) s
/-- A host snoop that waits for nobody takes effect (R55): the host takes the line, or the device keeps it clean. -/
def snoopDone (s : State) (x : Snoop) : State :=
  let frame := x.line / 8
  let u : BitVec 8 := BitVec.ofNat 8 (2 ^ (x.line % 8))
  let s := snoopAgain (modDir s frame fun d => { d with snoops := d.snoops.filter fun y => y.line ≠ x.line }) x
  let s := if x.drop then touchTails s (64 * x.line) 64 else s
  { s with l2 := { s.l2 with slots := s.l2.slots.map fun e =>
      if e.1 == frame then (e.1, { e.2 with
        units := if x.drop then e.2.units &&& ~~~ u else e.2.units
        own := e.2.own &&& ~~~ u, dirty := e.2.dirty &&& ~~~ lineMask (x.line % 8) }) else e } }

/-- Answer k of a cache, or of the host's line k − 16, has come for what it served (R52, R55, R60). -/
def answered (s : State) (k frame : Nat) (t : RclFor) : State :=
  match t with
  | .slot n =>
    settleDir (modDir s frame fun d => { d with opens := d.opens.map fun x => if x.slot == n then { x with acks := x.acks.erase k } else x }) frame
  | .evict =>
    match (dirOf s frame).evict with
    | none => s
    | some l =>
      let l := l.erase k
      if l.isEmpty then
        let s := evictDone s frame
        wayKick (pump s frame) frame s.l2.inbuf.length
      else modDir s frame fun d => { d with evict := some l }
  | .snoop line =>
    match (dirOf s frame).snoops.find? fun x => x.line == line with
    | none => s
    | some x =>
      let x := { x with acks := x.acks.erase k }
      if x.acks.isEmpty then settleDir (snoopDone s x) frame
      else modDir s frame fun d => { d with snoops := d.snoops.map fun y => if y.line == line then x else y }
  | .freeze h =>
    let e := tget FzEnt.reset s.l2.fz h
    if e.st == .recalling then
      ({ s with l2 := { s.l2 with fz := tput s.l2.fz h { e with asked := e.asked.erase (k, frame) } } }).wireOnce
        (.freezeSliceReport h (sliceOf (512 * frame)))
    else s
  | .thaw h =>
    let e := tget FzEnt.reset s.l2.fz h
    let line := 8 * frame + (k - 16)
    if e.st == .thawing then
      let e := { e with bisnp := e.bisnp.filter fun r => !(r.1 ≤ line && line < r.2) }
      let s := { s with l2 := { s.l2 with fz := tput s.l2.fz h e } }
      if e.bisnp.isEmpty then s.wireOnce (.thawAck h) else s
    else s

/-- The frames that an engine's update has locked are released, each with its bytes of the write, if any (12 R289). ; host snoops that waited
for them go on (R55). -/
def unlock (s : State) (id : Nat) (bytes : Option (Sp (List Byte))) : State :=
  match getEng s id with
  | none => s
  | some e =>
    e.out.foldl (fun s o =>
      let fr := frameOf o.2.2
      let mine (t : Txn) : Bool := t.req.who == .eng id o.1
      match (dirOf s fr).opens.find? mine with
      | none => s
      | some t =>
        let s := modDir s fr fun d => { d with opens := d.opens.filter fun t => !mine t }
        let s := match bytes with
          | some b => dirFinish s { t.req with bytes := tget [] b o.1 } t.race
          | none => s
        let s := (dirOf s fr).snoops.foldl (fun s x => if x.acks.contains 98 then answered s 98 fr (.snoop x.line) else s) s
        wayKick (pump s fr) fr s.l2.inbuf.length) s

/-- A cache's answer to an Inv or Rcl reaches the directory. -/
def evAck (c frame : Nat) (t : RclFor) (s : State) : State := answered s c frame t

/-- The S and D sectors of a frame leave a cluster's cache, and its cores' instruction caches; frozen replicas stay (R71). -/
def dropShared (s : State) (c frame : Nat) (m : BitVec 32) : State :=
  let s := (slotsOfPhys (s.cluster c) frame).foldl (fun s e =>
    let x := e.2.mask (fun y => y == 1 || y == 2) &&& m
    if x == 0 then s else dropFrom s c e.1 x) s
  let frozen := (slotsOfPhys (s.cluster c) frame).foldl (fun m e => m ||| e.2.mask (· == 3)) (0 : BitVec 32)
  dropCode s c frame (m &&& ~~~ frozen)

/-- D sectors of a cluster's cache are written back and kept in S, with their poison (R71, R79). -/
def cleanPhys (s : State) (c frame : Nat) (m : BitVec 32) : State :=
  (slotsOfPhys (s.cluster c) frame).foldl (fun s e =>
    let dm := e.2.dirty &&& m
    if dm == 0 then s
    else (wbUe s frame (dm &&& e.2.ue)).modCluster c fun cl => { cl with slots := tput cl.slots e.1 (e.2.setMask dm 1) }) s

/-- Inv: the cache removes the sectors and acknowledges (R71). -/
def evInv (c frame : Nat) (mask : BitVec 32) (t : RclFor) (s : State) : State := (dropShared s c frame mask).wire (.ack c frame t)

/-- Rcl: owned sectors are written back and kept in S or dropped (R71, 03 R52). -/
def evRcl (c frame : Nat) (mask : BitVec 32) (keep : Bool) (t : RclFor) (s : State) : State :=
  let s := evWb c frame mask keep (cleanPhys s c frame mask)
  (if keep then s else dropShared s c frame mask).wire (.ack c frame t)

/-- The host has answered a back-invalidate of a line (R54), with the bytes of a line it held owned. -/
def evBisnpResponse (line : Nat) (bytes : List (BitVec 8)) (t : RclFor) (s : State) : State :=
  let frame := line / 8
  let m := lineMask (line % 8)
  let d := dirOf s frame
  let mine := (List.range 4).any fun k => hasSec d.owned (4 * (line % 8) + k) && tget 0 d.owner (4 * (line % 8) + k) == 16
  let s := if mine && isDram (64 * line) then physWrite s (64 * line) (bytes.take 64) else s
  answered (modDir s frame fun d => unown d 16 m) (16 + line % 8) frame t

/-- A line has come to the L2: every open transaction that it was awaited for has it, a write only when it is held owned. -/
def lineCame (s : State) (line : Nat) (own : Bool) : State :=
  let frame := line / 8
  let u : BitVec 8 := BitVec.ofNat 8 (2 ^ (line % 8))
  let s := if (tfind s.l2.slots frame).isSome then l2Install s frame u (if own then u else 0) 0 else s
  let got (t : Txn) : Txn := if own || !reqExcl t.req || isDram (64 * line) then { t with fill := t.fill &&& ~~~ u } else t
  settleDir (modDir s frame fun d => { d with opens := d.opens.map got }) frame

/-- The host has answered a CXL.cache request for a line, the oldest sent; given bytes are what it supplied (R55). -/
def evCxlCacheResponse (line : Nat) (bytes : List (BitVec 8)) (s : State) : State :=
  match s.l2.cxl.find? fun x => x.2 == line with
  | none => s
  | some (k, _) =>
    let s := { s with l2 := { s.l2 with cxl := s.l2.cxl.erase (k, line) } }
    let here := bitOf (tget L2Slot.reset s.l2.slots (line / 8)).units.toNat (line % 8)
    match k with
    | .cleanEvict | .dirtyEvict => s
    | .read | .readOwn =>
      lineCame (if isHost (64 * line) && !here then physWrite s (64 * line) (bytes.take 64) else s) line (k == .readOwn)

/-- DRAM has answered with a 64-byte unit, and inline ECC's finding in it (02 R23). -/
def evDramFill (line : Nat) (e : ErrKind) (s : State) : State :=
  let s := match e with
    | .none => s
    | .corrected => countDram s (line / 8) false
    | .uncorrectable => countDram (setUe s (64 * line) true) (line / 8) true
  lineCame s line false

/-- The host's snoop of a host line: before the answer its sectors are recalled from the cluster caches, or kept there in S, and an update that holds
the frame locked is done (98; R55). -/
def evHostSnoop (line : Nat) (drop : Bool) (s : State) : State :=
  let frame := line / 8
  let m := lineMask (line % 8)
  let d := dirOf s frame
  if !isHost (64 * line) || d.snoops.any (fun x => x.line == line) then s
  else
    let owners := ownersOf d m 200
    let sharers := if drop then (List.range 16).filter fun k => bitOf d.sharers.toNat k && !owners.contains k else []
    let locked := d.opens.any fun t => t.acks == [99] && (t.req.smask &&& m) ≠ 0
    let x : Snoop := { line := line, drop := drop, acks := owners ++ sharers ++ (if locked then [98] else []) }
    if x.acks.isEmpty then snoopDone s x
    else sendRecalls (setDir s frame { d with snoops := d.snoops ++ [x] }) frame m (!drop) (.snoop line) (owners, sharers, [])

/-- The slice has held a request for 2^22 ns (R44). -/
def overdue (s : State) (t : Txn) : Bool := t.since + 2 ^ 22 ≤ s.now
/-- The L2 watchdog retires such a request: it leaves where it waits and is answered with WATCHDOG (R44). -/
def evL2Watchdog (frame agent age : Nat) (s : State) : State :=
  let hit (t : Txn) : Bool := t.req.frame == frame && t.req.agent == agent && t.req.age.toNat == age % 2 ^ 24 && overdue s t
  let d := dirOf s frame
  match (d.opens ++ d.fwd ++ s.l2.inbuf).find? hit with
  | none => s
  | some t =>
    let s := setDir s frame { d with opens := d.opens.filter fun x => x.req ≠ t.req, fwd := d.fwd.filter fun x => x.req ≠ t.req }
    let s := { s with l2 := { s.l2 with inbuf := s.l2.inbuf.filter fun x => x.req ≠ t.req } }
    pump (s.wire (.flt t.req 21 0)) frame
/-- The watchdog's step of a request that is overdue is due. -/
def dueRetire (s : State) (t : Txn) : State :=
  if overdue s t then s.wireOnce (.l2Watchdog t.req.frame t.req.agent t.req.age.toNat) else s
/-- Requests that the L2 watchdog is due to retire. -/
def dueL2 (s : State) : State := (s.l2.dir.flatMap (fun e => e.2.opens ++ e.2.fwd) ++ s.l2.inbuf).foldl dueRetire s

/-- DRAM scrubbing finds an error in a 64-byte unit (02 R23). -/
def evDramScrub (line : Nat) (e : ErrKind) (s : State) : State :=
  if !isDram (64 * line) then s
  else match e with
    | .none => s
    | .corrected => countDram s (line / 8) false
    | .uncorrectable => countDram (setUe s (64 * line) true) (line / 8) true

def execRds (r : Req) (s : State) : Host.Outcome State Fault Refusal := .next (evRds r s)
def execRdo (r : Req) (s : State) : Host.Outcome State Fault Refusal := .next (evRdo r s)
def execUpg (r : Req) (s : State) : Host.Outcome State Fault Refusal := .next (evUpg r s)
def execRdu (r : Req) (s : State) : Host.Outcome State Fault Refusal := .next (evRdu r s)
def execWru (r : Req) (s : State) : Host.Outcome State Fault Refusal := .next (evWru r s)
def execAtm (r : Req) (s : State) : Host.Outcome State Fault Refusal := .next (evAtm r s)
def execWb (c frame : Nat) (mask : BitVec 32) (keep : Bool) (s : State) : Host.Outcome State Fault Refusal :=
  .next (evWb c frame mask keep s)
def execAck (c : Nat) (m : RclRef) (s : State) : Host.Outcome State Fault Refusal := .next (evAck c m.frame m.t s)
def execInv (c : Nat) (m : RclRef) (mask : BitVec 32) (s : State) : Host.Outcome State Fault Refusal := .next (evInv c m.frame mask m.t s)
def execRcl (c : Nat) (m : RclRef) (mask : BitVec 32) (keep : Bool) (s : State) : Host.Outcome State Fault Refusal :=
  .next (evRcl c m.frame mask keep m.t s)
def execBisnpResponse (r : SnoopRes) (s : State) : Host.Outcome State Fault Refusal := .next (evBisnpResponse r.line r.bytes r.t s)
def execCxlCacheResponse (line : Nat) (bytes : List (BitVec 8)) (s : State) : Host.Outcome State Fault Refusal :=
  .next (evCxlCacheResponse line bytes s)
def execDramFill (line : Nat) (e : ErrKind) (s : State) : Host.Outcome State Fault Refusal := .next (evDramFill line e s)
def execHostSnoop (line : Nat) (drop : Bool) (s : State) : Host.Outcome State Fault Refusal := .next (evHostSnoop line drop s)
def execL2Watchdog (frame agent age : Nat) (s : State) : Host.Outcome State Fault Refusal := .next (evL2Watchdog frame agent age s)
def execDramScrub (line : Nat) (e : ErrKind) (s : State) : Host.Outcome State Fault Refusal := .next (evDramScrub line e s)

end Sys2Proof.Machine
end

