-- ==== Sys2Proof/Machine/Lsu.lean ====
section
/-!
DEFINITION. Global accesses on the LSU path (07 R160 to R170, R181, R182): the checks at issue, translation with its walks (02 R31 to R36), the
commit of atomics and host stores (17 R402), fills (04 R72 to R75), the store queue and WC buffers (14 R327, 02 R29), the completion of
loads, stores and atomics, and fences (14 R340 to R344).
-/

namespace Sys2Proof.Machine

open Sys2Proof

/-! ### Checks at issue -/

/-- What a translated part of an access answers beyond its leaf (07 R167, R169, R182). -/
def partBad (op n a : Nat) (t : Tlb) (va : Nat) : Option (Nat × Nat) :=
  if isWindow (t.phys va) then
    if isAtomic op || isGsc op then some (9, 2) else if (n ≠ 4 && n ≠ 8) || a % n ≠ 0 then some (3, 0) else none
  else if t.mt == 2 && a % n ≠ 0 then some (3, 0) else none

/-- Translation finds the address misaligned for its memory type (07 R167). -/
def uncachedBad (c : Ctx) (s : State) (a n : Nat) : Bool :=
  (parts16 a n).any fun p => match xlatePeek s (clusterOf c.gr.core) c.gr.dasid p.1 (if isStore c.op then 1 else 0) with
    | .ok t => partBad c.op n a t p.1 == some (3, 0)
    | .fault _ _ => false

/-- The causes that one lane's global access finds at issue. R61 checks a store at address generation, and one to a sector that its cluster still owns by
ownership alone; the model lets the filter, once it knows of the entry, fault a store of the entry's ASID to such a sector too (DESIGN CHOICE, log
95). -/
def globalLane (c : Ctx) (s : State) (l : Nat) : List LaneCause :=
  let a := memAddr c l
  let n := accessSize c.op c.f
  let mk (k u : Nat) : LaneCause := { lane := l, cause := k, sub := u, addr := a }
  let hits := watchHits s (clusterOf c.gr.core) c.gr.dasid a n (isLoad c.op) (isStore c.op) false
  (if (isAtomic c.op && a % n ≠ 0) || uncachedBad c s a n then [mk 3 0] else []) ++
  (if noncanon a || 2 ^ 56 < a + n then [mk 8 1] else []) ++
  (if hits.any fun h => h.action == 0 then [mk 6 0] else []) ++
  (if isStore c.op && !isAtomic c.op then
    match filterSub s c.gr.dasid a n with
    | some u => [mk 7 u]
    | none => []
  else [])

/-- The cluster owns the sector of an address: ownership is the only check point of a store there (03 R61). -/
def ownsSector (s : State) (c pa : Nat) : Bool :=
  (slotsOfPhys (s.cluster c) (frameOf pa)).any fun e => e.2.st (sectorOf pa) == 2

/-- What the translation of one lane's access and the slices answer, without any access (17 R399). -/
def peekLane (s : State) (core asid kind op a n : Nat) : List (Nat × Nat) :=
  (parts16 a n).flatMap fun p =>
    match xlatePeek s (clusterOf core) asid p.1 kind with
    | .fault k u => [(k, u)]
    | .ok t => (partBad op n a t p.1).toList ++
      (if !isStore op || (!isAtomic op && t.mt == 0 && ownsSector s (clusterOf core) (t.phys p.1)) then []
        else ((frozenSub s (t.phys p.1) p.2).map fun u => (7, u)).toList)

/-- The causes of a global access at issue. -/
def globalCheck (c : Ctx) (s : State) : List LaneCause := memPois c ++ (lanesOf c.lanes).flatMap (globalLane c s)
/-- The causes that lanes without one find once another lane has one (R399). -/
def globalOthers (c : Ctx) (s : State) (ls : List Nat) : List LaneCause :=
  ls.flatMap fun l =>
    (peekLane s c.gr.core c.gr.dasid (if isStore c.op then 1 else 0) c.op (memAddr c l) (accessSize c.op c.f)).map fun k =>
      { lane := l, cause := k.1, sub := k.2, addr := memAddr c l }

/-- The WATCH records of an access: each watchpoint that logs writes its own, whatever another does (18 R437). -/
def watchRecs (s : State) (gr : Group) (asid op : Nat) (f : EForm) (addrs : List (Nat × Nat)) (seq pc : Nat) : State :=
  addrs.foldl (fun s e =>
    (watchHits s (clusterOf gr.core) asid e.2 (accessSize op f) (isLoad op) (isStore op) false).foldl (fun s h =>
      if h.holds then s else watchRecord s (clusterOf gr.core) gr.core gr.num seq pc h false) s) s
/-- Those of an instruction that issues. -/
def watchLog (c : Ctx) (s : State) : State :=
  watchRecs s c.gr c.gr.dasid c.op c.f ((lanesOf c.lanes).map fun l => (l, memAddr c l)) c.gr.seq.toNat c.pc.toNat
/-- A watchpoint stops the group at the access (18 R437). -/
def globalHalts (c : Ctx) (s : State) : Bool :=
  (lanesOf c.lanes).any fun l =>
    (watchHits s (clusterOf c.gr.core) c.gr.dasid (memAddr c l) (accessSize c.op c.f) (isLoad c.op) (isStore c.op) false).any
      fun h => h.action == 2

/-! ### Translation -/

/-- The translation a cache slot stands for: its tag, back-tag and permission bits (02 R31). -/
def slotTlb (k : CSlot) : Tlb :=
  { asid := k.asid, g := k.g, va := 512 * k.vframe, log := 9, pa := 512 * k.pback, r := true, w := k.wok, x := false, fzok := false,
    mt := 0, d := k.dset }

/-- A translation at hand: a cached sector needs none, and a buffered one serves, or what a walk has just found; none where a walk is needed. -/
def partHit (cl : Cluster) (asid va kind : Nat) (uncached : Bool) (v : Option Verdict) : Option XRes :=
  let cached := match findSlot cl asid (va / 512) with
    | some (_, k) => if !uncached && k.st (sectorOf va) ≠ 0 && (kind ≠ 1 || (k.wok && k.dset)) then some (XRes.ok (slotTlb k)) else none
    | none => none
  match cached with
  | some r => some r
  | none => xlook cl.tlb asid va kind v

/-- What translating an access has found so far. -/
structure Xl where
  pieces : List Piece
  miss : List WalkWait
  bad : List LaneCause
  deriving DecidableEq, Repr

/-- Translates one part of an access of a group. -/
def xlPart (s : State) (g : Nat) (p : Pend) (v : Option Verdict) (x : Xl) (lane a va len : Nat) : Xl :=
  let kind := if isStore p.op then 1 else 0
  let bad (k u : Nat) : Xl := { x with bad := x.bad ++ [{ lane := lane, cause := k, sub := u, addr := a }] }
  match partHit (s.cluster (clusterOf (s.group g).core)) p.asid va kind (isAtomic p.op || isGsc p.op) v with
  | some (.ok t) =>
    match partBad p.op (accessSize p.op p.f) a t va with
    | some (k, u) => bad k u
    | none =>
      if p.op == 0x20C && t.mt ≠ 0 then bad 0 0
      else { x with pieces := x.pieces ++ [{ lane := lane, ofs := va - a, pa := t.phys va, len := len, mt := t.mt, t := t }] }
  | some (.fault k u) => bad k u
  | none => { x with miss := x.miss ++ [{ va := va, kind := kind, who := if p.op == 0x20C then .pfg g p.id else .lsu g p.id }] }

/-- Translates every part of an access; a prefetch drops the lanes that a load would fault (07 R169). -/
def xlAll (s : State) (g : Nat) (p : Pend) (v : Option Verdict) : Xl :=
  let x := p.addrs.foldl (fun x e =>
    (parts16 e.2 (accessSize p.op p.f)).foldl (fun x q => xlPart s g p v x e.1 e.2 q.1 q.2) x) { pieces := [], miss := [], bad := [] }
  if p.op == 0x20C then
    { x with pieces := x.pieces.filter fun y => !x.bad.any fun b => b.lane == y.lane
             bad := [] }
  else x

/-- The causes of an access whose translation faults: what it found, and what its other lanes' translations answer (17 R399). -/
def xlCauses (s : State) (g : Nat) (p : Pend) (x : Xl) : List LaneCause :=
  x.bad ++ x.miss.flatMap fun w =>
    match p.addrs.find? fun e => e.2 ≤ w.va && w.va < e.2 + accessSize p.op p.f with
    | none => []
    | some e => (peekLane s (s.group g).core p.asid (if isStore p.op then 1 else 0) p.op e.2 (accessSize p.op p.f)).map fun k =>
        { lane := e.1, cause := k.1, sub := k.2, addr := e.2 }

/-- The virtual address at which a piece of an access lies. -/
def pieceVa (p : Pend) (x : Piece) : Nat := tget 0 p.addrs x.lane + x.ofs
/-- The access is on the LSU path to global memory and performs something. -/
def Pend.isGlobal (p : Pend) : Bool := p.isLsu && spaceOf p.op == some 0 && p.op ≠ 0x20C
/-- The access is performed at the L2 directly: UC memory, the register window, atomics (07 R166, R181). -/
def Piece.direct (atomic : Bool) (x : Piece) : Bool := atomic || x.mt == 2 || isWindow x.pa
/-- Two pieces share a byte; a bound piece shares none. -/
def Piece.meets (x y : Piece) : Bool := x.len ≠ 0 && y.len ≠ 0 && x.pa < y.pa + y.len && y.pa < x.pa + x.len

/-- An access precedes another at a bank: by age, then by core number, then in the order of issue (04 R68). -/
def bankBefore (a b : Nat × Nat × Pend) : Bool :=
  a.2.2.since < b.2.2.since || (a.2.2.since == b.2.2.since && (a.2.1 < b.2.1 || (a.2.1 == b.2.1 && a.2.2.id < b.2.2.id)))
/-- The LSU accesses of a cluster that wait for something before them are tried again, older first (04 R68). -/
def lsuWake (s : State) (c : Nat) : State :=
  (sortBy bankBefore ((s.groups.filter fun e => clusterOf e.2.core == c).flatMap fun e =>
    (e.2.pend.filter fun p => p.isLsu && spaceOf p.op == some 0 && (p.aux == 1 || p.aux == 4)).map fun p => (e.1, e.2.core, p))).foldl
      (fun s x => s.wireOnce (.instrComplete x.1 x.2.2.id)) s
/-- An access of a group takes a deferred fault; those that waited for it go on. -/
def lsuFault (s : State) (g id : Nat) (cs : List LaneCause) : State := lsuWake (deferFault s g id cs) (clusterOf (s.group g).core)

/-! ### The store queue -/

/-- One of an access's queued sectors is performed. -/
def storeDone (s : State) (g op : Nat) : State :=
  let s := s.modPend g op fun p => { p with left := p.left - 1 }
  let s := lsuWake s (clusterOf (s.group g).core)
  match (s.group g).findPend op with
  | some p => if p.left == 0 && p.pieces.isEmpty && p.aux == 2 then s.wireOnce (.instrComplete g op) else s
  | none => s

/-- A unit that one store covers whole loses its poison when the last of its sectors is performed (02 R23). -/
def cleanUnit (s : State) (c : Nat) (e : StoreEnt) : State :=
  let left := (s.cluster c).storeQ.any fun q => q.g == e.g && q.op == e.op && q.pa / 64 == e.pa / 64 && q.id ≠ e.id
  let more := match (s.group e.g).findPend e.op with
    | some p => p.pieces.any fun x => x.pa / 64 == e.pa / 64
    | none => false
  if !e.whole || left || more then s
  else
    let s := setUe s e.pa false
    (slotsOfPhys (s.cluster c) (frameOf e.pa)).foldl (fun s k =>
      s.modCluster c fun cl => { cl with slots := tput cl.slots k.1 { k.2 with ue := k.2.ue &&& ~~~ lineMask (e.pa % 512 / 64) } }) s

/-- Performs a queued store in a sector its cluster owns; the cluster's instruction caches lose the sector (06 R158). A store to host memory goes on to
the L2 and completes there, while the cluster keeps the sector in S (07 R166; log 78). -/
def performStore (s : State) (c : Nat) (e : StoreEnt) : State :=
  let s := e.bytes.foldl (fun s b => physWrite s b.1 [b.2]) s
  let s := match findSlot (s.cluster c) e.t.asid (e.va / 512) with
    | some (key, _) => touchSlot s c key (secMask e.pa)
    | none => s
  let s := cleanUnit (dropCode s c (frameOf e.pa) (secMask e.pa)) c e
  let s := if isHost e.pa then evWb c (frameOf e.pa) (secMask e.pa) true (cleanPhys s c (frameOf e.pa) (secMask e.pa)) else s
  storeDone s e.g e.op

/-- The queued sectors of a store's cached or WC pieces, in ascending lane order, each sector once with the highest lane's bytes, with the
first piece of the sector. -/
def storeEnts (p : Pend) (xs : List Piece) : List (Nat × Piece × Sp Byte) :=
  xs.foldl (fun (es : List (Nat × Piece × Sp Byte)) x =>
    let sec := x.pa / 16
    let v := tget 0 p.vals x.lane / 2 ^ (8 * x.ofs)
    let put (t : Sp Byte) : Sp Byte :=
      (List.range x.len).foldl (fun t i => tput t (x.pa + i) (BitVec.ofNat 8 (v / 2 ^ (8 * i)))) t
    if es.any fun e => e.1 == sec then es.map fun e => if e.1 == sec then (e.1, e.2.1, put e.2.2) else e
    else es ++ [(sec, x, put [])]) []
/-- The bytes that an access reaches in each virtual sector, as masks of 16. -/
def coverOf (p : Pend) : Sp Nat :=
  p.addrs.foldl (fun t e => (parts16 e.2 (accessSize p.op p.f)).foldl (fun t q =>
    tput t (q.1 / 16) (tget 0 t (q.1 / 16) ||| (2 ^ q.2 - 1) * 2 ^ (q.1 % 16))) t) []
/-- The access reaches every byte of the 64-byte unit of a virtual address. -/
def wholeUnit (cover : Sp Nat) (va : Nat) : Bool := (List.range 4).all fun j => tget 0 cover (va / 64 * 4 + j) == 0xFFFF

/-- The bytes that queued sectors write, those of the sectors in a mask. -/
def entMask (es : List StoreEnt) (q : BitVec 32) : BitVec 512 :=
  es.foldl (fun b e => if hasSec q (sectorOf e.pa) then e.bytes.foldl (fun b x => b ||| byteMask x.1 1) b else b) 0
/-- The sectors of queued stores. -/
def entSecs (es : List StoreEnt) : BitVec 32 := es.foldl (fun m e => m ||| secMask e.pa) 0

/-- Sends the ownership requests of queued stores, one for each frame and kind (04 R72, R75). -/
def sendOwn (s : State) (c : Nat) (ids : List Nat) : State :=
  let mine := (s.cluster c).storeQ.filter fun e => ids.contains e.id && !e.out && !e.wc
  let fresh := mine.filter fun e =>
    !(s.cluster c).storeQ.any fun q => q.id < e.id && q.pa == e.pa && !q.wc && (q.out || !ids.contains q.id)
  let s := (dedup (fresh.map fun e => frameOf e.pa)).foldl (fun s fr =>
    let es := fresh.filter fun e => frameOf e.pa == fr
    match es with
    | [] => s
    | e0 :: _ =>
      let present := heldMask s c e0.t.asid e0.va fr
      let m := entSecs es
      let req (k : ReqKind) (fill q : BitVec 32) : Req :=
        { newReq s k fr fill c (.store c e0.id) with bmask := entMask es q, sync := es.any fun e => e.sync }
      let ask (s : State) (k : ReqKind) (fill q : BitVec 32) : State :=
        if q == 0 then s
        else (addFill s c { who := .store c e0.id, frame := fr, mask := fill, t := { e0.t with d := true }, va := e0.va, pc := e0.pc, hint := 0 }).send
          (req k fill q)
      let miss := m &&& ~~~ present
      ask (ask s .upg (m &&& present) (m &&& present)) .rdO (bridge present miss 32 &&& ~~~ present) miss) s
  let out (e : StoreEnt) : StoreEnt := if ids.contains e.id && !e.wc then { e with out := true } else e
  s.modCluster c fun cl => { cl with storeQ := cl.storeQ.map out }

/-- Admits a store's sectors: those held in D are performed at once, the others enter the queue while it has room; the answer is the
sectors that found none. -/
def admitStores (s : State) (c g : Nat) (p : Pend) (es : List (Nat × Piece × Sp Byte)) : State × List Nat :=
  let cover := coverOf p
  let (s, ids, rest) := es.foldl (fun (a : State × List Nat × List Nat) e =>
    let (s, ids, rest) := a
    let (id, s) := s.fresh
    let pa := 16 * e.1
    let va := pieceVa p e.2.1 / 16 * 16
    let wc := e.2.1.mt == 1
    let ent : StoreEnt :=
      { id := id, g := g, op := p.id, pa := pa, va := va, t := e.2.1.t, bytes := e.2.2, sync := p.f.ord ≠ 0, out := false, wc := wc
        pc := p.pc.toNat, whole := !wc && wholeUnit cover va }
    let owned := match findSlot (s.cluster c) p.asid (va / 512) with
      | some (_, k) => k.pback == frameOf pa && k.st (sectorOf pa) == 2
      | none => false
    let more (s : State) : State := s.modPend g p.id fun p =>
      { p with left := p.left + 1, pieces := p.pieces.filter fun x => x.direct (isAtomic p.op) || x.pa / 16 ≠ e.1 }
    if !wc && owned && !(s.cluster c).storeQ.any fun q => q.pa == pa && !q.wc then (performStore (more s) c ent, ids, rest)
    else if (s.cluster c).storeQ.length < 64 then
      ((more s).modCluster c fun cl => { cl with storeQ := cl.storeQ ++ [ent] }, ids ++ [id], rest)
    else (s, ids, rest ++ [e.1])) (s, ([] : List Nat), ([] : List Nat))
  let s := sendOwn s c ids
  (if ids.any fun i => (s.cluster c).storeQ.any fun e => e.id == i && e.wc then s.wireOnce (.wcFlush c) else s, rest)

/-- The WC buffers of a cluster go to the L2, one WrU for each frame (02 R29). -/
def evWcFlush (c : Nat) (s : State) : State :=
  let es := (s.cluster c).storeQ.filter fun e => e.wc && !e.out
  let s := (dedup (es.map fun e => frameOf e.pa)).foldl (fun s fr =>
    let fs := es.filter fun e => frameOf e.pa == fr
    let b := fs.foldl (fun (t : Sp Byte) e => e.bytes.foldl (fun t x => tput t x.1 x.2) t) []
    match fs with
    | [] => s
    | e0 :: _ =>
      s.send { newReq s .wrU fr (entSecs fs) c (.store c e0.id) with
        bmask := entMask fs (BitVec.allOnes 32), sync := fs.any (fun e => e.sync), bytes := b.map (·.2) }) s
  let out (e : StoreEnt) : StoreEnt := if e.wc then { e with out := true } else e
  s.modCluster c fun cl => { cl with storeQ := cl.storeQ.map out }

/-! ### Performing -/

/-- The next directly performed piece of a store or atomic goes to the L2 or the register window; the next waits for its answer (02 R29). -/
def lsuDirect (s : State) (g id : Nat) : State :=
    let c := clusterOf (s.group g).core
    match (s.group g).findPend id with
    | none => s
    | some p =>
      match p.pieces with
      | [] => if p.left == 0 then s.wireOnce (.instrComplete g id) else s
      | x :: _ =>
        let v := tget 0 p.vals x.lane / 2 ^ (8 * x.ofs)
        if isAtomic p.op then
          s.send { newReq s .atm (frameOf x.pa) (secMask x.pa) c (.lsu g id) with
            bmask := byteMask x.pa x.len, sync := true, alloc := x.mt ≠ 2 }
        else if isWindow x.pa then
          let o := x.pa - winBase
          s.wire (.winWrite (o / 8 * 8)
            (BitVec.ofNat 64 (if x.len == 8 then v else v % 2 ^ 32 * 2 ^ (8 * (o % 8))))
            (if x.len == 8 then 0 else if o % 8 == 0 then 1 else 2) g id)
        else s.send { writeReq s x.pa (leBytes v x.len) c (.lsu g id) with sync := p.f.ord ≠ 0, alloc := false }
/-- A store's piece in the register window is performed: the sector leaves the instruction caches (06 R158), and the next piece goes. -/
def winDone (s : State) (g id : Nat) : State :=
  match (s.group g).findPend id with
  | none => s
  | some p =>
    let s := match p.pieces with
      | [] => s
      | x :: _ => (List.range 16).foldl (fun s c => dropCode s c (frameOf x.pa) (secMask x.pa)) s
    lsuDirect (s.modPend g id fun p => { p with pieces := p.pieces.drop 1 }) g id

/-- A byte as a load of the cluster reads it: the latest queued store's, else the coherent value (14 R327). -/
def loadByte (s : State) (c pa : Nat) : Byte :=
  (s.cluster c).storeQ.foldl (fun b e => if e.wc then b else (tfind e.bytes pa).getD b) (physByte s pa)
/-- n bytes so read. -/
def loadBytes (s : State) (c pa n : Nat) : Nat := leNat ((List.range n).map fun i => loadByte s c (pa + i))

/-- A piece of a load has its value: racy bytes poison the lane's registers (07 R166), and an uncorrectable error is a cause. -/
def bindPiece (s : State) (g id : Nat) (x : Piece) (race ue : Bool) : State :=
  let c := clusterOf (s.group g).core
  let v := if x.mt == 2 then leNat (physRead s x.pa x.len) else loadBytes s c x.pa x.len
  let upd (p : Pend) : Pend := { p with
    vals := tput p.vals x.lane (tget 0 p.vals x.lane + v * 2 ^ (8 * x.ofs))
    vals2 := if race then tput p.vals2 x.lane 1 else p.vals2
    bad := if ue then p.bad ++ [{ lane := x.lane, cause := 12, sub := 0, addr := tget 0 p.addrs x.lane }] else p.bad
    pieces := p.pieces.map fun y => if y.lane == x.lane && y.ofs == x.ofs then { y with len := 0 } else y }
  let s := match (s.group g).findPend id with
    | some p => match findSlot (s.cluster c) p.asid (pieceVa p x / 512) with
      | some (key, _) => if x.mt == 0 then touchSlot s c key (secMask x.pa) else s
      | none => s
    | none => s
  s.modPend g id upd

/-- The pieces of a load that the cluster's cache holds are served at once (04 R75). -/
def bindHits (s : State) (g id : Nat) : State :=
  let c := clusterOf (s.group g).core
  match (s.group g).findPend id with
  | none => s
  | some p => p.pieces.foldl (fun s x =>
    if x.mt ≠ 0 || x.len == 0 then s
    else match findSlot (s.cluster c) p.asid (pieceVa p x / 512) with
    | some (_, k) =>
      if k.pback == frameOf x.pa && k.st (sectorOf x.pa) ≠ 0 then bindPiece s g p.id x false (hasSec k.ue (sectorOf x.pa)) else s
    | none => s) s

/-- The UC pieces of a load are read one after the other, each by one transaction, or at once in the register window (02 R29). -/
def ucNext (s : State) (g id : Nat) : Nat → State
  | 0 => s
  | n + 1 =>
    match (s.group g).findPend id with
    | none => s
    | some p =>
      match p.pieces.find? fun x => x.mt == 2 && x.len ≠ 0 with
      | none => if p.pieces.all fun x => x.len == 0 then s.wireOnce (.instrComplete g id) else s
      | some x =>
        if isWindow x.pa then ucNext (bindPiece s g id x false false) g id n
        else s.send { readReq s x.pa x.len (clusterOf (s.group g).core) (.lsu g id) with sync := p.f.ord ≠ 0, alloc := false }

/-- The CACHE hints of an access that a fill carries (06 R142): 1, 2 and 3; 4 keeps the frame out of the L2 (log 96). -/
def fillHint (f : EForm) : Nat := if f.cache.toNat ≤ 3 then f.cache.toNat else 0
/-- WB pieces of a load that are not bound yet. -/
def unbound (s : State) (g id : Nat) : List Piece :=
  match (s.group g).findPend id with
  | some p => p.pieces.filter fun x => x.mt == 0 && x.len ≠ 0
  | none => []
/-- An access asks for sectors of a frame. -/
def lsuAsk (s : State) (g : Nat) (p : Pend) (k : ReqKind) (fr : Nat) (m : BitVec 32) : State :=
  (s.modPend g p.id fun p => { p with left := p.left + secCount m }).send
    { newReq s k fr m (clusterOf (s.group g).core) (if p.op == 0x20C then .pfg g p.id else .lsu g p.id) with
      sync := p.f.ord ≠ 0, alloc := k == ReqKind.rdS || p.f.cache ≠ 4 }
/-- The fills of a load or prefetch in one WB frame (04 R72 to R75): what the slot holds serves at once; frozen replicas of the fill set that stand
under other tags move to the slot (R81), and serve too; the sectors still lacking are asked for by RdS. -/
def fillFrame (s : State) (g : Nat) (p : Pend) (vframe frame : Nat) : State :=
  let core := (s.group g).core
  let c := clusterOf core
  let mine (xs : List Piece) : List Piece := xs.filter fun x => pieceVa p x / 512 == vframe && frameOf x.pa == frame
  let secs (xs : List Piece) : BitVec 32 := xs.foldl (fun m x => m ||| secMask x.pa) 0
  let hits (s : State) : State := if p.op == 0x20C then s else bindHits s g p.id
  let held (s : State) : BitVec 32 := heldMask s c p.asid (512 * vframe) frame
  let all := secs (mine p.pieces)
  match mine (unbound s g p.id) with
  | [] => s
  | x :: xs =>
    let touched := secs (x :: xs)
    if touched &&& ~~~ held s == 0 then s
    else
      let hint := fillHint p.f
      let want := if hint == 1 then touched else touched ||| fillSet s c p.asid (512 * vframe) frame p.pc.toNat p.f.span.toNat all
      let s := if hint == 1 then s else hits (moveF s c x.t (pieceVa p x) frame want p.pc.toNat)
      let miss := secs (mine (unbound s g p.id)) &&& ~~~ held s
      if miss == 0 then s
      else
        let m := want &&& ~~~ held s
        let s := evCount s (if miss == all then 4 else 5) (some core) 1
        let s := addFill s c { who := if p.op == 0x20C then .pfg g p.id else .lsu g p.id, frame := frame, mask := m, t := x.t, va := pieceVa p x
                               pc := p.pc.toNat, hint := hint }
        lsuAsk s g p .rdS frame m
/-- The fills of a load or prefetch, those of WB frames first, then RdU for WC sectors. -/
def lsuFill (s : State) (g : Nat) (p : Pend) : State :=
  let s := if p.op == 0x20C then s else bindHits s g p.id
  let wb := p.pieces.filter fun x => x.mt == 0
  let s := (dedup (wb.map fun x => (pieceVa p x / 512, frameOf x.pa))).foldl (fun s k => fillFrame s g p k.1 k.2) s
  let wc := p.pieces.filter fun x => x.mt == 1
  (dedup (wc.map fun x => frameOf x.pa)).foldl (fun s fr =>
    lsuAsk s g p .rdU fr ((wc.filter fun x => frameOf x.pa == fr).foldl (fun m x => m ||| secMask x.pa) 0)) s

/-- A load, store, atomic or prefetch of global memory completes (07 R166, R169, R181); the read of a trap frame is followed by the return (17
R420). -/
def lsuFinish (s : State) (g : Nat) (p : Pend) : State :=
  let gr := s.group g
  let regs := s.regsOf gr
  if p.op == 0x20C || (p.frame.isSome && isStore p.op) then lsuWake (finishPend s g p.id) (clusterOf gr.core)
  else if !p.bad.isEmpty then lsuFault s g p.id p.bad
  else if p.frame.isSome then lsuWake (returnFromTrap (finishPend s g p.id) g (frameRead p)) (clusterOf gr.core)
  else
    let n := accessSize p.op p.f
    let ws := if isStore p.op then p.res
      else p.addrs.flatMap fun e => loadWrites regs p.f n e.1 (tget 0 p.vals e.1) (tget 0 p.vals2 e.1 ≠ 0)
    lsuWake (finishPend (s.modGroup g fun gr => (p.put gr ws).nextIv (ordEvents p.f.ord)) g p.id) (clusterOf gr.core)

/-- Units of an atomic's lines that the L2 lacks are read before it commits. -/
def atomFill (s : State) (g : Nat) (p : Pend) : State :=
  let c := clusterOf (s.group g).core
  (dedup (p.pieces.map fun x => frameOf x.pa)).foldl (fun s fr =>
    let xs := p.pieces.filter fun x => frameOf x.pa == fr
    let m := xs.foldl (fun m x => m ||| secMask x.pa) (0 : BitVec 32)
    if (unitsOf m &&& ~~~ (tget L2Slot.reset s.l2.slots fr).units) == 0 then s
    else (s.modPend g p.id fun p => { p with left := p.left + secCount m }).send
      { newReq s .rdU fr m c (.lsu g p.id) with sync := true, alloc := xs.all fun x => x.mt ≠ 2 }) s

/-- The freeze table's answer to the sectors of a store that its cluster does not own (03 R61). -/
def storeFrozen (s : State) (g : Nat) (p : Pend) : List LaneCause :=
  p.pieces.filterMap fun x =>
    if !x.direct (isAtomic p.op) && x.mt == 0 && ownsSector s (clusterOf (s.group g).core) x.pa then none
    else (frozenSub s x.pa x.len).map fun u => { lane := x.lane, cause := 7, sub := u, addr := tget 0 p.addrs x.lane }

/-- An atomic or a store to host memory commits, and begins a region, once every check that could fault it is passed (17 R402). -/
def lsuCommit (s : State) (g : Nat) (p : Pend) : State :=
  let ue : List LaneCause := if isAtomic p.op then (p.pieces.filter fun x => isUe s x.pa).map fun x =>
    { lane := x.lane, cause := 12, sub := 0, addr := tget 0 p.addrs x.lane } else []
  let cs := storeFrozen s g p ++ ue ++ p.bad
  if !cs.isEmpty then lsuFault s g p.id cs
  else
    (s.modPend g p.id fun p => { p with holds := false, ready := true }).modGroup g fun gr => if gr.ended then gr else gr.enterRegion p.entry p.nextPc p.nextHdr

/-- UC accesses of a group are performed in issue order (02 R29). -/
def ucOk (gr : Group) (p : Pend) : Bool :=
  !(p.pieces.any fun x => x.mt == 2) ||
    (gr.pend.takeWhile fun q => q.id ≠ p.id).all fun q => !q.isGlobal || (q.aux ≠ 0 && q.pieces.all fun x => x.mt ≠ 2 || x.len == 0)

/-- Earlier accesses of the group to the same bytes are performed, at least in the cluster (07 R164); which bytes they are is known once they
are translated. -/
def sameBytesOk (s : State) (gr : Group) (p : Pend) : Bool :=
  (gr.pend.takeWhile fun q => q.id ≠ p.id).all fun q => !q.isGlobal ||
    (q.aux ≠ 0 && (q.pieces.all fun y => p.pieces.all fun x => !x.meets y) &&
      !(s.cluster (clusterOf gr.core)).storeQ.any fun e => e.wc && e.op == q.id && p.pieces.any fun x => x.pa / 16 == e.pa / 16)

/-- The cache banks at which an access's WB pieces are performed (04 R67). -/
def banksOf (p : Pend) : List Nat :=
  (p.pieces.filter fun x => x.mt == 0 && x.len ≠ 0 && !isAtomic p.op).map fun x => bankOf (pieceVa p x)
/-- An access stands at its banks: it is translated and waits for nothing before it, and a load has not got its data, a store not found room in the
queue. -/
def presented (s : State) (gr : Group) (q : Pend) : Bool :=
  let due := q.aux == 1 && q.left == 0 && gr.afterOk q && ucOk gr q && sameBytesOk s gr q
  q.isLsu && spaceOf q.op == some 0 && (due || q.aux == 4 || (q.aux == 2 && !isStore q.op && q.op ≠ 0x20C))
/-- No access that the core issued before to one of the access's banks is still to be performed there (04 R68; log 78). -/
def bankOk (s : State) (core : Nat) (p : Pend) : Bool :=
  s.groups.all fun e => e.2.core ≠ core || e.2.pend.all fun q =>
    !(q.id < p.id && presented s e.2 q && (banksOf q).any fun b => (banksOf p).contains b)
/-- Queued stores of the cluster to a sector that the access reaches at the L2, which its group or another can have read, are performed before it (14
R326, R331). -/
def queueOk (s : State) (g : Nat) (p : Pend) : Bool :=
  let xs := p.pieces.filter fun x => x.direct (isAtomic p.op)
  xs.isEmpty || !(s.cluster (clusterOf (s.group g).core)).storeQ.any fun e =>
    !e.wc && e.op ≠ p.id && e.id < p.drain.getD s.nextId && xs.any fun x => x.pa / 16 == e.pa / 16

/-- Admits what the store queue has room for, and goes on with what the L2 performs directly. -/
def lsuAdmit (s : State) (g : Nat) (p : Pend) : State :=
  let gr := s.group g
  let (s, rest) := admitStores s (clusterOf gr.core) g p (storeEnts p (p.pieces.filter fun x => !x.direct (isAtomic p.op)))
  let s := s.modPend g p.id fun p => { p with pieces := p.pieces.filter fun x => x.direct (isAtomic p.op) || rest.contains (x.pa / 16) }
  if !rest.isEmpty then s.modPend g p.id fun p => { p with aux := 4 }
  else
    let direct := p.pieces.any fun x => x.direct (isAtomic p.op) || x.mt == 1
    let s := s.modPend g p.id fun p => { p with aux := 2, sent := !direct }
    let s := if direct then s else gr.pend.foldl (fun s q => if q.afterSent.contains p.id then s.wireOnce (.instrComplete g q.id) else s) s
    lsuWake (lsuDirect s g p.id) (clusterOf gr.core)

/-- A translated access goes to memory, a store past its check point (03 R61), once everything before it is performed (14 R327 to R329). -/
def lsuIssue (s : State) (g id : Nat) : State :=
  let gr := s.group g
  match gr.findPend id with
  | none => s
  | some p =>
    if p.aux ≠ 1 || !gr.afterOk p || !ucOk gr p || !sameBytesOk s gr p || !bankOk s gr.core p then s
    else if !drainOk s g p || !queueOk s g p then drainMark s g p
    else if isStore p.op then
      let cs := if p.ready then [] else storeFrozen s g p
      if !cs.isEmpty then lsuFault s g id cs else lsuAdmit (s.modPend g id fun p => { p with ready := true }) g p
    else
      let s := lsuFill (s.modPend g id fun p => { p with aux := 2 }) g p
      if p.op == 0x20C then
        match (s.group g).findPend id with
        | some p => lsuWake (if p.left == 0 then s.wireOnce (.instrComplete g id) else s) (clusterOf gr.core)
        | none => s
      else ucNext s g id (p.pieces.length + 1)

/-- An access goes on from where it stands, by what a walk has just found too: translation, commit, performing, completion. -/
def lsuStep (s : State) (g id : Nat) (v : Option Verdict) : State :=
  let gr := s.group g
  let c := clusterOf gr.core
  match gr.findPend id with
  | none => s
  | some p =>
    if p.aux == 0 then
      let x := xlAll s g p v
      if !x.bad.isEmpty then lsuFault s g id (xlCauses s g p x)
      else if !x.miss.isEmpty then x.miss.foldl (fun s w => addWaiter s c p.asid w) s
      else
        let p := { p with aux := 1, pieces := x.pieces }
        let s := lsuWake (s.modPend g id fun _ => p) c
        let s := if isAtomic p.op then atomFill s g p else s
        match (s.group g).findPend id with
        | none => s
        | some p => if p.left ≠ 0 then s else lsuIssue (if p.holds then lsuCommit s g p else s) g id
    else if p.aux == 1 then
      if p.left ≠ 0 then s else lsuIssue (if p.holds then lsuCommit s g p else s) g id
    else if p.aux == 4 then lsuAdmit s g p
    else if isStore p.op then (if p.left ≠ 0 || !p.pieces.isEmpty then s else lsuFinish s g p)
    else if p.op == 0x20C then (if p.left ≠ 0 then s else lsuFinish s g p)
    else if p.pieces.all fun x => x.len == 0 then lsuFinish s g p else s

/-! ### Answers of the L2 -/

/-- Data arrives for an access of the LSU path (04 R75, 03 R63): its fill is installed, its pieces there are served, and an access that the L2 performs
goes on. -/
def lsuData (g op : Nat) (r : Req) (gr : Grant) (race ue : BitVec 32) (s : State) : State :=
  let c := clusterOf (s.group g).core
  let s := if r.kind == ReqKind.rdS then takeFill s c r.who r.frame r.smask race ue (if gr == Grant.f then 3 else 1) else s
  match (s.group g).findPend op with
  | none => s
  | some p =>
    let s := if race == 0 then s else evCount s 0x0C (some (s.group g).core) (secCount race)
    let cause (x : Piece) : LaneCause := { lane := x.lane, cause := 12, sub := 0, addr := tget 0 p.addrs x.lane }
    if isStore p.op && p.aux == 2 then
      if isAtomic p.op && ue ≠ 0 then lsuFault s g op ((p.pieces.take 1).map cause)
      else lsuDirect (s.modPend g op fun p => { p with pieces := p.pieces.drop 1 }) g op
    else
      let here := p.pieces.filter fun x => frameOf x.pa == r.frame
      let s := s.modPend g op fun p => { p with left := p.left - secCount r.smask }
      if isStore p.op then
        let s := s.modPend g op fun p => { p with bad := p.bad ++ (here.filter fun x => hasSec ue (sectorOf x.pa)).map cause }
        match (s.group g).findPend op with
        | some p => if p.left == 0 then s.wireOnce (.instrComplete g op) else s
        | none => s
      else
        let mt := if r.kind == ReqKind.rdS then 0 else if r.alloc || !p.pieces.any (fun x => x.mt == 2 && x.len ≠ 0 && frameOf x.pa == r.frame) then 1 else 2
        let got := here.filter fun x => x.mt == mt && x.len ≠ 0 && hasSec r.smask (sectorOf x.pa)
        let s := (if mt == 2 then got.take 1 else got).foldl (fun s x =>
          bindPiece s g op x (hasSec race (sectorOf x.pa)) (hasSec ue (sectorOf x.pa))) s
        let s := if p.f.cache == 2 then got.foldl (fun s x => hintSlot s c x.t.asid (pieceVa p x) 2) s else s
        let s := lsuWake s c
        if p.op == 0x20C then
          match (s.group g).findPend op with
          | some p => if p.left == 0 then s.wireOnce (.instrComplete g op) else s
          | none => s
        else if mt == 2 || !p.pieces.any fun x => x.mt == 2 && x.len ≠ 0 then ucNext s g op (p.pieces.length + 1)
        else s

/-- Data arrives for a cluster's store queue: an ownership grant installs its fill and performs the stores waiting there; a WC write is complete (03
R51). Where an invalidation has taken the fill's translation away, the sectors leave again once the stores are performed (02 R39); a grant that nobody
waits for then is given back. -/
def queueData (c id : Nat) (r : Req) (gr : Grant) (ue : BitVec 32) (s : State) : State :=
  let mine := (s.cluster c).storeQ.filter fun e =>
    frameOf e.pa == r.frame && hasSec r.smask (sectorOf e.pa) && e.wc == (gr == Grant.cmp) && (!e.wc || e.out)
  let s := s.modCluster c fun cl => { cl with storeQ := cl.storeQ.filter fun e => !mine.contains e }
  if gr == Grant.cmp then mine.foldl (fun s e => storeDone s e.g e.op) s
  else match findFill s c (.store c id) r.frame r.smask, mine with
  | some f, _ =>
    let s := install (endFill s c f r.smask) c f.t f.va r.frame r.smask ue 2 f.pc
    trimSlot (mine.foldl (fun s e => performStore s c e) s) c f.t.asid f.va
  | none, [] => s.wire (.wb c r.frame r.smask false)
  | none, e0 :: _ =>
    let s := mine.foldl (fun s e => performStore s c e) (install s c { e0.t with d := true } e0.va r.frame r.smask ue 2 e0.pc)
    match findSlot (s.cluster c) e0.t.asid (e0.va / 512) with
    | some (key, _) => dropFrom s c key r.smask
    | none => s

/-- The directory answers a request of the LSU path with a fault (03 R44, R61): a deferred fault of the access; a prefetch is over. -/
def lsuFlt (g op : Nat) (r : Req) (cause sub : Nat) (s : State) : State :=
  match (s.group g).findPend op with
  | none => s
  | some p =>
    let c := clusterOf (s.group g).core
    let s := match findFill s c r.who r.frame r.smask with
      | some f => endFill s c f r.smask
      | none => s
    let xs := p.pieces.filter fun x => frameOf x.pa == r.frame && hasSec r.smask (sectorOf x.pa)
    if p.op == 0x20C then finishPend s g op
    else lsuFault s g op ((if xs.isEmpty then p.pieces else xs).map fun x =>
      { lane := x.lane, cause := cause, sub := sub, addr := tget 0 p.addrs x.lane })
/-- The same for queued stores: those that the request stands for, of a frozen write the ones that meet the entry, leave the queue with what is left of
their instructions, each of whose lanes there faults; the others ask again. -/
def storeFlt (c id : Nat) (r : Req) (cause sub : Nat) (s : State) : State :=
  let s := match findFill s c (.store c id) r.frame r.smask with
    | some f => endFill s c f r.smask
    | none => s
  let hit := (s.cluster c).storeQ.filter fun e =>
    e.out && e.wc == (r.kind == ReqKind.wrU) && frameOf e.pa == r.frame && hasSec r.smask (sectorOf e.pa)
  let frozen := hit.filter fun e => cause == 7 && (frozenSub s e.pa 16).isSome
  let bad := if frozen.isEmpty then hit else frozen
  let keys := dedup (bad.map fun e => (e.g, e.op))
  let gone (e : StoreEnt) : Bool := keys.contains (e.g, e.op)
  let again := (hit.filter fun e => !gone e).map (·.id)
  let ask (e : StoreEnt) : StoreEnt := if again.contains e.id then { e with out := false } else e
  let s := s.modCluster c fun cl => { cl with storeQ := (cl.storeQ.filter fun e => !gone e).map ask }
  let s := sendOwn s c again
  let s := if again.isEmpty then s else s.wireOnce (.wcFlush c)
  lsuWake (keys.foldl (fun s k =>
    match (s.group k.1).findPend k.2 with
    | none => s
    | some p => lsuFault s k.1 k.2 (p.addrs.filterMap fun a =>
        if (parts16 a.2 (accessSize p.op p.f)).any fun y => bad.any fun e => e.op == k.2 && y.1 / 16 == e.va / 16 then
          some { lane := a.1, cause := cause, sub := sub, addr := a.2 } else none)) s) c

/-! ### The instructions of the LSU path -/

/-- A byte of the store goes to host memory, as translation stands at its issue (17 R402). -/
def storesHost (c : Ctx) (s : State) : Bool :=
  isStore c.op && (lanesOf c.lanes).any fun l => (parts16 (memAddr c l) (accessSize c.op c.f)).any fun x =>
    match xlatePeek s (clusterOf c.gr.core) c.gr.dasid x.1 1 with
    | .ok t => isHost (t.phys x.1)
    | .fault _ _ => false

/-- A global load, store or atomic: it is checked at issue and goes on by itself. -/
def globalSem : Meaning where
  check := globalCheck
  others := globalOthers
  notes := watchLog
  halts := globalHalts
  act c s :=
    let (id, s) := (watchLog c s).fresh
    (lsuStep (addPend s c.g { memPend c id s with holds := isAtomic c.op || storesHost c s }) c.g id none, true)

def ldgSem : Meaning := globalSem
def stgSem : Meaning := { globalSem with host := storesHost }
def atomGSem : Meaning := globalSem
def casGSem : Meaning := globalSem

/-- PFG (07 R169): lanes that a load would fault are dropped; it completes at issue when it starts no fill. -/
def pfgSem : Meaning where
  act c s :=
    let (id, s) := s.fresh
    let p := memPend c id s
    let ok := p.addrs.filter fun e => !resPois c e.1 && !noncanon e.2 && e.2 + accessSize c.op c.f ≤ 2 ^ 56
    let s := lsuStep (addPend s c.g { p with addrs := ok }) c.g id none
    match (s.group c.g).findPend id with
    | some p =>
      if p.aux == 2 && p.left == 0 then (s.modGroup c.g fun gr => { gr with pend := gr.pend.filter fun q => q.id ≠ id }, false)
      else (s, true)
    | none => (s, false)

/-! ### Fences (14 R340 to R344) -/

/-- The accesses that a fence's before set holds: those that must be complete, and those that need only be performed in the
cluster. -/
def fenceBefore (gr : Group) (t : Lanes) (lsu gsc readsOnly : Bool) (scope : Nat) : List Nat × List Nat :=
  gr.pend.foldl (fun (af, sent) q =>
    let mine := (q.entry &&& t) ≠ 0
    if q.op == 0x360 || q.op == 0x361 then (if mine then (af ++ [q.id], sent) else (af, sent))
    else if !mine || !q.isAccess || !(if isGsc q.op then gsc else lsu) then (af, sent)
    else if readsOnly && !isLoad q.op then (af, sent)
    else if scope ≤ 2 && !isGsc q.op then (af, sent ++ [q.id])
    else (af ++ [q.id], sent)) ([], [])

/-- The earlier LSU accesses of a group, which a release at device scope waits for. -/
def earlier (gr : Group) : List Nat := (fenceBefore gr (BitVec.allOnes 64) true false false 3).1

/-- The GSC windows that hold a request of the group close (04 R85). -/
def closeWindows (s : State) (g : Nat) : State :=
  let core := (s.group g).core
  (s.core core).gscWin.foldl (fun s e =>
    if !e.2.closed && e.2.reqs.any (fun r => r.g == g) then
      (s.modCore core fun k => { k with gscWin := tput k.gscWin e.1 { e.2 with force := true } }).wireOnce (.gscWindowTimeout core e.1)
    else s) s

/-- FENCE (R341). -/
def fenceSem : Meaning where
  act c s :=
    let (id, s) := s.fresh
    let (af, sent) := fenceBefore c.gr c.lanes true (c.f.modBit 1) (c.f.ord == 1) c.f.scope.toNat
    let s := if c.f.modBit 1 then closeWindows s c.g else s
    let s := s.wire (.wcFlush (clusterOf c.gr.core))
    let p := { newPend c id s with entry := c.lanes, after := af, afterSent := sent, aux := c.gr.last.toNat }
    ((addPend s c.g p).wire (.instrComplete c.g id), true)

/-- The engine commands a group has outstanding on the paths of an XFENCE's before set, as (path, id, PC): 2 BCE, 3 MXE, 4 CQE. -/
def engineCmds (s : State) (g : Nat) (paths : Nat) : List (Nat × Nat × Nat) :=
  let gr := s.group g
  (if bitOf paths 2 then ((s.core gr.core).bce.filter fun b => b.g == g).map fun b => (2, b.id, b.pc.toNat) else []) ++
  (if bitOf paths 3 then
    s.cores.flatMap (fun e => (e.2.tsch.filter fun o => o.g == g).map fun o => (3, o.id, o.pc.toNat)) ++
    (s.cluster (clusterOf gr.core)).baton.flatMap (fun e =>
      (e.2.batches.filter fun b => b.rows.any fun r => r.g == g).map fun b => (3, b.id, e.2.pc.toNat)) else []) ++
  (if bitOf paths 4 then ((s.cluster (clusterOf gr.core)).cqe.filter fun q => q.g == g).map fun q => (4, q.id, q.pc.toNat) else [])

/-- An engine command has not finished. -/
def cmdLive (s : State) (g : Nat) (k : Nat × Nat) : Bool := (engineCmds s g (2 ^ k.1)).any fun x => x.2.1 == k.2

/-- XFENCE (R343); both masks LSU alone act as FENCE.AR, and HACC commands count as GSC. -/
def xfenceSem : Meaning where
  act c s :=
    let (id, s) := s.fresh
    let b := c.f.b.toNat
    let (af, sent) := fenceBefore c.gr c.lanes (bitOf b 0) (bitOf b 1) false c.f.scope.toNat
    let hacc := if bitOf b 1 then (c.gr.pend.filter fun q => 0x276 ≤ q.op && q.op ≤ 0x278 && (q.entry &&& c.lanes) ≠ 0).map (·.id) else []
    let s := if bitOf b 1 then closeWindows s c.g else s
    let s := s.wire (.wcFlush (clusterOf c.gr.core))
    let p := { newPend c id s with entry := c.lanes, after := af ++ hacc, afterSent := sent, aux := c.gr.last.toNat
                                   vals := (engineCmds s c.g b).map fun k => (k.1, k.2.1)
                                   addrs := sortBy (fun (x y : Nat × Nat) => x.1 < y.1) ((engineCmds s c.g b).map fun k => k.2) }
    ((addPend s c.g p).wire (.instrComplete c.g id), true)

/-- A fence goes on: it completes when everything in its before set is performed, with its split-time record (18 R430), and counts as
a release, an acquire or both for the interval number (05 R109). -/
def fenceStep (s : State) (g : Nat) (p : Pend) : State :=
  let live := p.vals.filter (cmdLive s g)
  let gone := p.vals.filter fun k => !live.contains k
  let p := { p with vals := live, vals2 := match gone.getLast? with
    | some k => [(0, tget 0 p.addrs k.2)]
    | none => p.vals2 }
  if (s.group g).afterOk p && live.isEmpty && !drainOk s g p then
    (drainMark (s.modPend g p.id fun _ => p) g p).wire (.instrComplete g p.id)
  else if (s.group g).afterOk p && live.isEmpty then
    let gr := s.group g
    let both := p.op == 0x361 && p.f.b == 1 && p.f.c == 1
    let n := gr.fences + 1
    let ident := splitId 0x80 n.toNat
    let w := min (2 ^ 32 - 1) (aclkOf s (s.now - p.since))
    let s := leuth s 2 4 (gr.num * 2 ^ 40 + w) gr.core gr.num (p.aux * 2 ^ 16 + ident.toNat) (tget p.pc.toNat p.vals2 0) false false
    finishPend (s.modGroup g fun gr =>
      ({ gr with fences := n, last := ident }).nextIv (if both then 2 else if p.op == 0x361 then 0 else ordEvents p.f.ord)) g p.id
  else (s.modPend g p.id fun _ => p).wire (.instrComplete g p.id)

def execWcFlush (c : Nat) (s : State) : Host.Outcome State Fault Refusal := .next (evWcFlush c s)

/-! ### The instructions -/

/-- LDG_B (R166). -/
def execLdgB (f : BForm) (s : State) : Host.Outcome State Fault Refusal := issueB 0x200 f ldgSem s
/-- LDG_E (R166). -/
def execLdgE (f : EForm) (s : State) : Host.Outcome State Fault Refusal := issue 0x200 f ldgSem s
/-- STG_B (R166). -/
def execStgB (f : BForm) (s : State) : Host.Outcome State Fault Refusal := issueB 0x201 f stgSem s
/-- STG_E (R166). -/
def execStgE (f : EForm) (s : State) : Host.Outcome State Fault Refusal := issue 0x201 f stgSem s
/-- PFG_B (R169). -/
def execPfgB (f : BForm) (s : State) : Host.Outcome State Fault Refusal := issueB 0x20C f pfgSem s
/-- PFG_E (R169). -/
def execPfgE (f : EForm) (s : State) : Host.Outcome State Fault Refusal := issue 0x20C f pfgSem s
/-- ATOM_G (R181). -/
def execAtomG (f : EForm) (s : State) : Host.Outcome State Fault Refusal := issue 0x250 f atomGSem s
/-- CAS_G (R181). -/
def execCasG (f : EForm) (s : State) : Host.Outcome State Fault Refusal := issue 0x254 f casGSem s
/-- FENCE (R341). -/
def execFence (f : EForm) (s : State) : Host.Outcome State Fault Refusal := issue 0x360 f fenceSem s
/-- XFENCE (R343). -/
def execXfence (f : EForm) (s : State) : Host.Outcome State Fault Refusal := issue 0x361 f xfenceSem s

end Sys2Proof.Machine
end

