-- ==== Sys2Proof/Machine/Gsc.lean ====
section
/-!
DEFINITION. The gather/scatter collector (04 R83 to R88, 07 R168): acceptance of LDGC and STGC, windows, merging by frame, replies. The `frame` of GSC_REPLY is twice the frame number, plus one for an RdU's data.
-/

namespace Sys2Proof.Machine

open Sys2Proof

/-- Lane requests of a list: one for each lane of an instruction. -/
def gscCount (rs : List GscReq) : Nat := (dedup (rs.map fun r => (r.g, r.op, r.lane))).length
/-- Frames of a list. -/
def gscFrames (rs : List GscReq) : List Nat := dedup (rs.map fun r => frameOf r.pa)

/-- One request enters a window: the open one, or a new one when that has no room for it, or holds a load of its group that a store
overlaps (14 R328). The windows that filled are told, where no window is free as an error. -/
def gscPut (now : Nat) (r : GscReq) (a : Core × List Nat) : Except (List Nat) (Core × List Nat) :=
  let (k, full) := a
  let fits (w : GscWin) : Bool :=
    let rs := w.reqs ++ [r]
    gscCount rs ≤ 256 && (gscFrames rs).length ≤ 64 &&
      !(r.store.isSome && w.reqs.any fun q => q.g == r.g && q.store.isNone && (q.op ≠ r.op) && q.pa < r.pa + r.size && r.pa < q.pa + q.size)
  let fresh (k : Core) (full : List Nat) : Except (List Nat) (Core × List Nat) :=
    match (List.range 4).find? fun n => (tfind k.gscWin n).isNone with
    | none => .error full
    | some n =>
      let seq := k.gscWin.foldl (fun m e => max m (e.2.seq + 1)) 0
      let w : GscWin := { reqs := [r], since := now, seq := seq, force := false, closed := false, frames := [], race := [] }
      .ok ({ k with gscWin := tput k.gscWin n w }, full)
  match (k.gscWin.filter fun e => !e.2.closed && !e.2.force && !full.contains e.1).head? with
  | some (n, w) => if fits w then .ok ({ k with gscWin := tput k.gscWin n { w with reqs := w.reqs ++ [r] } }, full) else fresh k (full ++ [n])
  | none => fresh k full

/-- Every request of an instruction. -/
def gscPutAll (now : Nat) : List GscReq → Core × List Nat → Except (List Nat) (Core × List Nat)
  | [], a => .ok a
  | r :: rs, a => match gscPut now r a with
    | .error full => .error full
    | .ok b => gscPutAll now rs b

/-- A window is due to close: 64 fclk (40 ns) have passed since it opened, or something closes it before (R85). -/
def GscWin.due (w : GscWin) (now : Nat) : Bool := !w.closed && (w.force || w.since + 40 ≤ now)
/-- A window closes before its time. -/
def forceWin (core : Nat) (s : State) (n : Nat) : State :=
  match tfind (s.core core).gscWin n with
  | none => s
  | some w => (s.modCore core fun k => { k with gscWin := tput k.gscWin n { w with force := true } }).wireOnce (.gscWindowTimeout core n)

/-- The sectors of a frame that a window's loads read, or its stores write. -/
def GscWin.secs (w : GscWin) (frame : Nat) (store : Bool) : BitVec 32 :=
  (w.reqs.filter fun r => frameOf r.pa == frame && r.store.isSome == store).foldl (fun m r => m ||| sectorMask frame r.pa r.size) 0
/-- Sectors of a frame that a window's read, not yet answered, shares with another's write. -/
def GscWin.clash (r w : GscWin) (frame : Nat) : BitVec 32 := if r.frames.contains (2 * frame + 1) then r.secs frame false &&& w.secs frame true else 0
/-- At the cluster's port a window that closes meets the other cores' windows whose requests are not answered: reads that overlap a write there
are racy, whichever the port sends first (R86). -/
def gscPort (core win : Nat) (s : State) : State :=
  let others := (List.range 4).map (4 * clusterOf core + ·) |>.filter (· ≠ core)
  match tfind (s.core core).gscWin win with
  | none => s
  | some w =>
    let mark (t : Sp (BitVec 32)) (f : Nat) (m : BitVec 32) : Sp (BitVec 32) := if m == 0 then t else tput t f (tget 0 t f ||| m)
    let frames := gscFrames w.reqs
    let s := others.foldl (fun s x => s.modCore x fun k => { k with gscWin := k.gscWin.map fun e =>
      (e.1, if e.2.closed then { e.2 with race := frames.foldl (fun t f => mark t f (e.2.clash w f)) e.2.race } else e.2) }) s
    let race := others.foldl (fun t x => (s.core x).gscWin.foldl (fun t e => frames.foldl (fun t f =>
      if e.2.frames.contains (2 * f) then mark t f (w.clash e.2 f) else t) t) t) w.race
    s.modCore core fun k => { k with gscWin := tput k.gscWin win { w with race := race } }

/-- A window closes: its requests are merged by frame, and for each frame, in ascending address, one WrU and then one RdU go out (R86).
Loads that overlap a store of another group are poisoned. A frame that some request reaches through a UC leaf, or with CACHE 4, is not allocated in
the L2 (02 R29, 07 R168). -/
def closeWin (core win : Nat) (s : State) : State :=
  match tfind (s.core core).gscWin win with
  | none => s
  | some w =>
    let frames := sortBy (fun (a b : Nat) => a < b) (gscFrames w.reqs)
    let agent := gscAgent (clusterOf core)
    let s := evCount s 8 (some core) 1
    let (s, keys) := frames.foldl (fun (a : State × List Nat) fr =>
      let rs := w.reqs.filter fun r => frameOf r.pa == fr
      let b := rs.foldl (fun (t : Sp Byte) r => match r.store with
        | some v => (List.range r.size).foldl (fun t i => tput t (r.pa + i) (BitVec.ofNat 8 (v / 2 ^ (8 * i)))) t
        | none => t) []
      let wm := w.secs fr true
      let rm := w.secs fr false
      let req (k : ReqKind) (m : BitVec 32) : Req :=
        { newReq s k fr m agent (.gsc core win) with alloc := rs.all fun r => r.alloc }
      let (s, keys) := a
      let (s, keys) := if wm == 0 then (s, keys)
        else (s.send { req .wrU wm with bmask := b.foldl (fun m x => m ||| byteMask x.1 1) 0, bytes := b.map (·.2) }, keys ++ [2 * fr])
      if rm == 0 then (s, keys) else (s.send (req .rdU rm), keys ++ [2 * fr + 1])) (s, ([] : List Nat))
    let s := w.reqs.foldl (fun s r =>
      if r.store.isNone && w.reqs.any (fun q => q.store.isSome && q.g ≠ r.g && q.pa < r.pa + r.size && r.pa < q.pa + q.size) then
        s.modPend r.g r.op fun p => { p with vals2 := tput p.vals2 r.lane 1 }
      else s) s
    gscPort core win (s.modCore core fun k => { k with gscWin := tput k.gscWin win { w with closed := true, frames := keys } })

/-- A window closes when it is due (R85), after those that opened before it, so that what a group has in two windows goes out in its order (14 R328). -/
def evGscWindowTimeout (core win : Nat) (s : State) : State :=
  match tfind (s.core core).gscWin win with
  | none => s
  | some w =>
    if !w.due s.now then s
    else (sortBy (fun (a b : Nat × GscWin) => a.2.seq < b.2.seq)
      ((s.core core).gscWin.filter fun e => !e.2.closed && e.2.seq ≤ w.seq)).foldl (fun s e => closeWin core e.1 s) s

/-- The head of a collector's input queue leaves it. -/
def gscDrop (core : Nat) (s : State) : State :=
  let rest := (s.core core).gscIn.drop 1
  let s := s.modCore core fun k => { k with gscIn := rest }
  if rest.isEmpty then s else s.wireOnce (.gscInputDequeue core)

/-- The collector takes the instruction at the head of its input queue (R84), by what a walk has just found too: every lane translates and
passes the freeze filter, or it faults whole; it waits while the buffer has no room. Watchpoints
that log write their records at acceptance (18 R437). -/
def gscTake (core : Nat) (v : Option Verdict) (s : State) : State :=
  match (s.core core).gscIn with
  | [] => s
  | (g, id) :: _ =>
    let gr := s.group g
    match gr.findPend id with
    | none => gscDrop core s
    | some p =>
      if !gr.afterOk p then s
      else
        let x := xlAll s g p v
        let mk (l : Nat) (u : Nat) : LaneCause := { lane := l, cause := 7, sub := u, addr := tget 0 p.addrs l }
        let fz : List LaneCause := if !isStore p.op then []
          else (p.addrs.filterMap fun e => (filterSub s p.asid e.2 (accessSize p.op p.f)).map (mk e.1)) ++
            x.pieces.filterMap fun y => (frozenSub s y.pa y.len).map (mk y.lane)
        if !(x.bad ++ fz).isEmpty then gscDrop core (deferFault s g id (if x.bad.isEmpty then fz else xlCauses s g p x ++ fz))
        else if !x.miss.isEmpty then x.miss.foldl (fun s w => addWaiter s (clusterOf core) p.asid w) s
        else
          let used := (s.core core).gscWin.foldl (fun n e => n + gscCount e.2.reqs) 0
          let reqs : List GscReq := x.pieces.map fun y =>
            { g := g, op := id, num := gr.num, lane := y.lane, pa := y.pa, size := y.len
              store := if isStore p.op then some (tget 0 p.vals y.lane / 2 ^ (8 * y.ofs) % 2 ^ (8 * y.len)) else none
              alloc := y.mt ≠ 2 && p.f.cache ≠ 4 }
          if 256 < used + p.addrs.length then s
          else match gscPutAll s.now reqs (s.core core, []) with
            | .error full => full.foldl (forceWin core) s
            | .ok (k, full) =>
              let s := watchRecs (s.setCore core k) gr p.asid p.op p.f p.addrs p.seq.toNat p.pc.toNat
              let p' := { p with left := x.pieces.length, aux := 1, ready := true, pieces := x.pieces, holds := false, vals := if isStore p.op then p.vals else [] }
              let s := (s.modPend g id fun _ => p').modGroup g fun gr =>
                if p.holds && !gr.ended then gr.enterRegion p.entry p.nextPc p.nextHdr else gr
              let ends := full ++ (k.gscWin.filter fun e => !e.2.closed && 256 ≤ gscCount e.2.reqs).map (·.1)
              gscDrop core ((dedup ends).foldl (forceWin core) s)
/-- The collector's input queue goes on. -/
def evGscInputDequeue (core : Nat) (s : State) : State := gscTake core none s

/-- Replies of a window's frame reach its lanes (R87): loaded bytes and race tags are kept until the instruction completes, and an
uncorrectable error faults it. -/
def evGscReply (core win frame : Nat) (race : BitVec 32) (s : State) : State :=
  match tfind (s.core core).gscWin win with
  | none => s
  | some w =>
    if !w.frames.contains frame then s
    else
      let load := frame % 2 == 1
      let port := tget 0 w.race (frame / 2) &&& ~~~ race
      let s := if !load || port == 0 then s else evCount s 0x0C (some core) (secCount port)
      let race := race ||| port
      let rs := w.reqs.filter fun r => frameOf r.pa == frame / 2 && r.store.isNone == load
      let frames := w.frames.erase frame
      let s := s.modCore core fun k =>
        { k with gscWin := if frames.isEmpty then tdel k.gscWin win else tput k.gscWin win { w with frames := frames } }
      let s := rs.foldl (fun s r =>
        match (s.group r.g).findPend r.op with
        | none => s
        | some p =>
          if load && isUe s r.pa then
            let bad := rs.filter fun q => q.g == r.g && q.op == r.op && isUe s q.pa
            deferFault s r.g r.op (bad.map fun q => { lane := q.lane, cause := 12, sub := 0, addr := tget 0 p.addrs q.lane })
          else
            let ofs := ((p.pieces.find? fun x => x.lane == r.lane && x.pa == r.pa).map (·.ofs)).getD 0
            let s := s.modPend r.g r.op fun p => { p with
              left := p.left - 1
              vals := if load then tput p.vals r.lane (tget 0 p.vals r.lane + leNat (physRead s r.pa r.size) * 2 ^ (8 * ofs)) else p.vals
              vals2 := if load && hasSec race (sectorOf r.pa) then tput p.vals2 r.lane 1 else p.vals2 }
            if p.left ≤ 1 then s.wire (.instrComplete r.g r.op) else s) s
      if frames.isEmpty && !(s.core core).gscIn.isEmpty then s.wireOnce (.gscInputDequeue core) else s

/-- LDGC and STGC complete when every lane has its reply (R87). -/
def gscStep (s : State) (g : Nat) (p : Pend) : State :=
  if p.aux == 0 then s.wireOnce (.gscInputDequeue (s.group g).core)
  else if p.left ≠ 0 then s
  else
    let gr := s.group g
    let ws := if isStore p.op then [] else p.addrs.flatMap fun e =>
      loadWrites (s.regsOf gr) p.f (accessSize p.op p.f) e.1 (tget 0 p.vals e.1) (tget 0 p.vals2 e.1 ≠ 0)
    finishPend (s.modGroup g fun gr => p.put gr ws) g p.id

/-- LDGC and STGC (07 R168): checked at issue, they stall while the input queue of 16 is full. -/
def gscSem : Meaning where
  check := globalCheck
  others := globalOthers
  notes := watchLog
  halts := globalHalts
  stall c s := 16 ≤ (s.core c.gr.core).gscIn.length
  act c s :=
    let (id, s) := s.fresh
    let s := addPend s c.g { memPend c id s with holds := storesHost c s }
    ((s.modCore c.gr.core fun k => { k with gscIn := k.gscIn ++ [(c.g, id)] }).wireOnce (.gscInputDequeue c.gr.core), true)

def ldgcSem : Meaning := gscSem
def stgcSem : Meaning := { gscSem with host := storesHost }

/-- The directory answers a window's request with a fault: a deferred fault of every instruction that it serves. -/
def gscFlt (core win : Nat) (r : Req) (cause sub : Nat) (s : State) : State :=
  match tfind (s.core core).gscWin win with
  | none => s
  | some w =>
    let load := r.kind ≠ ReqKind.wrU
    let key := 2 * r.frame + (if load then 1 else 0)
    if !w.frames.contains key then s
    else
      let rs := w.reqs.filter fun q => frameOf q.pa == r.frame && q.store.isNone == load
      let frames := w.frames.erase key
      let s := s.modCore core fun k =>
        { k with gscWin := if frames.isEmpty then tdel k.gscWin win else tput k.gscWin win { w with frames := frames } }
      let s := (dedup (rs.map fun q => (q.g, q.op))).foldl (fun s k =>
        match (s.group k.1).findPend k.2 with
        | none => s
        | some p => deferFault s k.1 k.2 ((rs.filter fun q => q.g == k.1 && q.op == k.2).map fun q =>
            { lane := q.lane, cause := cause, sub := sub, addr := tget 0 p.addrs q.lane })) s
      if frames.isEmpty && !(s.core core).gscIn.isEmpty then s.wireOnce (.gscInputDequeue core) else s

def execGscInputDequeue (core : Nat) (s : State) : Host.Outcome State Fault Refusal := .next (evGscInputDequeue core s)
def execGscWindowTimeout (core win : Nat) (s : State) : Host.Outcome State Fault Refusal := .next (evGscWindowTimeout core win s)
def execGscReply (core win frame : Nat) (race : BitVec 32) (s : State) : Host.Outcome State Fault Refusal :=
  .next (evGscReply core win frame race s)

/-! ### The instructions -/

/-- LDGC_B (R168). -/
def execLdgcB (f : BForm) (s : State) : Host.Outcome State Fault Refusal := issueB 0x20A f ldgcSem s
/-- LDGC_E (R168). -/
def execLdgcE (f : EForm) (s : State) : Host.Outcome State Fault Refusal := issue 0x20A f ldgcSem s
/-- STGC_B (R168). -/
def execStgcB (f : BForm) (s : State) : Host.Outcome State Fault Refusal := issueB 0x20B f stgcSem s
/-- STGC_E (R168). -/
def execStgcE (f : EForm) (s : State) : Host.Outcome State Fault Refusal := issue 0x20B f stgcSem s

end Sys2Proof.Machine
end

