-- ==== Sys2Proof/Machine/Freeze.lean ====
section
/-!
DEFINITION. Range maintenance (04 R80, 07 R170, R171), the freeze table (03 R58 to R65) with FREEZE, THAW and FRZQ (07 R172 to R174) and their
steps, and the decrement of a dependence counter (12 R283).
-/

namespace Sys2Proof.Machine

open Sys2Proof

/-- A group-level instruction's cause, on its lowest active lane (07 R162; log 18). -/
def groupCause (c : Ctx) (cause sub addr : Nat) : List LaneCause :=
  (lanesOf (lowest c.lanes)).map fun l => { lane := l, cause := cause, sub := sub, addr := addr }
/-- A group-level instruction's s operand. -/
def sOp (c : Ctx) (n : BitVec 8) : Nat := (c.gr.getS n.toNat).toNat
/-- A pending instruction's result is fixed: its register is written when INSTR_COMPLETE comes. -/
def resolvePend (s : State) (g id : Nat) (res : List RegWrite) : State :=
  (s.modPend g id fun p => { p with ready := true, res := res }).wire (.instrComplete g id)
/-- The write of s[n]. -/
def sWrite (n : BitVec 8) (x : DWord) : RegWrite := { isS := true, n := n.toNat, lane := 0, val := x, poison := false }

/-! ### Dependence counters (12 R283) -/

/-- The queued operations of a core are looked at again (12 R282). -/
def kickTsch (s : State) (core : Nat) : State :=
  ((s.core core).tsch.filter fun o => o.st == .queued).foldl (fun s o =>
    s.wireOnce (.tschStart core o.id)) s
/-- The counter of a core. -/
def getDc (s : State) (core k : Nat) : DepCtr := tget DepCtr.reset (s.core core).dcs k
/-- The counter is in use by another context. -/
def dcBad (s : State) (core k asid : Nat) : Bool := (getDc s core k).value ≠ 0 && (getDc s core k).asid ≠ asid
/-- A completing command or task decrements a counter. -/
def decCounter (s : State) (core k : Nat) : State :=
  let d := getDc s core k
  let s := s.modCore core fun c => { c with dcs := tput c.dcs k (if d.value = 0 then { d with under := true } else { d with value := d.value - 1 }) }
  if d.value ≤ 1 then kickTsch s core else s
/-- The counter that field E names (07 R163). -/
def dcField (e : BitVec 8) : Option Nat := if e == 0 then none else some (e.toNat % 64)

/-! ### The mapped parts of a range -/

/-- Sectors of a frame that lie in some of the parts. -/
def partsMask (ps : List (Nat × Nat)) (frame : Nat) : BitVec 32 :=
  ps.foldl (fun m p => if p.1 < 512 * frame + 512 && 512 * frame < p.1 + p.2 then m ||| sectorMask frame p.1 p.2 else m) 0

/-! ### Range maintenance -/

/-- D sectors of a slot are written back at once and kept in S. -/
def cleanSlot (s : State) (c key : Nat) (m : BitVec 32) : State :=
  match tfind (s.cluster c).slots key with
  | none => s
  | some k =>
    let dm := k.dirty &&& m
    if dm == 0 then s
    else
      let s := wbUe s k.pback (dm &&& k.ue)
      evWb c k.pback dm true (s.modCluster c fun cl => { cl with slots := tput cl.slots key (k.setMask dm 1) })

/-- Maintains the sectors of a cluster's slots that a mask of slot and frame selects: D written back, then sectors in the given states
removed. -/
def maintain (s : State) (c : Nat) (sel : CSlot → BitVec 32) (gone : Nat → Bool) : State :=
  (s.cluster c).slots.foldl (fun s e =>
    let m := sel e.2
    if m == 0 then s
    else
      let s := cleanSlot s c e.1 m
      match tfind (s.cluster c).slots e.1 with
      | none => s
      | some k =>
        let d := k.mask gone &&& m
        if d == 0 then s else dropFrom s c e.1 d) s

/-- CFLUSH, CINV and CCLEAN act on the mapped sectors of the range (R80), and drop them from the instruction caches that they reach (06 R158). -/
def maintAct (s : State) (g : Nat) (p : Pend) (ps : List (Nat × Nat)) : State :=
  let gr := s.group g
  let sel (k : CSlot) : BitVec 32 := partsMask ps k.pback
  let reach := if p.op == 0x241 then [clusterOf gr.core] else List.range 16
  let s := reach.foldl (fun s c => dropCodeIf s c fun x => hasSec (partsMask ps (x.sec / 32)) (x.sec % 32)) s
  let s := match p.op with
    | 0x240 =>
      let s := (s.clusters.map (·.1)).foldl (fun s c => maintain s c sel fun x => x == 1) s
      { s with l2 := { s.l2 with slots := s.l2.slots.map fun e => (e.1, { e.2 with dirty := e.2.dirty &&& ~~~ partsMask ps e.1 }) } }
    | 0x241 => maintain s (clusterOf gr.core) sel fun x => x ≠ 0
    | _ => (s.clusters.map (·.1)).foldl (fun s c => maintain s c sel fun _ => false) s
  finishPend s g p.id

/-- The parts of a range found so far, and the address of the page that is to be walked next, if any. -/
structure RangeParts where
  parts : List (Nat × Nat)
  next : Option Nat
  deriving DecidableEq, Repr

/-- Range maintenance translates its range from a up to hi, page by page; what has no valid translation is skipped (R171). -/
def rangeParts (tlb : List Tlb) (asid hi : Nat) (v : Option Verdict) : Nat → Nat → List (Nat × Nat) → RangeParts
  | 0, a, ps => { parts := ps, next := some a }
  | n + 1, a, ps =>
    if hi ≤ a then { parts := ps, next := none }
    else match xlook tlb asid a 3 v with
    | none => { parts := ps, next := some a }
    | some (.ok t) => rangeParts tlb asid hi v n (t.va + 2 ^ t.log) (ps ++ [(t.phys a, min (t.va + 2 ^ t.log) hi - a)])
    | some (.fault _ _) =>
      let past := match tlbHit tlb asid a 3, v with
        | some t, _ => t.va + 2 ^ t.log
        | none, some v => v.hi
        | none, none => a + 4096
      rangeParts tlb asid hi v n (max past (a + 1)) ps

/-- CFLUSH, CINV or CCLEAN goes on: after the group's earlier accesses it walks its range, and acts when all of it is translated. -/
def maintStep (s : State) (g id : Nat) (v : Option Verdict) : State :=
  let gr := s.group g
  match gr.findPend id with
  | none => s
  | some p =>
    if !gr.afterOk p then s
    else
      let lo := tget 0 p.vals 0 / 16 * 16
      let hi := roundUp (tget 0 p.vals 0 + tget 0 p.vals 1) 16
      let c := clusterOf gr.core
      let r := rangeParts (s.cluster c).tlb p.asid hi v ((hi - lo) / 4096 + 2) (tget lo p.vals 2) p.addrs
      match r.next with
      | none => maintAct s g p r.parts
      | some a => addWaiter (s.modPend g id fun p => { p with addrs := r.parts, vals := tput p.vals 2 a }) c p.asid { va := a, kind := 3, who := .lsu g id }

/-- CFLUSH, CINV, CCLEAN (R170, R171). A range of length 0 whose s[A] is non-canonical meets two rows of R171, which gives no order; the model completes
it at issue (DESIGN CHOICE, log 98). -/
def maintSem : Meaning where
  check c _ :=
    if sOp c c.f.b ≠ 0 && 2 ^ 56 < sOp c c.f.a + sOp c c.f.b then groupCause c 8 1 (sOp c c.f.a)
    else if sOp c c.f.b ≠ 0 && noncanon (sOp c c.f.a) then groupCause c 8 1 (sOp c c.f.a) else []
  act c s :=
    if sOp c c.f.b == 0 then (s, false)
    else
      let (id, s) := s.fresh
      let (af, _) := fenceBefore c.gr c.entry true false false 3
      ((addPend s c.g { newPend c id s with vals := [(0, sOp c c.f.a), (1, sOp c c.f.b)], after := af }).wire (.instrComplete c.g id), true)

def cflushSem : Meaning := maintSem
def cinvSem : Meaning := maintSem
def ccleanSem : Meaning := maintSem

/-! ### The freeze table -/

/-- An entry of the table. -/
def getFz (s : State) (h : Nat) : FzEnt := tget FzEnt.reset s.l2.fz h
def setFz (s : State) (h : Nat) (e : FzEnt) : State := { s with l2 := { s.l2 with fz := tput s.l2.fz h e } }

/-- The gap between two ranges, in virtual addresses. -/
def rangeGap (a b : FRange) : Nat := if a.hi ≤ b.lo then b.lo - a.hi else if b.hi ≤ a.lo then a.lo - b.hi else 0
/-- Pairs of a list. -/
def pairsOf {α : Type} : List α → List (α × α)
  | [] => []
  | x :: r => r.map (fun y => (x, y)) ++ pairsOf r
/-- The ranges of a filter, the nearest two merged until 64 remain (R62). -/
def mergeRanges : Nat → List FRange → List FRange
  | 0, l => l
  | n + 1, l =>
    if l.length ≤ 64 then l
    else
      let ps := pairsOf l
      let same := ps.filter fun p => p.1.asid == p.2.asid
      let key (p : FRange × FRange) : Nat × Nat := (rangeGap p.1 p.2, min p.1.lo p.2.lo)
      match minBy (fun p q => (key p).1 < (key q).1 || ((key p).1 == (key q).1 && (key p).2 < (key q).2)) (if same.isEmpty then ps else same) with
      | none => l
      | some (a, b) =>
        mergeRanges n (((l.erase a).erase b) ++
          [{ asid := if a.asid == b.asid then a.asid else none, lo := min a.lo b.lo, hi := max a.hi b.hi }])
/-- Every cluster's filter, from the entries that it has acknowledged. -/
def refilter (s : State) : State :=
  let rs := mergeRanges 256 ((s.l2.fz.filter fun e => e.2.live && e.2.acked).map fun e =>
    { asid := some e.2.asid, lo := 16 * e.2.vbase, hi := 16 * (e.2.vbase + e.2.sectors) })
  (List.range 16).foldl (fun s c => s.modCluster c fun cl => { cl with filter := rs }) s

/-- What FREEZE finds of its range: the physical base, a fault, or the page whose translation it waits for. -/
inductive FzRange where
  | ok (pa : Nat)
  | bad (cause sub : Nat)
  | miss (va : Nat) (base : Option Nat)
  deriving DecidableEq, Repr

/-- FREEZE translates its range [va, hi) page by page from a on (R59), b the physical base found. Of a page that fails several conditions,
the answer is the first of: no W or FZOK, outside DRAM, not contiguous; the lowest page that fails decides. The spec gives no order
(log 72). -/
def freezeRange (tlb : List Tlb) (asid va hi : Nat) (v : Option Verdict) : Nat → Nat → Option Nat → FzRange
  | 0, a, b => .miss a b
  | n + 1, a, b =>
    if hi ≤ a then .ok (b.getD 0)
    else match xlook tlb asid a 0 v with
    | none => .miss a b
    | some (.fault k u) => .bad k u
    | some (.ok t) =>
      if !t.w || !t.fzok then .bad 9 0
      else if !isDram (t.phys a) then .bad 9 3
      else
        let base := b.getD (t.phys a)
        if t.phys a ≠ base + (a - va) then .bad 9 4
        else freezeRange tlb asid va hi v n (t.va + 2 ^ t.log) (some base)

/-- Waiters of FREEZE and THAW go on. -/
def fzWake (s : State) (w : FzWait) (res : State → Nat → Nat → List RegWrite) : State :=
  match w with
  | .instr g op => resolvePend s g op (res s g op)
  | .counter core k => decCounter s core k
  | .host seq => s.wire (.hcmdComplete seq 0)

/-- The table takes a FREEZE (R60): it joins an identical live entry, takes the lowest free one, or gets −1. -/
def freezeAccept (s : State) (g id asid va pa n : Nat) (d : BitVec 8) : State :=
  let same := s.l2.fz.find? fun e =>
    (e.2.st == .recalling || e.2.st == .frozen) && e.2.asid == asid && e.2.vbase == va / 16 && e.2.pbase == pa && e.2.sectors == n &&
      1 ≤ e.2.count && e.2.count ≤ 254
  match same with
  | some (h, e) =>
    let e := { e with count := e.count + 1 }
    if e.st == .frozen then resolvePend (setFz s h e) g id [sWrite d (BitVec.ofNat 64 h)]
    else setFz s h { e with fwait := e.fwait ++ [.instr g id] }
  | none =>
    match (List.range 256).find? fun h => (getFz s h).st == .free with
    | none => resolvePend s g id [sWrite d (BitVec.allOnes 64)]
    | some h =>
      (setFz s h { FzEnt.reset with
        vbase := va / 16, asid := asid, sectors := n, st := .recalling, count := 1, pbase := pa, slices := List.range 32
        fwait := [.instr g id] }).wire (.freezeAck h)

/-- The filters, slices, engine ports and the CXL port know of the entry (R60 step 1). In the model they all learn of it in this one step,
which is one of the outcomes that R60 leaves open (log 72). -/
def evFreezeAck (h : Nat) (s : State) : State :=
  let e := getFz s h
  if e.st ≠ .recalling || e.acked then s
  else (List.range 32).foldl (fun s i => s.wire (.freezeSliceReport h i)) (refilter (setFz s h { e with acked := true }))

/-- The entry covers a physical frame's sectors. -/
def fzMask (e : FzEnt) (frame : Nat) : BitVec 32 := sectorMask frame e.pbase (16 * e.sectors)

/-- A write that passed its check point before the entry reached it is not yet performed (R60 step 2). -/
def writesOpen (s : State) (e : FzEnt) (slice : Nat) : Bool :=
  let hit (pa n : Nat) : Bool := e.pbase < pa + n && pa < e.pbase + 16 * e.sectors && sliceOf pa == slice
  let waiting (r : Req) : Bool := sliceOf (512 * r.frame) == slice && reqExcl r && passed s r && (r.smask &&& fzMask e r.frame) ≠ 0
  s.clusters.any (fun c => c.2.storeQ.any fun q => hit q.pa 16) ||
  s.groups.any (fun g => g.2.pend.any fun p => isStore p.op && p.isAccess && spaceOf p.op == some 0 && p.ready && p.pieces.any fun x => hit x.pa x.len) ||
  s.dev.engs.any (fun x => x.2.write && x.2.out.any fun o => hit o.2.2 o.2.1.len) ||
  s.l2.dir.any (fun d => sliceOf (512 * d.1) == slice &&
    (d.2.opens.any (fun t => reqExcl t.req && (t.req.smask &&& fzMask e d.1) ≠ 0) || d.2.fwd.any fun t => waiting t.req)) ||
  s.l2.inbuf.any (fun t => waiting t.req) || s.wires.any fun m => match m with
    | .req r => waiting r
    | _ => false

/-- The part of a thawing entry in a frame that no other live entry covers (R64 step 1). -/
def collectMask (s : State) (h frame : Nat) : BitVec 32 :=
  s.l2.fz.foldl (fun m x => if x.1 ≠ h && x.2.live then m &&& ~~~ fzMask x.2 frame else m) (fzMask (getFz s h) frame)

/-- Lines of an aligned group of four in the largest blocks that a back-invalidate takes: four, two or one (R64 step 3). -/
def snpBlocks (l : Nat) (has : Nat → Bool) : List (Nat × Nat) :=
  let pair (a : Nat) : List (Nat × Nat) :=
    if has a && has (a + 1) then [(a, a + 2)] else (if has a then [(a, a + 1)] else []) ++ if has (a + 1) then [(a + 1, a + 2)] else []
  if (List.range 4).all fun i => has (l + i) then [(l, l + 4)] else pair l ++ pair (l + 2)
/-- The line ranges of a thawing entry's collect list. -/
def thawLines (s : State) (h : Nat) : List (Nat × Nat) :=
  let e := getFz s h
  let has (line : Nat) : Bool := (collectMask s h (line / 8) &&& lineMask (line % 8)) ≠ 0
  let a := e.pbase / 256
  let z := (e.pbase + 16 * e.sectors - 1) / 256
  (List.range (z - a + 1)).flatMap fun i => snpBlocks (4 * (a + i)) has

/-- The entry is thawing (R64): collects go out for the part that no other live entry covers, and back-invalidates when the host has
read. -/
def startThaw (s : State) (h : Nat) : State :=
  let e := getFz s h
  let s := setFz s h { e with st := .thawing }
  let lines := if e.hr then thawLines s h else []
  let s := setFz s h { e with st := .thawing, collects := List.range 16, bisnp := lines }
  let s := (List.range 16).foldl (fun s c => s.wire (.collect h c)) s
  lines.foldl (fun s l => s.wire (.bisnpResponse l.1 (.thaw h))) s

/-- The entry is FROZEN (R60 step 3): its FREEZEs complete, and a THAW that came meanwhile goes on. -/
def fzFrozen (s : State) (h : Nat) : State :=
  let e := getFz s h
  let s := setFz s h { e with st := .frozen, fwait := [] }
  let s := e.fwait.foldl (fun s w => fzWake s w fun s g op =>
    match (s.group g).findPend op with
    | some p => [sWrite p.f.d (BitVec.ofNat 64 h)]
    | none => []) s
  if e.count == 0 then startThaw s h else s

/-- A slice scans its entries: owned sectors of the range are recalled and kept in S (R60 step 2), each owner asked once at a time; a slice
with no owner and no earlier write left reports, and when every slice has, the entry is FROZEN. -/
def evFreezeSliceReport (h slice : Nat) (s : State) : State :=
  let e := getFz s h
  if e.st ≠ .recalling || !e.slices.contains slice then s
  else
    let s := s.l2.dir.foldl (fun s d =>
      let m := d.2.owned &&& fzMask e d.1
      if sliceOf (512 * d.1) ≠ slice || m == 0 then s
      else
        let asked := (getFz s h).asked
        let owners := (ownersOf d.2 m 200).filter fun k => !asked.contains (k, d.1)
        let lines := (hostLines d.2 m 200 false).filter fun j => !asked.contains (16 + j, d.1)
        let x := (owners, [], lines)
        if (acksOf x).isEmpty then s
        else
          let s := setFz s h { getFz s h with asked := asked ++ (acksOf x).map fun k => (k, d.1) }
          sendRecalls (evCount s 0x24 none 1) d.1 m true (.freeze h) x) s
    let e := getFz s h
    if e.asked.any fun x => sliceOf (512 * x.2) == slice then s
    else if (s.l2.dir.any fun d => sliceOf (512 * d.1) == slice && (d.2.owned &&& fzMask e d.1) ≠ 0) || writesOpen s e slice then
      s.wire (.freezeSliceReport h slice)
    else
      let e := { e with slices := e.slices.erase slice }
      let s := setFz s h e
      if e.slices.isEmpty then fzFrozen s h else s

/-- A cluster cache drops the F sectors of the collect list, its cores' instruction caches too, and acknowledges (04 R81, 06 R158). -/
def evCollect (h c : Nat) (s : State) : State :=
  let e := getFz s h
  if e.st ≠ .thawing || !e.collects.contains c then s
  else
    let s := dropCodeIf s c fun x => hasSec (collectMask s h (x.sec / 32)) (x.sec % 32)
    let s := maintain s c (fun k => k.mask (· == 3) &&& collectMask s h k.pback) fun x => x == 3
    let e := { e with collects := e.collects.erase c }
    let s := setFz s h e
    if e.collects.isEmpty then s.wireOnce (.thawAck h) else s

/-- A query in flight has read, or is about to read first, a node in the collect list. -/
def queryOver (s : State) (h c : Nat) (q : Query) : Bool :=
  q.started && !q.dropped && (0 :: tkeys q.nodes).any fun ix =>
    match xlatePeek s c q.asid (q.base + 16 * ix) 0 with
    | .ok t =>
      let pa := t.phys (q.base + 16 * ix)
      hasSec (collectMask s h (frameOf pa)) (sectorOf pa)
    | .fault _ _ => false
/-- An engine's query or load is in flight over the collect list: its port acknowledges the collect only after it (R64 step 2). -/
def readersOpen (s : State) (h : Nat) : Bool :=
  (s.clusters.any fun c => c.2.cqe.any (queryOver s h c.1)) ||
  s.dev.engs.any fun x => !x.2.write && x.2.out.any fun o =>
    (sectorMask (frameOf o.2.2) o.2.2 o.2.1.len &&& collectMask s h (frameOf o.2.2)) ≠ 0

/-- Every acknowledgement has arrived (R64 step 4): the entry is FREE, and THAW's flag or counter follows. -/
def evThawAck (h : Nat) (s : State) : State :=
  let e := getFz s h
  if e.st ≠ .thawing || !e.collects.isEmpty || !e.bisnp.isEmpty then s
  else if readersOpen s h then s.wire (.thawAck h)
  else
    let s := refilter { s with l2 := { s.l2 with fz := tdel s.l2.fz h } }
    e.twait.foldl (fun s w => fzWake s w fun _ _ _ => []) s

/-! ### FREEZE, THAW, FRZQ -/

/-- FREEZE goes on: after the group's earlier accesses, a device-wide release, its range is translated from where it stands, and the table
considers it (R60, R172). -/
def freezeStep (s : State) (g id : Nat) (v : Option Verdict) : State :=
  let gr := s.group g
  match gr.findPend id with
  | none => s
  | some p =>
    if p.aux ≠ 0 || !gr.afterOk p then s
    else if !drainOk s g p then (drainMark s g p).wire (.instrComplete g id)
    else
      let a := tget 0 p.vals 0
      let n := tget 0 p.vals 1
      let c := clusterOf gr.core
      match freezeRange (s.cluster c).tlb p.asid a (a + n) v (n / 4096 + 2) (tget a p.vals 2) (tfind p.vals 3) with
      | .bad k u => deferFault s g id ((lanesOf (lowest p.lanes)).map fun l => { lane := l, cause := k, sub := u, addr := a })
      | .miss va b =>
        let vals := tput p.vals 2 va
        addWaiter (s.modPend g id fun p => { p with vals := match b with
          | some b => tput vals 3 b
          | none => vals }) c p.asid { va := va, kind := 0, who := .lsu g id }
      | .ok pa => freezeAccept (s.modPend g id fun p => { p with aux := 1 }) g id p.asid a pa (n / 16) p.f.d

/-- FREEZE (R172). -/
def freezeSem : Meaning where
  check c _ :=
    let a := sOp c c.f.a
    let n := sOp c c.f.b
    if a % 16 ≠ 0 || n % 16 ≠ 0 || n == 0 then groupCause c 3 0 a
    else if noncanon a || 2 ^ 56 < a + n then groupCause c 8 1 a else []
  act c s :=
    let (id, s) := s.fresh
    let p := { newPend c id s with vals := [(0, sOp c c.f.a), (1, sOp c c.f.b)], after := earlier c.gr }
    (freezeStep (addPend s c.g p) c.g id none, true)

/-- The handle of THAW or FRZQ names an entry that THAW may take (R65). -/
def thawBad (s : State) (asid h : Nat) : Bool :=
  let e := getFz s h
  256 ≤ h || e.st == .free || e.st == .thawing || (e.st == .recalling && e.count == 0) || e.asid ≠ asid

/-- The table takes a THAW of an entry (R64), for these waiters. -/
def thawAccept (s : State) (h : Nat) (ws : List FzWait) : State :=
  let e := getFz s h
  let e := { e with count := e.count - 1 }
  if e.count ≠ 0 then ws.foldl (fun s w => fzWake s w fun _ _ _ => []) (setFz s h e)
  else
    let s := setFz s h { e with twait := e.twait ++ ws }
    if e.st == .frozen then startThaw s h else s

/-- THAW (R173). -/
def thawSem : Meaning where
  check c s :=
    (match dcField c.f.e with
      | some k => if dcBad s c.gr.core k (s.ctxOf c.gr) then groupCause c 1 0x12 0 else []
      | none => []) ++
    (if thawBad s c.gr.dasid (sOp c c.f.a) then groupCause c 1 0x0E 0 else [])
  sure c s := match dcField c.f.e with
    | some k => if dcBad s c.gr.core k (s.ctxOf c.gr) then groupCause c 1 0x12 0 else []
    | none => []
  act c s :=
    let (id, s) := s.fresh
    let s := addPend s c.g (newPend c id s)
    let ws := (match dcField c.f.e with
      | some k => [FzWait.counter c.gr.core k]
      | none => []) ++ [FzWait.instr c.g id]
    (thawAccept s (sOp c c.f.a) ws, true)

/-- The word FRZQ returns (R174). -/
def frzqWord (s : State) (asid h : Nat) : DWord :=
  let e := getFz s h
  if e.st == .free || e.asid ≠ asid then 0
  else
    let st : Nat := match e.st with
      | .free => 0
      | .recalling => 1
      | .frozen => 2
      | .thawing => 3
    BitVec.ofNat 64 (st * 2 ^ 62 + e.count * 2 ^ 54 + (if e.hr then 2 ^ 53 else 0) + e.sectors)

/-- FRZQ (R174): the table answers in the order it accepts. -/
def frzqSem : Meaning where
  check c _ := if 256 ≤ sOp c c.f.a then groupCause c 1 0x0E 0 else []
  act c s := pendReady c s [sWrite c.f.d (frzqWord s c.gr.dasid (sOp c c.f.a))]

def execFreezeAck (h : Nat) (s : State) : Host.Outcome State Fault Refusal := .next (evFreezeAck h s)
def execFreezeSliceReport (h slice : Nat) (s : State) : Host.Outcome State Fault Refusal := .next (evFreezeSliceReport h slice s)
def execCollect (h c : Nat) (s : State) : Host.Outcome State Fault Refusal := .next (evCollect h c s)
def execThawAck (h : Nat) (s : State) : Host.Outcome State Fault Refusal := .next (evThawAck h s)

/-! ### The instructions -/

/-- CFLUSH (R170). -/
def execCflush (f : EForm) (s : State) : Host.Outcome State Fault Refusal := issue 0x240 f cflushSem s
/-- CINV (R170). -/
def execCinv (f : EForm) (s : State) : Host.Outcome State Fault Refusal := issue 0x241 f cinvSem s
/-- CCLEAN (R170). -/
def execCclean (f : EForm) (s : State) : Host.Outcome State Fault Refusal := issue 0x242 f ccleanSem s
/-- FREEZE (R172). -/
def execFreeze (f : EForm) (s : State) : Host.Outcome State Fault Refusal := issue 0x243 f freezeSem s
/-- THAW (R173). -/
def execThaw (f : EForm) (s : State) : Host.Outcome State Fault Refusal := issue 0x244 f thawSem s
/-- FRZQ (R174). -/
def execFrzq (f : EForm) (s : State) : Host.Outcome State Fault Refusal := issue 0x245 f frzqSem s

end Sys2Proof.Machine
end

