-- ==== Sys2Proof/Machine/Engines.lean ====
section
/-!
DEFINITION. What engines share: tagged scratchpad writes (05 R108), the fences that hold their commands (14 R343), and share groups (05 R94 to
R96).
-/

namespace Sys2Proof.Machine

open Sys2Proof

/-- The flag of a pending command of a group, with whether it is one of the handler's (17 R405). -/
def pendFlag (s : State) (g id : Nat) : Option (Bool × Nat) :=
  match (s.group g).findPend id with
  | some p => p.flag.map fun k => (p.hm, k)
  | none => none

/-- Tags scratchpad sectors that received tagged bytes. -/
def tagCore (s : State) (core a : Nat) (tags : List Bool) : State :=
  (tags.zip (List.range tags.length)).foldl (fun s x =>
    if x.1 then s.modCore core fun c => { c with spUe := tput c.spUe ((a + x.2) / 16) true } else s) s
/-- The same in the chip scratchpad. -/
def tagChip (s : State) (a : Nat) (tags : List Bool) : State :=
  (tags.zip (List.range tags.length)).foldl (fun s x =>
    if x.1 then { s with chip := { s.chip with ue := tput s.chip.ue ((a + x.2) / 16) true } } else s) s
/-- An engine's write of chip scratchpad also clears the shadow records of its sectors (R111). -/
def engChip (s : State) (a : Nat) (b : List Byte) : State :=
  let s := chipWrite s a b
  { s with chip := { s.chip with shadow := s.chip.shadow.filter fun e => !(16 * e.1 < a + b.length && a < 16 * e.1 + 16) } }

/-- Engine commands that a pending XFENCE holds back (14 R343): the fences' ids. -/
def heldBy (c : Ctx) (path : Nat) : List Nat :=
  (c.gr.pend.filter fun q => q.op == 0x361 && (q.lanes &&& c.lanes) ≠ 0 && bitOf q.f.c.toNat path).map (·.id)
/-- The fences that hold a command are complete. -/
def heldOk (s : State) (g : Nat) (ids : List Nat) : Bool := ids.all fun i => ((s.group g).findPend i).isNone

/-! ### Share groups (05 R94 to R96) -/

/-- A free record. -/
def ShareRec.reset : ShareRec := { launch := 0, key := 0, slots := [] }
/-- A record of a cluster. -/
def getShare (s : State) (c r : Nat) : ShareRec := tget ShareRec.reset (s.cluster c).shares r
/-- The record and slot that a block holds on its cluster, whether its JOIN has completed or not. -/
def heldShare (s : State) (b : Nat) : Option (Nat × Nat) :=
  ((s.cluster (clusterOf (s.block b).core)).shares.flatMap fun e =>
    (e.2.slots.filter fun x => x.2.held && x.2.block == b).map fun x => (e.1, x.1)).head?

/-- LEAVE's first step: the slot is revoked in every core's map. -/
def shareRevoke (s : State) (b : Nat) : State :=
  match heldShare s b with
  | none => s
  | some (r, m) =>
    s.modCluster (clusterOf (s.block b).core) fun cl => { cl with shares := tmod ShareRec.reset cl.shares r fun x =>
      { x with slots := x.slots.map fun e => if e.1 == m then (e.1, { e.2 with revoked := true }) else e } }

/-- Accesses into the block's window that passed their check are still to be performed (LEAVE's second step). -/
def windowBusy (s : State) (b : Nat) : Bool :=
  match heldShare s b with
  | none => false
  | some (r, m) =>
    let bl := s.block b
    match tfind (getShare s (clusterOf bl.core) r).slots m with
    | none => false
    | some k =>
      s.groups.any fun g => g.2.pend.any fun p => spaceOf p.op == some 2 && p.pieces.any fun x =>
        x.ofs == bl.core && bl.spBase + k.base ≤ x.pa && x.pa < bl.spBase + k.base + k.len

/-- LEAVE's third step: the slot, and with its last slot the record, is free. -/
def shareFree (s : State) (b : Nat) : State :=
  let c := clusterOf (s.block b).core
  let s := match heldShare s b with
    | none => s
    | some (r, m) =>
      let k := getShare s c r
      let slots := k.slots.map fun (e : Nat × ShareSlot) => if e.1 == m then (e.1, { e.2 with held := false }) else e
      s.modCluster c fun cl =>
        { cl with shares := if slots.any (fun e => e.2.held) then tput cl.shares r { k with slots := slots } else tdel cl.shares r }
  s.modBlock b fun x => { x with share := none }

/-- JOIN (07 R175): the record and slot are taken at issue; the block is a member when every core has the mapping. -/
def joinSem : Meaning where
  check c s :=
    let bl := s.block c.gr.block
    let a := sOp c c.f.a
    let n := sOp c c.f.b
    (if (heldShare s c.gr.block).isSome then groupCause c 1 0x0F 0 else []) ++
    (if n == 0 || a % 4096 ≠ 0 || n % 4096 ≠ 0 then groupCause c 3 0 a else []) ++
    (if bl.spSize < a + n then groupCause c 4 0 a else [])
  act c s :=
    let bl := s.block c.gr.block
    let cl := clusterOf bl.core
    let key := c.f.c.toNat
    let shares := (s.cluster cl).shares
    let rec_ := match shares.find? fun e => e.2.launch == c.gr.launch && e.2.key == key with
      | some e => some e
      | none => ((List.range 8).find? fun r => (tfind shares r).isNone).map fun r => (r, ({ launch := c.gr.launch, key := key, slots := [] } : ShareRec))
    let slot := rec_.bind fun e => (List.range 4).find? fun m => match tfind e.2.slots m with
      | some k => !k.held
      | none => true
    match rec_, slot with
    | some (r, k), some m =>
      let (id, s) := s.fresh
      let new : ShareSlot := { held := true, revoked := false, block := c.gr.block, base := sOp c c.f.a, len := sOp c c.f.b }
      let k := { k with slots := tput k.slots m new }
      let s := s.modCluster cl fun x => { x with shares := tput x.shares r k }
      ((addPend s c.g { newPend c id s with vals := [(0, r), (1, m)] }).wire (.joinComplete c.g id), true)
    | _, _ => pendReady c s [sWrite c.f.d (BitVec.allOnes 64)]

/-- Every core of the cluster has the mapping. -/
def evJoinComplete (g op : Nat) (s : State) : State :=
  match (s.group g).findPend op with
  | none => s
  | some p =>
    if p.op ≠ 0x246 || p.vals.isEmpty then s
    else
      let m := tget 0 p.vals 1
      let s := s.modBlock (s.group g).block fun b => { b with share := some (tget 0 p.vals 0, m) }
      finishPend (s.modGroup g fun gr => applyRes gr [sWrite p.f.d (BitVec.ofNat 64 m)]) g op

/-- LEAVE (07 R176). -/
def leaveSem : Meaning where
  check c s := if (s.block c.gr.block).share.isNone then groupCause c 1 0x0F 0 else []
  act c s :=
    let (id, s) := s.fresh
    ((addPend (shareRevoke s c.gr.block) c.g (newPend c id s)).wire (.leaveComplete c.g id), true)

/-- The slot that a block holds is marked revoked. -/
def shareRevoked (s : State) (b : Nat) : Bool :=
  (heldShare s b).any fun x => (tfind (getShare s (clusterOf (s.block b).core) x.1).slots x.2).any (·.revoked)
/-- The window's accesses are performed: the slot frees and LEAVE completes; a slot that the block has joined since another LEAVE of it freed this one's
stays. -/
def evLeaveComplete (g op : Nat) (s : State) : State :=
  match (s.group g).findPend op with
  | none => s
  | some p =>
    if p.op ≠ 0x247 then s
    else if !shareRevoked s (s.group g).block then finishPend s g op
    else if windowBusy s (s.group g).block then s.wire (.leaveComplete g op)
    else finishPend (shareFree s (s.group g).block) g op

def execJoinComplete (g op : Nat) (s : State) : Host.Outcome State Fault Refusal := .next (evJoinComplete g op s)
def execLeaveComplete (g op : Nat) (s : State) : Host.Outcome State Fault Refusal := .next (evLeaveComplete g op s)

/-! ### The instructions -/

/-- JOIN (R175). -/
def execJoin (f : EForm) (s : State) : Host.Outcome State Fault Refusal := issue 0x246 f joinSem s
/-- LEAVE (R176). -/
def execLeave (f : EForm) (s : State) : Host.Outcome State Fault Refusal := issue 0x247 f leaveSem s

end Sys2Proof.Machine
end

