-- ==== Sys2Proof/Machine/Tiles.lean ====
section
/-!
DEFINITION. Tile slots (05 R98 to R104) with TDEF, TCOPY, TSTORE and TSTAT (07 R177 to R179), the computing of ALLZERO and ALLFINITE, and the
bulk copy engine (05 R105 to R108).
-/

namespace Sys2Proof.Machine

open Sys2Proof

/-! ### Elements of a slot -/

/-- Element width of a slot format. -/
def fmtWidth (fmt : Nat) : Nat := typeWidth fmt
/-- A byte of a row. -/
def rowByte (row : List Byte) (i : Nat) : Nat := (row.getD i 0).toNat
/-- Element j of packed bytes, of width w (08 R185). -/
def packedAt (row : List Byte) (w j : Nat) : Nat :=
  if w == 4 then (rowByte row (j / 2) / 2 ^ (4 * (j % 2))) % 16 else leNat ((row.drop (j * w / 8)).take (w / 8))
/-- The bits of an element encode zero. -/
def elemZero (fmt x : Nat) : Bool := if isFloat fmt then (fmtOf fmt).mag x == 0 else x == 0
/-- The bits of an element are no infinity and no NaN. -/
def elemFinite (fmt x : Nat) : Bool := !isFloat fmt || !((fmtOf fmt).isNan x || (fmtOf fmt).isInf x)

/-- Stored elements of a row, with the block scale byte of each where the format has them (08 R188, 12 R274). -/
def rowElems (fmt spars cols : Nat) (row : List Byte) : List (Nat × Nat) :=
  let w := fmtWidth fmt
  if spars == 0 then
    (List.range cols).map fun j => (packedAt row w j, if fmt == 5 then rowByte row (cols / 2 + j / 32) else 0)
  else
    (List.range (cols / 64)).flatMap fun k =>
      let line := (row.drop (128 * k)).take 128
      let pos := leNat (line.take 8)
      let at_ := (List.range 64).filter fun p => pos.testBit p
      (List.range (16 * spars)).map fun j =>
        (packedAt (line.drop 16) w j, if fmt == 5 then rowByte line (if at_.getD j 0 < 32 then 9 else 10) else 0)

/-- Some element makes the slot not ALLFINITE. -/
def elemBad (fmt : Nat) (e : Nat × Nat) : Bool := !elemFinite fmt e.1 || (fmt == 5 && e.2 == 255)

/-- The rows of a slot as the scratchpad holds them. -/
def slotRows (s : State) (core : Nat) (t : Tile) (base : Nat) : List (List Byte) :=
  (List.range t.nRows).map fun i => peeks (s.core core).sp (base + i * t.pitch) t.rowB
/-- AZ and AF as computed from the slot's bytes (R104). -/
def slotFlags (s : State) (core : Nat) (t : Tile) (base : Nat) : Bool × Bool :=
  let es := (slotRows s core t base).flatMap (rowElems t.fmt t.spars t.nCols)
  (es.all (fun e => elemZero t.fmt e.1 && !(t.fmt == 5 && e.2 == 255)), es.all fun e => !elemBad t.fmt e)

/-- A fill of a slot ends: READY, with its flags, or 0 with TAINT or after a copy that brought tagged bytes (R101, R104, R108). -/
def slotReady (s : State) (core p : Nat) (tagged : Bool) : State :=
  let t := getTile s core p
  let fl := if t.taint || tagged then (false, false) else slotFlags s core t (tileBase s core p t)
  modTile s core p fun t => { t with st := .ready, az := fl.1, af := fl.2, taint := false }
/-- A fill stops: EMPTY with flags 0 (R101). -/
def slotEmpty (s : State) (core p : Nat) : State :=
  modTile s core p fun t => { t with st := .empty, az := false, af := false, taint := false }

/-! ### TDEF and TSTAT -/

/-- A format that the engines accept sparse (12 R270). -/
def sparseOk (fmt : Nat) : Bool := [1, 2, 3, 4, 5, 8, 9, 10, 11].contains fmt
/-- The descriptor breaks a rule of BAD_TILE (R100). -/
def tileBad (t : Tile) : Bool :=
  t.cols == 0 || t.rows == 0 || (t.unit32 && (127 < t.cols || 127 < t.rows)) || t.fmt == 12 || t.fmt == 13 ||
  (t.spars ≠ 0 && (!sparseOk t.fmt || t.nCols % 64 ≠ 0)) || (t.spars == 0 && t.fmt == 5 && t.nCols % 32 ≠ 0) ||
  (t.spars == 0 && (t.fmt == 10 || t.fmt == 11) && t.nCols % 2 ≠ 0) || t.pitch < t.rowB

/-- TDEF (R177). -/
def tdefSem : Meaning where
  sure c s := if (tilePhys (s.block c.gr.block) c.f.d.toNat).isNone then groupCause c 4 0 0 else []
  stall c s := tileHeld s c c.f.d.toNat
  check c s :=
    let bl := s.block c.gr.block
    let t := tdefTile c.gr c.f
    if (tilePhys bl c.f.d.toNat).isNone then groupCause c 4 0 0
    else
      (if tileBad t then groupCause c 1 0x10 0 else []) ++
      (if t.base % (if t.spars == 0 then 16 else 128) ≠ 0 || t.pitch % 16 ≠ 0 then groupCause c 3 0 0 else []) ++
      (if bl.spSize < t.base + (t.nRows - 1) * t.pitch + t.rowB then groupCause c 4 0 0 else [])
  act c s :=
    match tilePhys (s.block c.gr.block) c.f.d.toNat with
    | none => (s, false)
    | some p => (kickTsch (modTile s c.gr.core p fun o => { tdefTile c.gr c.f with readers := o.readers }) c.gr.core, false)

/-- The 128-bit record of a slot (R99). -/
def tileWord (t : Tile) : Nat :=
  let st : Nat := match t.st with
    | .empty => 0
    | .filling => 1
    | .ready => 2
    | .draining => 3
  let b (x : Bool) (k : Nat) : Nat := if x then 2 ^ k else 0
  t.pitch * 2 ^ 84 + t.cols * 2 ^ 72 + t.rows * 2 ^ 60 + b t.unit32 59 + t.spars * 2 ^ 57 + t.fmt * 2 ^ 53 + min 255 t.readers * 2 ^ 28 +
    b t.taint 27 + b t.defd 26 + st * 2 ^ 24 + b t.az 23 + b t.af 22 + t.base

/-- A slot's record after the issue-time effects of every run already won, the descriptor of a TDEF among them (R101, R103, R179). -/
def wonSlot (s : State) (g core p : Nat) : Tile :=
  let t := getTile s core p
  let w := wonEffects s (some g) core
  { (match tfind w.defs p with
      | some d => { d with readers := t.readers }
      | none => t) with st := wonTile s (some g) core p }

/-- TSTAT (R179). -/
def tstatSem : Meaning where
  check c s := if (tilePhys (s.block c.gr.block) c.f.a.toNat).isNone then groupCause c 4 0 0 else []
  stall c s := tileHeld s c c.f.a.toNat
  act c s :=
    let w := match tilePhys (s.block c.gr.block) c.f.a.toNat with
      | some p => tileWord (wonSlot s c.g c.gr.core p)
      | none => 0
    pendReady c s [sWrite c.f.d (BitVec.ofNat 64 (if c.f.modBit 0 then w / 2 ^ 64 else w))]

/-! ### TCOPY and TSTORE -/

/-- The group is its block's producer (R105): the launch's own group of that index. -/
def isProducer (s : State) (gr : Group) : Bool :=
  let bl := s.block gr.block
  let r := s.recOf gr
  !bl.single && gr.num == bl.num * recGpb r + recProducer r

/-- The causes of TCOPY and TSTORE that their operands' values do not bear on: a counter of another context, a slot number past TILES. -/
def copySure (c : Ctx) (s : State) : List LaneCause :=
  (match dcField c.f.e with
    | some d => if dcBad s c.gr.core d (s.ctxOf c.gr) then groupCause c 1 0x12 0 else []
    | none => []) ++
  (if !c.f.modBit 0 && (tilePhys (s.block c.gr.block) c.f.d.toNat).isNone then groupCause c 4 0 0 else [])
/-- A tile form waits at its slot for the effects of runs won before (R103). -/
def copyHeld (c : Ctx) (s : State) : Bool := !c.f.modBit 0 && tileHeld s c c.f.d.toNat
/-- The checks of TCOPY and TSTORE (R178), made once the slot's state is that which the run has won. -/
def copyCheck (c : Ctx) (s : State) : List LaneCause :=
  if copyHeld c s then [] else
  let bl := s.block c.gr.block
  let x := c.f.modBit 0
  let a := sOp c c.f.a
  let b := sOp c c.f.b
  let k := sOp c c.f.c
  (if !isProducer s c.gr then groupCause c 14 0 0 else []) ++
  (match dcField c.f.e with
    | some d => if dcBad s c.gr.core d (s.ctxOf c.gr) then groupCause c 1 0x12 0 else []
    | none => []) ++
  (if a % 16 ≠ 0 || b % 16 ≠ 0 || (x && k % 16 ≠ 0) then groupCause c 3 0 a else []) ++
  (if x then
    (if b == 0 then groupCause c 1 2 0 else []) ++ (if (s.launch c.gr.launch).xSize < k + b then groupCause c 4 0 k else []) ++
    (if 2 ^ 56 < a + b then groupCause c 8 1 a else [])
  else match tilePhys bl c.f.d.toNat with
    | none => groupCause c 4 0 0
    | some p =>
      let t := getTile s c.gr.core p
      if !t.defd then groupCause c 1 0x10 0
      else (if b < t.rowB then groupCause c 1 2 0 else []) ++ (if 2 ^ 56 < a + (t.nRows - 1) * b + t.rowB then groupCause c 8 1 a else []))

/-- TCOPY and TSTORE enter the copy engine's queue (R106); the slot's state changes at issue (R101). -/
def copySem (store : Bool) : Meaning where
  check := copyCheck
  sure := copySure
  stall c s := copyHeld c s || 32 ≤ (s.core c.gr.core).bce.length
  act c s :=
    let (id, s) := s.fresh
    let x := c.f.modBit 0
    let slot := (tilePhys (s.block c.gr.block) c.f.d.toNat).getD 0
    let cmd : BceCmd :=
      { id := id, g := c.g, block := c.gr.block, asid := c.gr.dasid, pc := c.pc, seq := c.gr.seq, store := store, chip := x, slot := slot
        va := sOp c c.f.a, len := sOp c c.f.b, ofs := (s.launch c.gr.launch).xBase + sOp c c.f.c, dc := dcField c.f.e, op := id
        started := false, after := heldBy c 2, pos := 0, tagged := false }
    let s := addPend s c.g (newPend c id s)
    let s := if x then s else modTile s c.gr.core slot fun t => { t with st := if store then .draining else .filling }
    ((s.modCore c.gr.core fun k => { k with bce := k.bce ++ [cmd] }).wire (.bceStart c.gr.core), true)

def tcopySem : Meaning := copySem false
def tstoreSem : Meaning := copySem true

/-- A command leaves the queue, with the access it was making. -/
def bceDrop (s : State) (core id : Nat) : State :=
  let s := (dropEng s id).modCore core fun k => { k with bce := k.bce.filter fun b => b.id ≠ id }
  if (s.core core).bce.any fun b => !b.started then s.wireOnce (.bceStart core) else s
/-- A command of a cancelled block is dropped: no counter decrements and no flag sets (R108). -/
def bceCancel (s : State) (core : Nat) (b : BceCmd) : State := bceDrop (cancelPend s b.g b.op) core b.id
/-- A command in the queue. -/
def getBce (s : State) (core id : Nat) : Option BceCmd := (s.core core).bce.find? fun b => b.id == id
/-- A command changed. -/
def modBce (s : State) (core id : Nat) (f : BceCmd → BceCmd) : State :=
  s.modCore core fun k => { k with bce := k.bce.map fun x => if x.id == id then f x else x }

/-- The copy engine starts the oldest command that may start, four at most in flight (R106). -/
def evBceStart (core : Nat) (s : State) : State :=
  let q := (s.core core).bce
  if 4 ≤ (q.filter fun b => b.started).length then s
  else match q.find? fun b => !b.started with
    | none => s
    | some b =>
      if cancelled s (s.group b.g) then bceCancel s core b
      else if !heldOk s b.g b.after then s.wireOnce (.bceStart core)
      else
        let s := (modBce s core b.id fun x => { x with started := true }).wire (.bcePart core b.id)
        if q.any fun x => !x.started && x.id ≠ b.id then s.wireOnce (.bceStart core) else s

/-- The moves of a command within one global frame each (R108), as (global address, scratchpad byte, length), in ascending destination address. -/
def copyParts (s : State) (core : Nat) (b : BceCmd) : List (Nat × Nat × Nat) :=
  if b.chip then (splitAt 512 b.va b.len (b.len / 512 + 2)).map fun x => (x.1, b.ofs + (x.1 - b.va), x.2)
  else
    let t := getTile s core b.slot
    let base := tileBase s core b.slot t
    (List.range t.nRows).flatMap fun i =>
      (splitAt 512 (b.va + i * b.len) t.rowB (t.rowB / 512 + 2)).map fun x => (x.1, base + i * t.pitch + (x.1 - (b.va + i * b.len)), x.2)
/-- The launch-site tag of a command. -/
def BceCmd.tag (b : BceCmd) (core : Nat) : Tag := { g := b.g, pc := b.pc, seq := b.seq, core := core }

/-- The access to global memory of one part of a command (R106): a store brings the bytes and tags that the scratchpad holds now. -/
def copyAcc (s : State) (core : Nat) (b : BceCmd) (x : Nat × Nat × Nat) : EngAcc :=
  let bytes := if b.chip then peeks s.chip.bytes x.2.1 x.2.2 else peeks (s.core core).sp x.2.1 x.2.2
  let tags := (List.range x.2.2).map fun i =>
    if b.chip then tget false s.chip.ue ((x.2.1 + i) / 16) else tget false (s.core core).spUe ((x.2.1 + i) / 16)
  EngAcc.new (.bce core) (bceAgent core) b.asid (b.tag core) b.store (if b.store then writeSegs x.1 bytes tags else readSegs x.1 x.2.2)
    (.bcePart core b.id)
/-- The bytes of a part that has been read enter the scratchpad, with their tags (R108). -/
def copyIn (s : State) (core : Nat) (b : BceCmd) (x : Nat × Nat × Nat) (d : EngGot) : State :=
  let s := if b.chip then tagChip (engChip s x.2.1 d.bytes) x.2.1 d.ue
    else tagCore (engWrite s core x.2.1 d.bytes (some b.slot)) core x.2.1 d.ue
  modBce s core b.id fun b => { b with tagged := b.tagged || d.ue.any id }

/-- A command's next part begins, or, every part moved, the command completes. -/
def copyNext (s : State) (core id : Nat) : State :=
  match getBce s core id with
  | none => s
  | some b => match (copyParts s core b)[b.pos]? with
    | none => s.wire (.bceComplete core id)
    | some x => engBegin s id (copyAcc s core b x)
/-- A command goes on (R178): it moves its parts one after the other, and those of commands in flight together interleave; a cancelled one
stops after the part that is on its way (R108). -/
def evBcePart (core id : Nat) (s : State) : State :=
  match getBce s core id with
  | none => s
  | some b =>
    let dead := cancelled s (s.group b.g)
    if !b.started then s
    else match getEng s id with
    | none => if dead then bceCancel s core b else copyNext s core id
    | some e =>
      if !e.finished then s
      else if dead then bceCancel s core b
      else
        let s := dropEng s id
        match e.err, (copyParts s core b)[b.pos]? with
        | some e, _ => s.wire (.bceFault core id e.1 e.2.1 e.2.2)
        | none, none => s
        | none, some x =>
          let s := if b.store then s else copyIn s core b x (e.read x.1 x.2.2)
          copyNext (modBce s core id fun b => { b with pos := b.pos + 1 }) core id

/-- A command whose parts are all moved completes (R107): its slot, its counter and its flag change, in this order. -/
def evBceComplete (core id : Nat) (s : State) : State :=
  match getBce s core id with
  | none => s
  | some b =>
    if !b.started || b.pos < (copyParts s core b).length || (getEng s id).isSome then s
    else if cancelled s (s.group b.g) then bceCancel s core b
    else
      let s := if b.chip then s
        else if b.store then modTile s core b.slot fun t =>
          { t with st := .empty, az := t.az && !t.taint, af := t.af && !t.taint, taint := false }
        else slotReady s core b.slot b.tagged
      let s := match b.dc with
        | some k => decCounter s core k
        | none => s
      kickTsch (bceDrop (finishPend s b.g b.op) core id) core

/-- A command stops on a fault (R108): a filled slot returns to EMPTY, a stored one to READY with its flags and TAINT as before, so that a TAINT
set meanwhile makes the flags 0 at the slot's next fill (log 75); the fault is queued, and then the flag counts. -/
def evBceFault (core id cause sub addr : Nat) (s : State) : State :=
  match getBce s core id with
  | none => s
  | some b =>
    if !b.started then s
    else if cancelled s (s.group b.g) then bceCancel s core b
    else
      let s := if b.chip then s
        else if b.store then modTile s core b.slot fun t => { t with st := .ready } else slotEmpty s core b.slot
      let s := engFault s (b.tag core) (pendFlag s b.g b.op) (cause, sub, addr) 0 .none none
      kickTsch (bceDrop (finishPend s b.g b.op) core id) core

def execBceStart (core : Nat) (s : State) : Host.Outcome State Fault Refusal := .next (evBceStart core s)
def execBceComplete (core id : Nat) (s : State) : Host.Outcome State Fault Refusal := .next (evBceComplete core id s)
def execBceFault (core id cause sub addr : Nat) (s : State) : Host.Outcome State Fault Refusal := .next (evBceFault core id cause sub addr s)

/-! ### The instructions -/

/-- TDEF (R177). -/
def execTdef (f : EForm) (s : State) : Host.Outcome State Fault Refusal := issue 0x248 f tdefSem s
/-- TCOPY (R178). -/
def execTcopy (f : EForm) (s : State) : Host.Outcome State Fault Refusal := issue 0x249 f tcopySem s
/-- TSTORE (R178). -/
def execTstore (f : EForm) (s : State) : Host.Outcome State Fault Refusal := issue 0x24A f tstoreSem s
/-- TSTAT (R179). -/
def execTstat (f : EForm) (s : State) : Host.Outcome State Fault Refusal := issue 0x24B f tstatSem s

end Sys2Proof.Machine
end

