-- ==== Sys2Proof/Machine/Act.lean ====
section
/-!
DEFINITION. Activation tables (10 R245 to R250): ACT, ATLOAD with its completion, and ATSTAT.
-/

namespace Sys2Proof.Machine

open Sys2Proof

/-- NSEG of an image's header. -/
def atNseg (h : BitVec 256) : Nat := bits h.toNat 46 40

/-- ActEval of R246, for a lane field and a PC of created NaNs. -/
def actEval (t : ActTable) (lane pc x : Nat) : Nat :=
  let h := t.hdr.toNat
  let vlo := bits h 95 64
  let vhi := bits h 127 96
  if fp32.isNan x then quiet fp32 x
  else if fp32.isInf x then (if fp32.sign x then vlo else vhi)
  else
    let u := (dyOf x).add (dyOf (bits h 31 0)).neg
    let se := signed 8 (bits h 39 32)
    let i := Dy.floor { u with e := u.e - se }
    if i < 0 && bitOf h 48 then vlo
    else if (atNseg t.hdr : Int) ≤ i && bitOf h 49 then vhi
    else
      let j := max 0 (min ((atNseg t.hdr : Int) - 1) i)
      let r := rn32 (u.add { m := -j, e := se })
      let c := (t.segs.getD j.toNat 0).toNat
      let p := ffmaRn lane pc r (bits c 95 64) (bits c 63 32)
      ffmaRn lane pc r p (bits c 31 0)

/-- A core's table. -/
def getAct (s : State) (core k : Nat) : ActTable := tget ActTable.reset (s.core core).act k
def modAct (s : State) (core k : Nat) (f : ActTable → ActTable) : State :=
  s.modCore core fun c => { c with act := tmod ActTable.reset c.act k f }

/-- ACT (R246, R250). -/
def actSem : Meaning where
  check c s :=
    let t := getAct s c.gr.core c.f.c.toNat
    if !t.valid || t.asid ≠ s.ctxOf c.gr then onLanes c.lanes 1 0x13 else []
  act c s := (floatSem fun c _ l a _ _ => viaFp32 c (actEval (getAct s c.gr.core c.f.c.toNat) l c.pc.toNat) a).act c s

/-- The first cause that the sectors of [a, a + n) raise at issue, each as an LDS of it would. -/
def atCheck (s : State) (gr : Group) (a n : Nat) : Option (Nat × Nat) :=
  ((List.range (n / 16)).filterMap fun i => match locate s gr 1 (a + 16 * i) 16 0 with
    | .error e => some e
    | .ok _ => none).head?
/-- The header of the image at an offset of a group's block. -/
def atHeader (s : State) (gr : Group) (a : Nat) : BitVec 256 :=
  BitVec.ofNat 256 (leNat (peeks (s.core gr.core).sp ((s.block gr.block).spBase + a) 32))
/-- What a header breaks: BAD_TABLE. -/
def imageBad (h : BitVec 256) : Bool :=
  atNseg h == 0 || 64 < atNseg h || fp32.isNan (bits h.toNat 31 0) || fp32.isInf (bits h.toNat 31 0)
/-- Bytes of an image. -/
def atBytes (h : BitVec 256) : Nat := 32 + 16 * atNseg h

/-- The group's earlier accesses, which a release at block scope waits for, have been performed (R247 step 2). -/
def released (gr : Group) : Bool :=
  let (af, sent) := fenceBefore gr (BitVec.allOnes 64) true false false 1
  af.all (fun i => (gr.findPend i).isNone) && sent.all fun i => match gr.findPend i with
    | none => true
    | some p => p.sent

/-- An operation that uses a table in its drain has started and not finished (12 R289). -/
def drainUses (s : State) (core k : Nat) : Bool :=
  (s.core core).tsch.any fun o => o.started && o.st ≠ .finished && o.st ≠ .abandoned && (o.kind == .drain || o.kind == .mulDrain) &&
    bitOf o.dctl.toNat 46 && bits o.dctl.toNat 49 47 == k
/-- The waits of R247 before the header is read: the release of step 2, the ACTs of the table in runs won before and the drains by it of step 3, and
an earlier ATLOAD of the table (R248). -/
def atWaits (c : Ctx) (s : State) : Bool :=
  let k := c.f.c.toNat
  !released c.gr || !(getAct s c.gr.core k).loads.isEmpty || drainUses s c.gr.core k ||
    (wonRuns s c.gr.core).any fun e => e.1 ≠ c.g && e.2.won < c.r.won && (wonInstrs e.2).any fun i => i.2.1 == 0x12C && i.2.2.c.toNat == k

/-- ATLOAD (R247): it stands at its place through steps 2 and 3, so that BOUNDS and BAD_TABLE of its image are raised there (17 R401), while PEND
counts from the moment its run is won; the header is the one checked. -/
def atloadSem : Meaning where
  check c s :=
    let a := sOp c c.f.a
    match atCheck s c.gr a 32 with
    | some (k, u) => groupCause c k u a
    | none =>
      if atWaits c s then []
      else
        let h := atHeader s c.gr a
        if imageBad h then groupCause c 1 0x14 a
        else match atCheck s c.gr a (atBytes h) with
          | some (k, u) => groupCause c k u a
          | none => []
  stall := atWaits
  act c s :=
    let (id, s) := s.fresh
    let k := c.f.c.toNat
    let a := sOp c c.f.a
    let h := atHeader s c.gr a
    let s := addPend s c.g { newPend c id s with
      addrs := (List.range (atBytes h / 16)).map fun i => (i, a + 16 * i), vals := [(0, h.toNat)] }
    ((modAct s c.gr.core k fun t => { t with pend := true, loads := t.loads ++ [(c.g, id, a)] }).wire (.atloadComplete c.gr.core k), true)

/-- The sectors of an image with a conflicting record, and whether one carries a tag. -/
def atFaults (s : State) (g a n : Nat) : List (Nat × Shadow) × Bool :=
  let gr := s.group g
  let b := (s.block gr.block).spBase + a
  (((List.range (n / 16)).map fun i => (a + 16 * i, shadowAt s (.core gr.core (b + 16 * i)))).filter fun e => conflicts s g e.2 false,
   (List.range (n / 16)).any fun i => tget false (s.core gr.core).spUe (b / 16 + i))

/-- An ATLOAD goes on (R247 steps 5 and 6): it reads and installs the image, or faults. -/
def evAtloadComplete (core k : Nat) (s : State) : State :=
  let t := getAct s core k
  match t.loads with
  | [] => s
  | (g, id, a) :: rest =>
    let gr := s.group g
    let s := modAct s core k fun t => { t with loads := rest, pend := !rest.isEmpty }
    let s := if rest.isEmpty then s else s.wire (.atloadComplete core k)
    match gr.findPend id with
    | none => s
    | some p =>
      let hdr := BitVec.ofNat 256 (tget 0 p.vals 0)
      let base := (s.block gr.block).spBase + a
      let (races, ue) := atFaults s g a (atBytes hdr)
      let fault (c : Nat) : State :=
        deferFault s g id ((lanesOf (lowest p.lanes)).map fun l => { lane := l, cause := c, sub := 0, addr := a })
      if recRace (s.recOf gr) == 2 && !races.isEmpty then fault 11
      else if ue then fault 12
      else
        let s := if recRace (s.recOf gr) == 1 then races.foldl (fun s e => raceRecord s gr 1 e.1 p.pc.toNat e.2) s else s
        let segs := (List.range (atNseg hdr)).map fun j => BitVec.ofNat 128 (leNat (peeks (s.core core).sp (base + 32 + 16 * j) 16))
        let s := modAct s core k fun t =>
          { t with valid := true, asid := s.ctxOf gr, ver := t.ver + 1, tag := BitVec.ofNat 16 (bits hdr.toNat 143 128), hdr := hdr, segs := segs }
        kickTsch (finishPend s g id) core

/-- ATSTAT (R249): PEND counts the ATLOADs of the runs that other groups have won. -/
def atstatSem : Meaning where
  act := onGroup fun c s =>
    let t := getAct s c.gr.core c.f.c.toNat
    let w := if t.asid ≠ s.ctxOf c.gr then 0
      else t.tag.toNat * 2 ^ 48 + t.asid * 2 ^ 32 + t.ver.toNat * 2 ^ 16 + t.segs.length * 2 ^ 9 + (if t.pend || (wonEffects s (some c.g) c.gr.core).tables.contains c.f.c.toNat then 2 else 0) +
        (if t.valid then 1 else 0)
    c.gr.wrS c.f.d.toNat (BitVec.ofNat 64 w) false

def execAtloadComplete (core k : Nat) (s : State) : Host.Outcome State Fault Refusal := .next (evAtloadComplete core k s)

/-! ### The instructions -/

/-- ACT (R246). -/
def execAct (f : EForm) (s : State) : Host.Outcome State Fault Refusal := issue 0x12C f actSem s
/-- ATLOAD (R247). -/
def execAtload (f : EForm) (s : State) : Host.Outcome State Fault Refusal := issue 0x12D f atloadSem s
/-- ATSTAT (R249): PEND counts the ATLOADs of the runs that other groups have won. -/
def execAtstat (f : EForm) (s : State) : Host.Outcome State Fault Refusal := issue 0x12E f atstatSem s

end Sys2Proof.Machine
end

