-- ==== Sys2Proof/Machine/Matrix.lean ====
section
/-!
DEFINITION. The numbers of the matrix path: the sums of a K step (08 R202 to R206), operand pairs (12 R270), operand rows and pip headers (12
R273 to R275), and the elements of a drain (12 R286 to R288).
-/

namespace Sys2Proof.Machine

open Sys2Proof

/-! ### K steps (08 R202 to R204) -/

/-- The pair class of a format: 1 FP16 and BF16, 2 FP8, 3 INT8, 4 E2M1, 5 INT4; 0 not accepted (R270). -/
def pairClass (fmt : Nat) : Nat :=
  match fmt with
  | 1 | 2 => 1
  | 3 | 4 => 2
  | 8 | 9 => 3
  | 5 => 4
  | 10 | 11 => 5
  | _ => 0
/-- Products of one K step. -/
def kStep (fmt : Nat) : Nat :=
  match pairClass fmt with
  | 1 => 4
  | 2 | 3 => 8
  | _ => 16
/-- The pair class sums integers. -/
def pairInt (fmt : Nat) : Bool := pairClass fmt == 3 || pairClass fmt == 5

/-- An operand element as a factor: a NaN widened to FP32 (R197), or a value. -/
inductive Factor where
  | nan (x : Nat)
  | val (v : FV)
  deriving DecidableEq, Repr

/-- A float element with its block scale byte (R188). -/
def factorOf (fmt x scale : Nat) : Factor :=
  let F := fmtOf fmt
  if fmt == 5 then
    if scale == 255 then .nan 0x7FC00000
    else .val (match F.val x with
      | .fin d => .fin { d with e := d.e + (scale : Int) - 127 }
      | v => v)
  else if F.isNan x then .nan (nanTo F fp32 (quiet F x))
  else .val (F.val x)

/-- The factor is a zero of either sign. -/
def Factor.isZero (f : Factor) : Bool := match f with
  | .val (.zero _) => true
  | _ => false

/-- Products that count: under SKIP.Z those with a zero factor are +0, dropped (R206). -/
def keptPairs (skipz : Bool) (ps : List (Factor × Factor)) : List (Factor × Factor) :=
  if skipz then ps.filter fun p => !p.1.isZero && !p.2.isZero else ps

/-- The first NaN of the pairs, in order a0, b0, a1, … -/
def pairsNan : List (Factor × Factor) → Option Nat
  | [] => none
  | (.nan x, _) :: _ => some x
  | (_, .nan x) :: _ => some x
  | _ :: r => pairsNan r

/-- The values of pairs without a NaN. -/
def pairVals (ps : List (Factor × Factor)) : List (FV × FV) :=
  ps.filterMap fun p => match p.1, p.2 with
    | .val a, .val b => some (a, b)
    | _, _ => none

/-- MatrixStep of a float pair (R202). -/
def matrixStep (c : Nat) (ps : List (Factor × Factor)) (skipz : Bool) (pc : Nat) : Nat :=
  if fp32.isNan c then c
  else
    let ks := keptPairs skipz ps
    match pairsNan ks with
    | some x => x
    | none =>
      match products (pairVals ks) with
      | none => createdNan fp32 0x3F pc
      | some vs =>
        match sumTerms .rn vs with
        | none => createdNan fp32 0x3F pc
        | some t =>
          let t := match t with
            | .zero _ => FV.zero false
            | v => v
          match sumTerms .rn [fp32.val c, t] with
          | none => createdNan fp32 0x3F pc
          | some v => v.encode fp32 .rn false

/-- The step of an integer pair (R203): the exact sum, and the total clamped to INT32. -/
def matrixStepInt (c : Nat) (ps : List (Int × Int)) : Nat :=
  wrap 32 (clampTo true 32 (signed 32 c + ps.foldl (fun x p => x + p.1 * p.2) 0))

/-- A list in parts of n elements. -/
def partsOf {α : Type} (n : Nat) : Nat → List α → List (List α)
  | 0, _ => []
  | _, [] => []
  | k + 1, l => l.take n :: partsOf n k (l.drop n)

/-- A stored element of an operand row's chunk: position, bits, scale byte. -/
abbrev Stored := Nat × Nat × Nat

/-- The element pairs of one accumulator element over a chunk, in ascending K: the stored positions of a sparse operand, else all (R204). -/
def chunkPairs (a b : List Stored) : List (Stored × Stored) :=
  if a.length == b.length then a.zip b
  else if a.length < b.length then a.filterMap fun x => (b.find? fun y => y.1 == x.1).map fun y => (x, y)
  else b.filterMap fun y => (a.find? fun x => x.1 == y.1).map fun x => (x, y)

/-- One accumulator element after a chunk. -/
def chunkSum (fa fb : Nat) (skipz : Bool) (pc : Nat) (a b : List Stored) (c : Nat) : Nat :=
  (partsOf (kStep fa) 16 (chunkPairs a b)).foldl (fun c st =>
    if pairInt fa then
      matrixStepInt c (st.map fun p => (valOf (intSigned fa) (intWidth fa) p.1.2.1, valOf (intSigned fb) (intWidth fb) p.2.2.1))
    else matrixStep c (st.map fun p => (factorOf fa p.1.2.1 p.1.2.2, factorOf fb p.2.2.1 p.2.2.2)) skipz pc) c

/-! ### Accumulator tiles -/

/-- Element (i, j) of a physical tile. -/
def accGet (s : State) (core p i j : Nat) : Word := tget 0 (s.core core).acc (1024 * p + 32 * i + j)
/-- A tile with its element (i, j) given. -/
def accFill (s : State) (core p : Nat) (f : Nat → Nat → Word) : State :=
  s.modCore core fun c =>
    { c with acc := (List.range 1024).foldl (fun t k => tupd 0 t (1024 * p + k) (f (k / 32) (k % 32))) c.acc }
/-- The state word of a physical tile. -/
def getAcc (s : State) (core p : Nat) : AccSt := tget AccSt.reset (s.core core).accSt p
def modAcc (s : State) (core p : Nat) (f : AccSt → AccSt) : State :=
  s.modCore core fun c => { c with accSt := tmod AccSt.reset c.accSt p f }
/-- POIS of a tile. -/
def setPois (s : State) (core p : Nat) (b : Bool) : State := modAcc s core p fun a => { a with pois := b }

/-! ### Operands (R273) -/

/-- A descriptor's fields. -/
def descVa (d : DWord) : Bool := bitOf d.toNat 63
def descSlot (d : DWord) : Nat := bits d.toNat 5 0
def descAddr (d : DWord) : Nat := bits d.toNat 55 0
def descFmt (d : DWord) : Nat := bits d.toNat 59 56
def descSpars (d : DWord) : Nat := bits d.toNat 61 60

/-- An operand as the engine reads it: row 0's address, row pitch, format, sparsity, columns, and what its slot's AZ and AF tell. -/
structure Opnd where
  va : Bool
  base : Nat
  pitch : Nat
  fmt : Nat
  spars : Nat
  cols : Nat
  az : Bool
  af : Bool
  deriving DecidableEq, Repr

/-- The operand a descriptor names for a block, with its stride and K. -/
def opndOf (s : State) (b : Block) (d : DWord) (stride k : Nat) : Opnd :=
  if descVa d then { va := true, base := descAddr d, pitch := stride, fmt := descFmt d, spars := descSpars d, cols := k, az := false, af := false }
  else
    let p := (tilePhys b (descSlot d)).getD 0
    let t := getTile s b.core p
    { va := false, base := tileBase s b.core p t, pitch := t.pitch, fmt := t.fmt, spars := t.spars, cols := t.nCols, az := t.az, af := t.af }

/-- How a chunk's data fails it: the engine fault, and whether POIS is set (R275, R290). -/
structure FetchErr where
  pois : Bool
  err : EngErr
  deriving DecidableEq, Repr

/-- Bytes with their tags, from the scratchpad, or from what the load pipe has read. -/
def engBytes (s : State) (core : Nat) (e : Option EngAcc) (va : Bool) (a n : Nat) : EngGot :=
  if va then (match e with
    | some e => e.read a n
    | none => { bytes := [], ue := [], race := [] })
  else { bytes := peeks (s.core core).sp a n, ue := (List.range n).map fun i => tget false (s.core core).spUe ((a + i) / 16)
         race := List.replicate n false }

/-- What a row's part of a chunk brings: stored elements, a race tag among its sectors, and whether it is known that every element is zero,
and that every element is finite (R205, R275). -/
structure RowGot where
  vals : List Stored
  race : Bool
  zero : Bool
  fin : Bool
  deriving DecidableEq, Repr

/-- Stored values of a compressed line, checked in the order of R275. -/
def pipLine (o : Opnd) (d : EngGot) (a : Nat) : Except FetchErr RowGot :=
  let h := leNat (d.bytes.take 16)
  let w := fmtWidth o.fmt
  let n := 16 * o.spars
  let pos := (List.range 64).filter fun p => h.testBit p
  let vals : List Stored := (List.range n).map fun j =>
    let p := pos.getD j 0
    (p, packedAt (d.bytes.drop 16) w j, if p < 32 then bits h 79 72 else bits h 87 80)
  let bad : Except FetchErr RowGot := .error { pois := false, err := (18, 2, a) }
  if (d.ue.take 16).any id then .error { pois := true, err := (13, 0, a) }
  else if ((d.ue.drop 16).take (n * w / 8)).any id then .error { pois := true, err := (12, 0, a) }
  else if bits h 65 64 ≠ o.spars || pos.length ≠ n || bits h 71 68 ≠ o.fmt then bad
  else if bitOf h 67 && vals.any (fun v => !elemZero o.fmt v.2.1 || (o.fmt == 5 && v.2.2 == 255)) then bad
  else if bitOf h 66 && vals.any (fun v => elemBad o.fmt (v.2.1, v.2.2)) then bad
  else .ok { vals := vals, race := d.race.any id, zero := bitOf h 67 || o.az, fin := bitOf h 66 || o.af }

/-- The ranges of bytes that row r of an operand holds for chunk c. -/
def rowRanges (o : Opnd) (r c : Nat) : List (Nat × Nat) :=
  let row := o.base + r * o.pitch
  if o.spars ≠ 0 then [(row + 128 * c, 128)]
  else
    let w := fmtWidth o.fmt
    (row + 8 * w * c, 8 * w) :: (if o.fmt == 5 then [(row + o.cols / 2 + 2 * c, 2)] else [])
/-- The parts that the load pipe reads for the 32 rows of a tile's operand. -/
def chunkSegs (o : Opnd) (r0 c : Nat) : List EngSeg :=
  if !o.va then []
  else (List.range 32).flatMap fun i => (rowRanges o (r0 + i) c).flatMap fun x => readSegs x.1 x.2

/-- One operand row's elements of chunk c. -/
def fetchRow (s : State) (core : Nat) (e : Option EngAcc) (o : Opnd) (r c : Nat) : Except FetchErr RowGot :=
  match (rowRanges o r c).map fun x => (x.1, engBytes s core e o.va x.1 x.2) with
  | [] => .ok { vals := [], race := false, zero := false, fin := false }
  | (a, d) :: rest =>
    if o.spars ≠ 0 then pipLine o d a
    else
      let sc : List Byte := match rest with
        | x :: _ => x.2.bytes
        | [] => []
      if d.ue.any id || rest.any (fun x => x.2.ue.any id) then .error { pois := true, err := (12, 0, a) }
      else .ok { vals := (List.range 64).map fun j => (j, packedAt d.bytes (fmtWidth o.fmt) j, rowByte sc (j / 32))
                 race := d.race.any id || rest.any (fun x => x.2.race.any id), zero := o.az, fin := o.af }

/-- The 32 rows of a tile's operand, for one chunk. -/
def fetchChunk (s : State) (core : Nat) (e : Option EngAcc) (o : Opnd) (r0 c : Nat) : Except FetchErr (List RowGot) :=
  (List.range 32).foldl (fun (a : Except FetchErr (List RowGot)) i =>
    match a with
    | .error x => .error x
    | .ok rows => match fetchRow s core e o (r0 + i) c with
      | .error x => .error x
      | .ok r => .ok (rows ++ [r])) (.ok [])

/-- The engine skips the steps of a chunk (08 R205, R206): one operand is known to be zero, and without SKIP.Z the other to be finite and
the accumulator no NaN. -/
def skipsChunk (skipz nan : Bool) (a b : List RowGot) : Bool :=
  let za := a.all (·.zero)
  let zb := b.all (·.zero)
  if skipz then za || zb else ((za && b.all (·.fin)) || (zb && a.all (·.fin))) && !nan
/-- An accumulator element after a skipped step: c + (+0) (R205). -/
def skipStep (fa c pc : Nat) : Nat := if pairInt fa then c else matrixStep c [] false pc

/-! ### The elements of a drain (R286 to R288) -/

/-- DCTL's fields. -/
def dcOfmt (d : DWord) : Nat := bits d.toNat 35 32
def dcEpi (d : DWord) : Bool := bitOf d.toNat 38
def dcBiasV (d : DWord) : Bool := bitOf d.toNat 39
def dcBias (d : DWord) : Nat := bits d.toNat 45 40
def dcActV (d : DWord) : Bool := bitOf d.toNat 46
def dcActT (d : DWord) : Nat := bits d.toNat 49 47
def dcAint (d : DWord) : Bool := bitOf d.toNat 50
def dcScale (d : DWord) : Nat := bits d.toNat 31 0

/-- x of R287 after the epilogue, and whether it is FP32. -/
def drainX (d : DWord) (tab : ActTable) (pc acc bias : Nat) : Nat × Bool :=
  let conv := dcAint d && (dcEpi d || isFloat (dcOfmt d))
  let x := if conv then convert 15 0 .rn false acc else acc
  if dcEpi d then
    let y := if dcBiasV d then ffmaRn 0x3F pc x (dcScale d) bias
      else sumResult fp32 fp32 .rn false 0x3F pc [x, dcScale d] [(x, dcScale d)] [] false
    (if dcActV d then actEval tab 0x3F pc y else y, true)
  else (x, !dcAint d || conv)

/-- One output element, but for FP4 with block scales (R287): `old` is the destination's element for an add-on-store. -/
def drainOut (d : DWord) (add : Bool) (pc : Nat) (x : Nat × Bool) (old : Nat) : Nat :=
  let f := dcOfmt d
  let sat := bitOf d.toNat 36
  if isFloat f then
    if !add then convert 0 f .rn sat x.1
    else
      let F := fmtOf f
      if F.isNan old then (if f == 0 then quiet fp32 old else nanTo fp32 F (nanTo F fp32 (quiet F old)))
      else if fp32.isNan x.1 then (if f == 0 then quiet fp32 x.1 else nanTo fp32 F (quiet fp32 x.1))
      else match sumTerms .rn [F.val old, fp32.val x.1] with
        | none => createdNan F 0x3F pc
        | some v => v.encode F .rn sat
  else
    let xi := signed 32 (if x.2 then convert 0 15 .rn false x.1 else x.1)
    narrow sat (intSigned f) (intWidth f) (if add then valOf (intSigned f) (intWidth f) old + xi else xi)

/-- Floor(Log2(amax)) − 2 clamped, of FP32 elements without a NaN (R288). -/
def fp4Exp (xs : List Nat) : Int :=
  let amax := xs.foldl (fun m x => max m (fp32.mag x)) 0
  if amax == 0 then 0
  else match fp32.val amax with
    | .fin v => max (-127) (min 127 (v.log - 2))
    | _ => 127

/-- A block of 32 FP32 elements as E2M1 elements and their scale byte (R288). -/
def fp4Block (xs : List Nat) : List Nat × Nat :=
  if xs.any fp32.isNan then (xs.map fun _ => 0, 255)
  else
    let e := fp4Exp xs
    (xs.map fun x => (match fp32.val x with
      | .fin v => FV.fin { v with e := v.e - e }
      | v => v).encode (fmtOf 5) .rn false, (e + 127).toNat)

/-- Packed elements as bytes. -/
def packBytes (w : Nat) (es : List Nat) : List Byte := leBytes (packElems w es) (w * es.length / 8)

end Sys2Proof.Machine
end

