-- ==== Sys2Proof/Machine/Tsch.lean ====
section
/-!
DEFINITION. The tile task scheduler (12 R276 to R298): the checks of multiplies, drains and task chains, acceptance, the start of operations,
chunks, drains, completion and abandonment, and TMM, TTASK, TDEP, AZERO, ADRAIN, AOWN, ASAVE, ALOAD.
-/

namespace Sys2Proof.Machine

open Sys2Proof

/-! ### Operations and what they name -/

/-- The context of an operation. -/
def TOp.ctx (s : State) (o : TOp) : Nat := recCtx (s.launch o.launch).record
/-- Tiles of its range. -/
def TOp.count (o : TOp) : Nat := o.mt * o.nt
/-- Physical tile t of its range. -/
def opTile (s : State) (o : TOp) (t : Nat) : Nat := (s.block o.block).accs.getD (o.acc + t) 0
/-- The physical tiles of its range. -/
def opTiles (s : State) (o : TOp) : List Nat := (List.range o.count).map (opTile s o)
/-- The operation multiplies. -/
def TOp.mul (o : TOp) : Bool := o.kind == .mul || o.kind == .mulDrain
/-- The operation drains. -/
def TOp.drains (o : TOp) : Bool := o.kind == .drain || o.kind == .mulDrain
/-- Slots its multiply reads. -/
def mulSlots (s : State) (o : TOp) : List Nat :=
  if o.mul then ([o.a, o.b].filter fun d => !descVa d).filterMap fun d => tilePhys (s.block o.block) (descSlot d) else []
/-- The bias slot its drain reads. -/
def biasSlot (s : State) (o : TOp) : List Nat :=
  if o.drains && dcBiasV o.dctl then (tilePhys (s.block o.block) (dcBias o.dctl)).toList else []
/-- The slot its drain fills. -/
def fillSlot (s : State) (o : TOp) : Option Nat :=
  if o.drains && !descVa o.ddest then tilePhys (s.block o.block) (descSlot o.ddest) else none
/-- Slots on which it holds READERS now: one for each slot that it reads, however often it names it (R101, R282). -/
def heldSlots (s : State) (o : TOp) : List Nat :=
  if !o.started || o.st == .finished then []
  else if o.st == .draining then dedup (biasSlot s o) else dedup (mulSlots s o ++ biasSlot s o)

/-- READERS of slots rise, and fall. -/
def readersMove (s : State) (core : Nat) (before after : List Nat) : State :=
  let s := (after.filter fun p => !before.contains p).foldl (fun s p => modTile s core p fun t => { t with readers := t.readers + 1 }) s
  (before.filter fun p => !after.contains p).foldl (fun s p => modTile s core p fun t => { t with readers := t.readers - 1 }) s

/-- The operation of an id. -/
def findOp (s : State) (core id : Nat) : Option TOp := (s.core core).tsch.find? fun o => o.id == id
/-- An operation changed, with the READERS that it holds. -/
def setOp (s : State) (core : Nat) (o o' : TOp) : State :=
  readersMove (s.modCore core fun c => { c with tsch := c.tsch.map fun x => if x.id == o.id then o' else x }) core (heldSlots s o) (heldSlots s o')
/-- What an operation still has under way at the L2 is over: frames that it has locked are released. -/
def dropAccess (s : State) (id : Nat) : State :=
  match getEng s id with
  | none => s
  | some e => dropEng (if e.lock then unlock s id none else s) id
/-- An operation leaves the queue. -/
def removeOp (s : State) (core : Nat) (o : TOp) : State :=
  let s := dropAccess s o.id
  let held := heldSlots s o
  let tiles := opTiles s o
  let s := s.modCore core fun c => { c with tsch := c.tsch.filter fun x => x.id ≠ o.id }
  let s := tiles.foldl (fun s p => modAcc s core p fun a => { a with busy := a.busy - 1 }) s
  kickTsch (readersMove (s.wire (.tschAccept core)) core held []) core

/-! ### Checks at issue (R292, R293, R296) -/

/-- A cause of a group-level check. -/
abbrev Bad := Nat × Nat

/-- A shape word's causes, and the range's causes (R292). -/
def shapeBad (b : Block) (sh : Nat) (kch : Bool) : List Bad :=
  let n := (bits sh 13 10 + 1) * (bits sh 17 14 + 1)
  (if 2 ^ 30 ≤ sh || (!kch && bits sh 29 18 ≠ 0) then [(1, 2)] else []) ++ (if b.accs.length < bits sh 9 0 + n then [(4, 0)] else [])

/-- An operand's causes, with the rows and columns it must have. -/
def opndBad (s : State) (b : Block) (d : DWord) (stride rows k : Nat) : List Bad :=
  if descVa d then
    (if bitOf d.toNat 62 || pairClass (descFmt d) == 0 then [(1, 2)] else []) ++
    (if descAddr d % 16 ≠ 0 || stride % 16 ≠ 0 then [(3, 0)] else []) ++
    (if stride % 16 == 0 && stride < rowBytes (descFmt d) (descSpars d) k then [(1, 2)] else [])
  else
    (if bits d.toNat 62 6 ≠ 0 || stride ≠ 0 then [(1, 2)] else []) ++
    match tilePhys b (descSlot d) with
    | none => [(4, 0)]
    | some p =>
      let t := getTile s b.core p
      if !t.defd || pairClass t.fmt == 0 || t.nRows < rows || t.nCols < k then [(1, 0x10)] else []

/-- A multiply's causes beyond its shape's. -/
def mulBad (s : State) (b : Block) (da db : DWord) (astr bstr sh : Nat) : List Bad :=
  let k := 64 * (bits sh 29 18 + 1)
  let x := opndBad s b da astr (32 * (bits sh 13 10 + 1)) k ++ opndBad s b db bstr (32 * (bits sh 17 14 + 1)) k
  let oa := opndOf s b da astr k
  let ob := opndOf s b db bstr k
  let formed (d : DWord) : Bool := descVa d || (tilePhys b (descSlot d)).any fun p => (getTile s b.core p).defd
  let classes : Bool := pairClass oa.fmt ≠ 0 && pairClass ob.fmt ≠ 0 && pairClass oa.fmt ≠ pairClass ob.fmt
  x ++ (if formed da && formed db && (classes || (oa.spars ≠ 0 && ob.spars ≠ 0)) then [(1, 0x10)] else [])

/-- A drain's causes beyond its shape's (R286, R296). -/
def drainBad (s : State) (b : Block) (ctx : Nat) (dest ctl : DWord) (pitch : Nat) (add : Bool) (sh : Nat) : List Bad :=
  let f := dcOfmt ctl
  let rows := 32 * (bits sh 13 10 + 1)
  let cols := 32 * (bits sh 17 14 + 1)
  (if bits ctl.toNat 63 51 ≠ 0 || f == 12 || f == 13 || (add && f == 5) || ((dcBiasV ctl || dcActV ctl || dcScale ctl ≠ 0) && !dcEpi ctl) ||
      bits dest.toNat 62 56 ≠ 0 then [(1, 2)] else []) ++
  (if descVa dest then
    (if descAddr dest % 16 ≠ 0 || pitch % 16 ≠ 0 then [(3, 0)] else []) ++ (if pitch < rowBytes f 0 cols then [(1, 2)] else [])
  else
    (if bits dest.toNat 55 6 ≠ 0 || pitch ≠ 0 then [(1, 2)] else []) ++
    match tilePhys b (descSlot dest) with
    | none => [(4, 0)]
    | some p =>
      let t := getTile s b.core p
      if !t.defd || t.fmt ≠ f || t.spars ≠ 0 || t.nRows < rows || t.nCols < cols then [(1, 0x10)] else []) ++
  (if dcBiasV ctl then
    match tilePhys b (dcBias ctl) with
    | none => [(4, 0)]
    | some p =>
      let t := getTile s b.core p
      if !t.defd || t.fmt ≠ 0 || t.spars ≠ 0 || t.nRows < 1 || t.nCols < cols then [(1, 0x10)] else []
  else []) ++
  (if dcActV ctl && (!(getAct s b.core (dcActT ctl)).valid || (getAct s b.core (dcActT ctl)).asid ≠ ctx) then [(1, 0x13)] else [])

/-- The lowest block-relative tile of a range that another context owns (R280). -/
def foreignTile (s : State) (b : Block) (ctx : Nat) (ts : List Nat) : Option Nat :=
  minBy (· < ·) (ts.filter fun t =>
    let a := getAcc s b.core (b.accs.getD t 0)
    a.ownv && a.owner ≠ ctx)
/-- Unowned tiles are taken. -/
def takeTiles (s : State) (b : Block) (ctx : Nat) (ts : List Nat) : State :=
  ts.foldl (fun s t => modAcc s b.core (b.accs.getD t 0) fun a => if a.ownv then a else { a with ownv := true, owner := ctx }) s
/-- Block-relative tiles of a shape word's range. -/
def shapeTiles (sh : Nat) : List Nat := (List.range ((bits sh 13 10 + 1) * (bits sh 17 14 + 1))).map (bits sh 9 0 + ·)

/-- Causes of a list, and of tiles owned by another context where nothing else is wrong, on the lowest active lane. -/
def tschCauses (c : Ctx) (s : State) (bad : List Bad) (ts : List Nat) : List LaneCause :=
  if !bad.isEmpty then bad.flatMap fun x => groupCause c x.1 x.2 0
  else match foreignTile s (s.block c.gr.block) (s.ctxOf c.gr) ts with
    | some t => groupCause c 15 0 t
    | none => []

/-! ### Task records (R284, R293) -/

/-- Bits of a record. -/
def tf (r : BitVec 512) (hi lo : Nat) : Nat := bits r.toNat hi lo
def tDw (r : BitVec 512) (i : Nat) : DWord := BitVec.ofNat 64 (tf r (64 * i + 63) (64 * i))

/-- The records of the chain from an offset, and the cause that ends the reading of it, if one does (R293). -/
def readChain (s : State) (b : Block) : Nat → Nat → List (BitVec 512) → List (BitVec 512) × Option Bad
  | 0, _, acc => (acc.reverse, some (1, 0x11))
  | n + 1, ofs, acc =>
    if b.spSize < ofs + 64 then (acc.reverse, some (4, 0))
    else if (List.range 4).any fun k => tget false (s.core b.core).spUe ((b.spBase + ofs) / 16 + k) then (acc.reverse, some (12, 0))
    else
      let r := BitVec.ofNat 512 (leNat (peeks (s.core b.core).sp (b.spBase + ofs) 64))
      if bitOf r.toNat 511 && tf r 469 448 % 64 == 0 then readChain s b n (tf r 469 448) (r :: acc) else ((r :: acc).reverse, none)

/-- A record breaks its own layout: BAD_TASK. -/
def recordBad (r : BitVec 512) : Bool :=
  let op := tf r 161 160
  tf r 510 470 ≠ 0 || tf r 447 416 ≠ 0 || tf r 191 177 ≠ 0 || op == 3 || tf r 469 448 % 64 ≠ 0 ||
  (op == 0 && tf r 415 256 ≠ 0) || (op ≠ 0 && !bitOf r.toNat 383 && tf r 415 384 ≠ 0) ||
  (op == 2 && (tf r 127 0 ≠ 0 || tf r 255 192 ≠ 0 || tf r 157 146 ≠ 0 || tf r 159 158 ≠ 0)) ||
  (op ≠ 2 && ((!bitOf r.toNat 63 && tf r 223 192 ≠ 0) || (!bitOf r.toNat 127 && tf r 255 224 ≠ 0)))

/-- A record's causes, those of a TMM or an ADRAIN of the same fields among them. -/
def taskBad (s : State) (b : Block) (ctx : Nat) (r : BitVec 512) : List Bad :=
  let op := tf r 161 160
  if recordBad r then [(1, 0x11)]
  else
    let sh := tf r 157 128
    shapeBad b sh (op ≠ 2) ++
    (if op ≠ 2 then mulBad s b (tDw r 0) (tDw r 1) (tf r 223 192) (tf r 255 224) sh else []) ++
    (if op ≠ 0 then drainBad s b ctx (tDw r 5) (tDw r 4) (tf r 415 384) (bitOf (tDw r 4).toNat 37) sh else []) ++
    (if (bitOf r.toNat 168 && dcBad s b.core (tf r 167 162) ctx) || (bitOf r.toNat 175 && dcBad s b.core (tf r 174 169) ctx) then [(1, 0x12)]
      else [])

/-! ### Acceptance (R281) -/

/-- An operation with a shape word's range and nothing else. -/
def shapeOp (id : Nat) (c : Ctx) (s : State) (kind : TKind) (sh : Nat) : TOp :=
  { id := id, g := c.g, block := c.gr.block, launch := c.gr.launch, asid := c.gr.dasid, pc := c.pc, seq := c.gr.seq, op := id
    prio := effPrio s c.gr, kind := kind, st := .queued, acc := bits sh 9 0, mt := bits sh 13 10 + 1, nt := bits sh 17 14 + 1
    kch := bits sh 29 18, a := 0, b := 0, astr := 0, bstr := 0, zinit := false, skipz := false, dctl := 0, ddest := 0, dpitch := 0
    add := false, va := 0, wdc := none, cdc := none, counts := true, prev := none, last := true, tile := 0, chunk := 0, started := false
    unit := 0, subtree := c.gr.subtree, baton := none, after := heldBy c 3, drained := 0, dead := false }

/-- The operation of a task record, on a base that gives its issuer. -/
def taskOp (base : TOp) (r : BitVec 512) (id op : Nat) (prev : Option Nat) : TOp :=
  { base with
    id := id, op := op, prev := prev, last := !bitOf r.toNat 511, counts := bitOf r.toNat 176
    kind := (match tf r 161 160 with
      | 0 => .mul
      | 1 => .mulDrain
      | _ => .drain)
    acc := tf r 137 128, mt := tf r 141 138 + 1, nt := tf r 145 142 + 1, kch := tf r 157 146, a := tDw r 0, b := tDw r 1
    astr := tf r 223 192, bstr := tf r 255 224, zinit := bitOf r.toNat 159, skipz := bitOf r.toNat 158, dctl := tDw r 4, ddest := tDw r 5
    dpitch := tf r 415 384, add := bitOf (tDw r 4).toNat 37
    wdc := if bitOf r.toNat 168 then some (tf r 167 162) else none
    cdc := if bitOf r.toNat 175 then some (tf r 174 169) else none }

/-- The operations of a chain; ids are fresh. -/
def chainOps (base : TOp) (op : Nat) : List (BitVec 512) → Option Nat → State → State × List TOp
  | [], _, s => (s, [])
  | r :: rs, prev, s =>
    let (id, s) := s.fresh
    let (s, l) := chainOps base op rs (some id) s
    (s, taskOp base r id op prev :: l)

/-- Operations enter the queue. -/
def acceptOps (s : State) (core : Nat) (ops : List TOp) : State :=
  let s := s.modCore core fun c => { c with tsch := c.tsch ++ ops }
  let s := ops.foldl (fun s o => (opTiles s o).foldl (fun s p => modAcc s core p fun a => { a with busy := a.busy + 1 }) s) s
  kickTsch s core

/-- One operation of an instruction enters the queue, its tiles taken. -/
def acceptOne (c : Ctx) (s : State) (f : TOp → TOp) (kind : TKind) (sh : Nat) : State × Bool :=
  let (id, s) := s.fresh
  let o := f (shapeOp id c s kind sh)
  let s := takeTiles s (s.block c.gr.block) (s.ctxOf c.gr) (shapeTiles sh)
  (acceptOps (addPend s c.g { newPend c id s with left := 1 }) c.gr.core [o], true)

/-- The queue has no room for n more. -/
def tschFull (s : State) (core n : Nat) : Bool := 256 < (s.core core).tsch.length + n

/-! ### Start (R282) -/

/-- A slot may be filled: EMPTY or READY, or READY for an add-on-store, with no reader. -/
def fillOk (t : Tile) (add : Bool) : Bool := t.readers == 0 && (t.st == .ready || (!add && t.st == .empty))

/-- Conditions 1 to 5 of R282, by the slots' states after every won run (05 R101, R103), and the fences that hold the operation. -/
def opReady (s : State) (core : Nat) (o : TOp) : Bool :=
  let q := (s.core core).tsch
  let b := s.block o.block
  (match o.wdc with
    | some k => (getDc s core k).value == 0
    | none => true) &&
  (match o.prev with
    | some p => !q.any fun x => x.id == p
    | none => true) &&
  (q.takeWhile fun x => x.id ≠ o.id).all (fun x => x.ctx s ≠ o.ctx s || (opTiles s x).all fun p => !(opTiles s o).contains p) &&
  (mulSlots s o ++ biasSlot s o).all (fun p => wonTile s none core p == .ready) &&
  (match fillSlot s o with
    | some p => fillOk { getTile s core p with st := wonTile s none core p } o.add
    | none => true) &&
  (!(o.drains && dcActV o.dctl) ||
    (let t := getAct s b.core (dcActT o.dctl)
     t.valid && t.asid == o.ctx s && !t.pend && !(wonEffects s none core).tables.contains (dcActT o.dctl))) &&
  heldOk s o.g o.after

/-- An engine, or a drain path, that is free for the operation (condition 6); a multiply that drains keeps its drain path. -/
def freeUnit (s : State) (core : Nat) (o : TOp) : Option Nat :=
  let q := (s.core core).tsch
  let engBusy (u : Nat) : Bool := q.any fun x => x.st == .running && x.unit == u
  let drnBusy (u : Nat) : Bool := q.any fun x => x.unit == u && (x.st == .draining || (x.st == .running && x.kind == .mulDrain))
  (List.range 2).find? fun u => (!o.mul || !engBusy u) && (o.kind == .mul || !drnBusy u)

/-- The operation may start but for a unit; one that has started waits for a unit alone. -/
def startable (s : State) (core : Nat) (o : TOp) : Bool := o.st == .queued && (o.started || opReady s core o)
/-- Higher effective priority at acceptance, then earlier acceptance. -/
def opBetter (s : State) (core : Nat) (o : TOp) : Bool :=
  ((s.core core).tsch.any fun x => o.prio < x.prio && startable s core x && (freeUnit s core x).isSome) ||
  (((s.core core).tsch.takeWhile fun x => x.id ≠ o.id).any fun x => x.prio == o.prio && startable s core x && (freeUnit s core x).isSome)

/-- A stalled accumulator instruction's group goes on when entries have freed (R281). -/
def evTschAccept (core : Nat) (s : State) : State :=
  let waiting := s.groups.filter fun e => e.2.core == core && !e.2.ended && !e.2.saved && (standing e.2).any fun x => [0x260, 0x261, 0x263, 0x264, 0x266, 0x267].contains x.1
  match minBy (fun (a b : Nat × Group) => groupBefore s a.2 b.2) waiting with
  | some e => { s with agenda := .issue e.1 :: s.agenda }
  | none => s

/-! ### Futures of baton rows (R299, R303) -/

/-- A pending slot of a command resolves; a released one frees what it held at once (13 R305, R306). -/
def resolveFut (s : State) (g k lane cmd : Nat) (f : Fut → Fut) : State :=
  let fu := tget Fut.reset (s.group g).fut (64 * k + lane)
  if fu.st == .pending && fu.cmd == cmd then s.modGroup g fun gr => { gr with fut := tput gr.fut (64 * k + lane) (f fu) } else s
/-- The slot still holds the command. -/
def futLive (s : State) (g k lane cmd : Nat) : Bool :=
  let fu := tget Fut.reset (s.group g).fut (64 * k + lane)
  fu.st == .pending && fu.cmd == cmd && !(s.group g).ended
/-- V of a FAILED slot (R305). -/
def failV (code cause : Nat) : DWord := BitVec.ofNat 64 (cause * 256 + code)

/-- A baton queue. -/
def getBaton (s : State) (c q : Nat) : Baton := tget Baton.reset (s.cluster c).baton q
def modBaton (s : State) (c q : Nat) (f : Baton → Baton) : State :=
  s.modCluster c fun cl => { cl with baton := tmod Baton.reset cl.baton q f }

/-- A ring entry of a queue's binding. -/
def ringKey (b : Baton) (e : Nat) : Nat := 65536 * b.op + e

/-- The rows of a batch, with their places, whose futures are the batch's own: a handle that a later row of the batch fills for the same lane has
released the earlier one (R299, R301). -/
def Batch.ownRows (b : Batch) : List (BatonRow × Nat) :=
  let rows := b.rows.zip (List.range b.rows.length)
  rows.filter fun r => !rows.any fun x => r.2 < x.2 && x.1.g == r.1.g && x.1.k == r.1.k && x.1.lane == r.1.lane
/-- A batch ends with its rows failed: its ring entries free (R303). -/
def batchFail (s : State) (k : Nat × Nat × Nat) (code : Nat) (e : EngErr) : State :=
  let (c, q, id) := k
  match (getBaton s c q).batches.find? fun b => b.id == id with
  | none => s
  | some b =>
    let s := (b.ownRows.map (·.1)).foldl (fun s r => resolveFut s r.g r.k r.lane id fun f =>
      { f with st := .failed, v := failV code 0, tagPc := r.pc, tagSeq := r.seq, cause := e.1, sub := e.2.1, addr := e.2.2 }) s
    let gone : List Nat := match b.entry with
      | some n => (List.range 32).map fun j => ringKey (getBaton s c q) (n + j)
      | none => []
    (modBaton s c q fun x => { x with batches := x.batches.filter fun y => y.id ≠ id, ring := x.ring.filter fun n => !gone.contains n }).wire
      (.batonResume c q)

/-- A batch's chain has completed: its futures resolve to their entries (R299). -/
def batchDone (s : State) (k : Nat × Nat × Nat) : State :=
  let (c, q, id) := k
  let bt := getBaton s c q
  match bt.batches.find? fun b => b.id == id with
  | none => s
  | some b =>
    let e := b.entry.getD 0
    let x := bt.cfg.toNat
    let rows := b.ownRows.filter fun r => futLive s r.1.g r.1.k r.1.lane id
    let dead := ((List.range b.rows.length).filter fun j => !rows.any fun r => r.2 == j).map fun j => ringKey bt (e + j)
    let s := rows.foldl (fun s r => resolveFut s r.1.g r.1.k r.1.lane id fun f =>
      { f with st := .done, v := BitVec.ofNat 64 (bits x 119 64 + (e + r.2) * bits x 159 128), ring := some (c, q, ringKey bt (e + r.2)) }) s
    (modBaton s c q fun y => { y with batches := y.batches.filter fun z => z.id ≠ id
                                      ring := y.ring.filter fun n => !dead.contains n }).wire (.batonResume c q)

/-! ### End of an operation (R285, R290) -/

/-- Later records of the chain leave the queue. -/
def dropTail (s : State) (core : Nat) (o : TOp) : State :=
  let ids := (s.core core).tsch.foldl (fun (l : List Nat) x => match x.prev with
    | some p => if l.contains p then x.id :: l else l
    | none => l) [o.id]
  ((s.core core).tsch.filter fun x => x.id ≠ o.id && ids.contains x.id).foldl (fun s x => removeOp s core x) s

/-- Tiles from t up have POIS set. -/
def poisFrom (s : State) (core : Nat) (o : TOp) (t : Nat) : State :=
  ((opTiles s o).drop t).foldl (fun s p => setPois s core p true) s

/-- The slot that a stopped drain was to fill is EMPTY (R101); one that it has filled stays as it is. -/
def dropFill (s : State) (core : Nat) (o : TOp) : State :=
  if !o.started || o.st == .finished then s else match fillSlot s o with
    | some p => slotEmpty s core p
    | none => s

/-- A whole TTASK's flag contribution is made. -/
def flagAll (s : State) (o : TOp) : State := finishPend s o.g o.op
/-- The tile that the operation has come to, in its multiply or its drain. -/
def TOp.at (o : TOp) : Nat := if o.st == TState.draining then o.drained else o.tile
/-- RPROG (R277): its TILE counts the tiles multiplied, of an operation that only drains those drained. The field has 8 bits; of the 256 tiles that the
widest range completes it shows 0, which the spec leaves open (DESIGN CHOICE, log 100). -/
def TOp.rprog (o : TOp) : Nat := 2 ^ 21 + (if o.mul then o.tile else o.drained) % 256 * 2 ^ 13 + o.chunk
/-- The command's tag. -/
def TOp.tag (o : TOp) (core : Nat) : Tag := { g := o.g, pc := o.pc, seq := o.seq, core := core }

/-- An operation aborts on a fault (R290): POIS, its slot, the later records, the fault, and then the flag contribution. -/
def abortOp (s : State) (core : Nat) (o : TOp) (e : EngErr) (pois : Bool) : State :=
  let s := if pois then poisFrom s core o o.at else s
  let s := dropFill s core o
  let flag := pendFlag s o.g o.op
  let s := dropTail s core o
  let s := removeOp s core o
  let s := engFault s (o.tag core) flag e o.rprog .none none
  match o.baton with
  | some k => batchFail s k 4 e
  | none => flagAll s o

/-- The operation was cancelled: by its queue's end, or with the subtree or launch of its issuer (R278). -/
def opDead (s : State) (o : TOp) : Bool := o.dead || (o.baton.isNone && subCancelled s o.launch o.subtree)
/-- An operation of a cancelled set is dropped or abandoned (R278, R290): no counter and no flag moves. A drain whose tile is on its way
stops after it. -/
def cancelOp (s : State) (core : Nat) (o : TOp) : State :=
  let busy := match getEng s o.id with
    | some e => o.st == TState.draining && !e.lock && !e.finished
    | none => false
  if busy then setOp s core o { o with dead := true }
  else
    let s := if o.mul && o.started && o.st ≠ TState.draining && o.st ≠ TState.finished then poisFrom s core o o.tile else s
    let s := removeOp (dropFill s core o) core o
    if o.baton.isSome then s else cancelPend s o.g o.op

/-- An operation starts when it is the one to start (R282). -/
def evTschStart (core id : Nat) (s : State) : State :=
  match findOp s core id with
  | none => s
  | some o =>
    if o.st ≠ .queued then s
    else if opDead s o then cancelOp s core o
    else if !heldOk s o.g o.after then s.wire (.tschStart core id)
    else if !startable s core o || opBetter s core o then s
    else match freeUnit s core o with
      | none => s
      | some u =>
        let o' := { o with started := true, unit := u, st := if o.mul then .running else .draining }
        let s := setOp s core o o'
        let s := if o.started then s else match fillSlot s o with
          | some p => modTile s core p fun t => { t with st := .filling }
          | none => s
        let s := s.wire (if o.mul then .matrixChunk core id else .drainComplete core id)
        kickTsch s core

/-- A completed operation decrements its counter, then counts toward its flag (R285). -/
def evTaskComplete (core id : Nat) (s : State) : State :=
  match findOp s core id with
  | none => s
  | some o =>
    if opDead s o && o.st == .finished then cancelOp s core o
    else if o.st == .finished then
      let s := removeOp s core o
      let s := match o.cdc with
        | some k => decCounter s core k
        | none => s
      let s := match o.baton with
        | some k => if o.last then batchDone s k else s
        | none => s
      if !o.counts || o.baton.isSome then s
      else match (s.group o.g).findPend o.op with
        | none => s
        | some p => if p.left ≤ 1 then finishPend s o.g o.op else s.modPend o.g o.op fun x => { x with left := x.left - 1 }
    else if o.st == .abandoned then
      let s := if o.mul then poisFrom s core o o.tile else s
      let s := removeOp (dropTail (dropFill s core o) core o) core o
      match o.baton with
      | some k => batchFail s k 2 (0, 0, 0)
      | none => flagAll s o
    else s

/-! ### Multiplies (R276 to R278) -/

/-- The operands of a multiply. -/
def opndA (s : State) (o : TOp) : Opnd := opndOf s (s.block o.block) o.a o.astr (64 * (o.kch + 1))
def opndB (s : State) (o : TOp) : Opnd := opndOf s (s.block o.block) o.b o.bstr (64 * (o.kch + 1))
/-- The parts that its load pipe reads for the chunk at RPROG. -/
def opSegs (s : State) (o : TOp) : List EngSeg :=
  chunkSegs (opndA s o) (32 * (o.tile / o.nt)) o.chunk ++ chunkSegs (opndB s o) (32 * (o.tile % o.nt)) o.chunk

/-- A tile after one chunk, its steps summed or skipped. -/
def applyChunk (s : State) (core : Nat) (o : TOp) (fa fb : Nat) (skip : Bool) (ra rb : List RowGot) : State :=
  let p := opTile s o o.tile
  let row (l : List RowGot) (i : Nat) : List Stored := match l[i]? with
    | some r => r.vals
    | none => []
  accFill s core p fun i j =>
    let c := (accGet s core p i j).toNat
    BitVec.ofNat 32 (if skip then skipStep fa c o.pc.toNat else chunkSum fa fb o.skipz o.pc.toNat (row ra i) (row rb j) c)
/-- Some element of a tile is a NaN. -/
def accNan (s : State) (core p : Nat) : Bool := (List.range 1024).any fun k => fp32.isNan (accGet s core p (k / 32) (k % 32)).toNat

/-- The tile's first chunk begins: ZINIT (R276). -/
def zeroFirst (s : State) (core : Nat) (o : TOp) : State :=
  if o.chunk == 0 && o.zinit then
    setPois (accFill s core (opTile s o o.tile) fun _ _ => 0) core (opTile s o o.tile) false
  else s

/-- A startable operation of higher priority finds both engines busy (R278). -/
def outranked (s : State) (core : Nat) (o : TOp) : Bool :=
  (s.core core).tsch.any fun x => x.mul && o.prio < x.prio && startable s core x && (freeUnit s core x).isNone

/-- A chunk's operands have arrived: its steps are summed or skipped, a race tag poisons the tile (R290), RPROG advances, and the multiply
goes on, yields, drains or ends; or the data aborts it. -/
def matrixSum (s : State) (core : Nat) (o : TOp) (e : Option EngAcc) : State :=
  let oa := opndA s o
  let ob := opndB s o
  match fetchChunk s core e oa (32 * (o.tile / o.nt)) o.chunk, fetchChunk s core e ob (32 * (o.tile % o.nt)) o.chunk with
  | .error x, _ => abortOp s core o x.err x.pois
  | _, .error x => abortOp s core o x.err x.pois
  | .ok ra, .ok rb =>
    let p := opTile s o o.tile
    let skip := skipsChunk o.skipz (!pairInt oa.fmt && accNan s core p) ra rb
    let steps := 16 * max (if oa.spars == 0 then 0 else oa.spars) (if ob.spars == 0 then 0 else ob.spars)
    let steps := (if steps == 0 then 64 else steps) / kStep oa.fmt
    let s := applyChunk s core o oa.fmt ob.fmt skip ra rb
    let s := if ra.any (·.race) || rb.any (·.race) then setPois s core p true else s
    let s := evCount s (if skip then 0x0A else 0x09) (some core) steps
    let next := if o.chunk < o.kch then { o with chunk := o.chunk + 1 } else { o with tile := o.tile + 1, chunk := 0 }
    if next.tile < o.count then
      if outranked s core o then kickTsch (setOp s core o { next with st := .queued }) core
      else (setOp s core o next).wire (.matrixChunk core o.id)
    else if o.kind == .mulDrain then kickTsch ((setOp s core o { next with st := .draining }).wire (.drainComplete core o.id)) core
    else (setOp s core o { next with st := .finished }).wire (.taskComplete core o.id)

/-- A multiply goes on at RPROG (R276, R277): what its load pipe must read is read first, and a chunk is summed when all of it has come. -/
def evMatrixChunk (core id : Nat) (s : State) : State :=
  match findOp s core id with
  | none => s
  | some o =>
    if o.st ≠ .running then s
    else if opDead s o then cancelOp s core o
    else match getEng s id with
      | some e =>
        if !e.finished then s
        else if e.err.isSome then s.wireOnce (.enginePark core id)
        else matrixSum (dropEng s id) core o (some e)
      | none =>
        let s := zeroFirst s core o
        match opSegs s o with
        | [] => matrixSum s core o none
        | segs => engBegin s id (EngAcc.new (.me core o.unit) (mxeAgent core) o.asid (o.tag core) false segs (.matrixChunk core id))

/-- A load pipe's fault: a translation fault parks the operation at RPROG (R278); a read that the L2 watchdog retired aborts it, without
POIS, which the spec leaves open (log 79). -/
def evEnginePark (core id : Nat) (s : State) : State :=
  match findOp s core id, getEng s id with
  | some o, some e =>
    match e.err with
    | none => s
    | some err =>
      if o.st ≠ .running || !e.finished then s
      else if opDead s o then cancelOp s core o
      else
        let s := dropEng s id
        if err.1 == 21 then abortOp s core o err false
        else engFault (kickTsch (setOp s core o { o with st := .parked }) core) (o.tag core) (pendFlag s o.g o.op) err o.rprog (.matrix core id) none
  | _, _ => s

/-! ### Drains (R286 to R290) -/

/-- The pieces of tile t's output in the destination: (row of the tile, offset in its row, bytes). -/
def drainPieces (f cols nt : Nat) : List (Nat × Nat × Nat) :=
  (List.range 32).flatMap fun i =>
    if f == 5 then [(i, 16 * nt, 16), (i, cols / 2 + nt, 1)] else [(i, 4 * fmtWidth f * nt, 4 * fmtWidth f)]

/-- What one row of a tile drains to: its elements' bytes, and for FP4 the scale byte. -/
def drainRow (s : State) (core : Nat) (o : TOp) (t i : Nat) (old : List Byte) : List Byte × List Byte :=
  let f := dcOfmt o.dctl
  let tab := getAct s core (dcActT o.dctl)
  let bias (j : Nat) : Nat := match biasSlot s o with
    | p :: _ => leNat (peeks (s.core core).sp (tileBase s core p (getTile s core p) + 4 * (32 * (t % o.nt) + j)) 4)
    | [] => 0
  let xs := (List.range 32).map fun j => drainX o.dctl tab o.pc.toNat (accGet s core (opTile s o t) i j).toNat (bias j)
  if f == 5 then
    let (es, sc) := fp4Block (xs.map (·.1))
    (packBytes 4 es, leBytes sc 1)
  else
    let w := fmtWidth f
    (packBytes w ((xs.zip (List.range 32)).map fun x => drainOut o.dctl o.add o.pc.toNat x.1 (packedAt old w x.2)), [])

/-- The bias elements of a tile carry a tag. -/
def biasTagged (s : State) (core : Nat) (o : TOp) (t : Nat) : Bool :=
  (biasSlot s o).any fun p =>
    let a := tileBase s core p (getTile s core p) + 128 * (t % o.nt)
    (List.range 128).any fun i => tget false (s.core core).spUe ((a + i) / 16)

/-- Pieces of a tile's output in the destination, as (row of the tile, address, length). -/
def tilePieces (s : State) (core : Nat) (o : TOp) (t : Nat) : List (Nat × Nat × Nat) :=
  let r0 := 32 * (t / o.nt)
  match fillSlot s o with
  | some p =>
    let k := getTile s core p
    (drainPieces (dcOfmt o.dctl) k.nCols (t % o.nt)).map fun x => (x.1, tileBase s core p k + (r0 + x.1) * k.pitch + x.2.1, x.2.2)
  | none =>
    (drainPieces (dcOfmt o.dctl) (32 * o.nt) (t % o.nt)).map fun x => (x.1, descAddr o.ddest + (r0 + x.1) * o.dpitch + x.2.1, x.2.2)
/-- The bytes that a piece becomes. -/
def pieceBytes (s : State) (core : Nat) (o : TOp) (t : Nat) (x : Nat × Nat × Nat) (old : List Byte) : List Byte :=
  let r := drainRow s core o t x.1 old
  if dcOfmt o.dctl == 5 && x.2.2 == 1 then r.2 else r.1

/-- One tile drained into a slot, as one update; none when an add-on-store meets a tagged sector. -/
def drainSlot (s : State) (core p : Nat) (o : TOp) (t : Nat) : Option State :=
  let ps := tilePieces s core o t
  let ue := (getAcc s core (opTile s o t)).pois
  if o.add && ps.any (fun x => (List.range x.2.2).any fun i => tget false (s.core core).spUe ((x.2.1 + i) / 16)) then none
  else some (ps.foldl (fun s x =>
    let b := pieceBytes s core o t x (peeks (s.core core).sp x.2.1 x.2.2)
    tagCore (engWrite s core x.2.1 b (some p)) core x.2.1 (b.map fun _ => ue)) s)

/-- The access that writes a tile to global memory, or, for an add-on-store, locks the frames of its output (R289). -/
def drainAcc (s : State) (core : Nat) (o : TOp) (t : Nat) : EngAcc :=
  let ps := tilePieces s core o t
  let ue := (getAcc s core (opTile s o t)).pois
  let segs := if o.add then lockSegs (ps.map fun x => (x.2.1, x.2.2))
    else ps.flatMap fun x =>
      let b := pieceBytes s core o t x []
      writeSegs x.2.1 b (b.map fun _ => ue)
  { EngAcc.new (.me core o.unit) (mxeAgent core) o.asid (o.tag core) true segs (.drainComplete core o.id) with lock := o.add }

/-- The physical address of a byte of a locked access. -/
def EngAcc.physOf (e : EngAcc) (va : Nat) : Nat :=
  match e.out.find? fun x => x.2.1.va ≤ va && va < x.2.1.va + x.2.1.len with
  | some (_, x, pa) => pa + (va - x.va)
  | none => 0
/-- An add-on-store's frames are locked: its tile is updated and the frames are released (R289); none when the old bytes carry an
uncorrectable error. -/
def drainLocked (s : State) (core : Nat) (o : TOp) (t : Nat) (e : EngAcc) : Option State :=
  let ps := tilePieces s core o t
  let addrs (x : Nat × Nat × Nat) : List Nat := (List.range x.2.2).map (x.2.1 + ·)
  if ps.any fun x => (addrs x).any fun a => isUe s (e.physOf a) then none
  else
    let ue := (getAcc s core (opTile s o t)).pois
    let new : List (Nat × Byte) := ps.flatMap fun x =>
      (addrs x).zip (pieceBytes s core o t x ((addrs x).flatMap fun a => physRead s (e.physOf a) 1))
    let e' := { e with out := e.out.map fun x =>
      (x.1, { x.2.1 with tags := (List.range x.2.1.len).map fun i => ue && x.2.1.mask.toNat.testBit ((x.2.1.va + i) % 512) }, x.2.2) }
    let bytes : Sp (List Byte) := e.out.map fun x =>
      (x.1, (new.filter fun y => x.2.1.va ≤ y.1 && y.1 < x.2.1.va + x.2.1.len).map (·.2))
    let s := dropEng (unlock (setEng s o.id e') o.id (some bytes)) o.id
    some (ps.foldl (fun s x => engWatch s (o.tag core) o.asid x.2.1 x.2.2) s)

/-- A drain's slot is READY; its flags are computed when the output covers the slot, and 0 otherwise (R286, R101). -/
def fillReady (s : State) (core : Nat) (o : TOp) : State :=
  match fillSlot s o with
  | none => s
  | some p => slotReady s core p !((getTile s core p).nRows == 32 * o.mt && (getTile s core p).nCols == 32 * o.nt)
/-- A drain path's operation has done its work. -/
def drainDone (s : State) (core : Nat) (o : TOp) : State :=
  let s := if o.drains then evCount s 0x0B (some core) o.count else s
  (fillReady (setOp s core o { o with st := .finished }) core o).wire (.taskComplete core o.id)
/-- A tile is drained; the next one follows. -/
def drainNext (s : State) (core : Nat) (o : TOp) : State :=
  let o' := { o with drained := o.drained + 1 }
  let s := setOp s core o o'
  if o'.drained < o.count then s.wire (.drainComplete core o.id) else drainDone s core o'

/-- A drain's tile begins: into a slot it is done at once, and to global memory its access begins; the bias is read first (R287, R289). -/
def drainStart (s : State) (core : Nat) (o : TOp) : State :=
  if biasTagged s core o o.drained then abortOp s core o (12, 0, 0) true
  else match fillSlot s o with
    | some p => (match drainSlot s core p o o.drained with
      | some s => drainNext s core o
      | none => abortOp s core o (12, 0, 0) true)
    | none => engBegin s o.id (drainAcc s core o o.drained)

/-- The access of AZERO (which has none), ASAVE, ALOAD or a drain begins. -/
def drainBegin (s : State) (core : Nat) (o : TOp) : State :=
  let acc (write : Bool) (segs : List EngSeg) : State :=
    engBegin s o.id (EngAcc.new (.me core o.unit) (mxeAgent core) o.asid (o.tag core) write segs (.drainComplete core o.id))
  match o.kind with
  | .zero => drainDone ((List.range o.count).foldl (fun s t =>
      setPois (accFill s core (opTile s o t) fun _ _ => 0) core (opTile s o t) false) s) core o
  | .save =>
    let p := opTile s o 0
    let b := (List.range 1024).flatMap fun k => leBytes (accGet s core p (k / 32) (k % 32)).toNat 4
    acc true (writeSegs o.va b (b.map fun _ => (getAcc s core p).pois))
  | .load => acc false (readSegs o.va 4096)
  | _ => drainStart s core o
/-- The access has ended without a fault: ALOAD's tile is written, with POIS from its tags (R298), or a drain's tile is done. -/
def drainGot (s : State) (core : Nat) (o : TOp) (e : EngAcc) : State :=
  match o.kind with
  | .load =>
    let p := opTile s o 0
    let d := e.read o.va 4096
    drainDone (setPois (accFill s core p fun i j => BitVec.ofNat 32 (leNat ((d.bytes.drop (4 * (32 * i + j))).take 4))) core p
      (d.ue.any id || d.race.any id)) core o
  | .save | .zero => drainDone s core o
  | _ => drainNext s core o

/-- A drain path's operation goes on: tile by tile (R289), to its end, or to a fault that stops it (R290). -/
def evDrainComplete (core id : Nat) (s : State) : State :=
  match findOp s core id with
  | none => s
  | some o =>
    if o.st ≠ .draining then s
    else match getEng s id with
      | none => if opDead s o then cancelOp s core o else drainBegin s core o
      | some e =>
        let locked := e.lock && e.segs.isEmpty && e.out.all fun x => (tfind e.got x.1).isSome
        if !(e.finished || locked) then s
        else if opDead s o then cancelOp s core o
        else match e.err with
          | some err => abortOp s core o err false
          | none =>
            if e.lock then match drainLocked s core o o.drained e with
              | some s => drainNext s core o
              | none => abortOp s core o (12, 0, (tilePieces s core o o.drained).foldl (fun _ x => x.2.1) 0) true
            else drainGot (dropEng s id) core o e

/-! ### Instructions (R292 to R298) -/

/-- TMM (R292). -/
def tmmSem : Meaning where
  check c s :=
    let b := s.block c.gr.block
    let sh := sOp c c.f.c
    let st := sOp c c.f.e
    let bad := shapeBad b sh true ++
      mulBad s b (c.gr.getS c.f.a.toNat) (c.gr.getS c.f.b.toNat) (st % 2 ^ 32) (st / 2 ^ 32) sh
    tschCauses c s bad (shapeTiles sh)
  stall c s := tschFull s c.gr.core 1
  act c s :=
    let st := sOp c c.f.e
    acceptOne c s (fun o => { o with
      a := c.gr.getS c.f.a.toNat, b := c.gr.getS c.f.b.toNat, astr := st % 2 ^ 32, bstr := st / 2 ^ 32, skipz := c.f.modBit 0
      zinit := c.f.modBit 1 }) .mul (sOp c c.f.c)

/-- The chain that a TTASK names, and what its reading meets. -/
def ttaskChain (c : Ctx) (s : State) : List (BitVec 512) × Option Bad :=
  if sOp c c.f.a % 64 ≠ 0 then ([], some (3, 0)) else readChain s (s.block c.gr.block) 256 (sOp c c.f.a) []

/-- TTASK (R293): the records that the reading reached are checked, whatever ended it. -/
def ttaskSem : Meaning where
  check c s := if fenceHolds c then [] else
    let (rs, e) := ttaskChain c s
    tschCauses c s (rs.flatMap (taskBad s (s.block c.gr.block) (s.ctxOf c.gr)) ++ e.toList) (rs.flatMap fun r => shapeTiles (tf r 157 128))
  stall c s := tschFull s c.gr.core (ttaskChain c s).1.length
  act c s :=
    let rs := (ttaskChain c s).1
    let (id, s) := s.fresh
    let base := shapeOp id c s .mul 0
    let (s, ops) := chainOps base id rs none s
    let s := takeTiles s (s.block c.gr.block) (s.ctxOf c.gr) (rs.flatMap fun r => shapeTiles (tf r 157 128))
    let n := (rs.filter fun r => bitOf r.toNat 176).length
    let s := if n == 0 then s else addPend s c.g { newPend c id s with left := n }
    (acceptOps s c.gr.core ops, n ≠ 0)

/-- TDEP (R294). -/
def tdepSem : Meaning where
  check c s := if dcBad s c.gr.core c.f.c.toNat (s.ctxOf c.gr) then groupCause c 1 0x12 0 else []
  sure c s := if dcBad s c.gr.core c.f.c.toNat (s.ctxOf c.gr) then groupCause c 1 0x12 0 else []
  act c s :=
    let k := c.f.c.toNat
    let d := getDc s c.gr.core k
    let word := d.asid * 2 ^ 32 + (if d.under then 2 ^ 16 else 0) + d.value
    let s := s.modGroup c.g fun gr => gr.wrS c.f.d.toNat (BitVec.ofNat 64 word) false
    let d' : DepCtr :=
      if c.f.modBit 0 then
        let x : Int := match c.f.lit with
          | some l => l.toInt
          | none => if c.f.modBit 1 then c.f.b.toInt else (c.gr.getS c.f.b.toNat).toInt
        let y := (d.value : Int) + x
        { d with value := (max 0 (min 65535 y)).toNat, under := d.under || y < 0 }
      else
        let x : Nat := match c.f.lit with
          | some l => l.toNat
          | none => if c.f.modBit 1 then c.f.b.toNat else sOp c c.f.b
        { asid := s.ctxOf c.gr, under := false, value := x % 2 ^ 16 }
    let s := s.modCore c.gr.core fun x => { x with dcs := tput x.dcs k d' }
    (if d'.value == 0 then kickTsch s c.gr.core else s, false)

/-- AZERO (R295). -/
def azeroSem : Meaning where
  check c s := tschCauses c s (shapeBad (s.block c.gr.block) (sOp c c.f.a) false) (shapeTiles (sOp c c.f.a))
  stall c s := tschFull s c.gr.core 1
  act c s := acceptOne c s id .zero (sOp c c.f.a)

/-- ADRAIN (R296). -/
def adrainSem : Meaning where
  check c s :=
    let b := s.block c.gr.block
    let sh := sOp c c.f.a
    let ctl := c.gr.getS c.f.c.toNat
    tschCauses c s (shapeBad b sh false ++ drainBad s b (s.ctxOf c.gr) (c.gr.getS c.f.b.toNat) ctl (sOp c c.f.e)
      (c.f.modBit 0 || bitOf ctl.toNat 37) sh) (shapeTiles sh)
  stall c s := tschFull s c.gr.core 1
  act c s :=
    let ctl := c.gr.getS c.f.c.toNat
    acceptOne c s (fun o => { o with
      ddest := c.gr.getS c.f.b.toNat, dctl := ctl, dpitch := sOp c c.f.e, add := c.f.modBit 0 || bitOf ctl.toNat 37 }) .drain (sOp c c.f.a)

/-- The state word of a tile (R279). -/
def accWord (a : AccSt) : Nat :=
  (if a.busy ≠ 0 then 2 ^ 18 else 0) + (if a.pois then 2 ^ 17 else 0) + (if a.ownv then 2 ^ 16 else 0) + a.owner

/-- A tile number operand's causes. -/
def tileBad1 (c : Ctx) (s : State) : List Bad :=
  (if 1024 ≤ sOp c c.f.a then [(1, 2)] else []) ++
  (if (s.block c.gr.block).accs.length ≤ sOp c c.f.a % 1024 then [(4, 0)] else [])

/-- AOWN (R297). -/
def aownSem : Meaning where
  check c s :=
    let bad := tileBad1 c s
    let a := getAcc s c.gr.core ((s.block c.gr.block).accs.getD (sOp c c.f.a) 0)
    if !bad.isEmpty then bad.flatMap fun x => groupCause c x.1 x.2 0
    else if a.ownv && a.owner ≠ s.ctxOf c.gr && !c.gr.hm && !ctxPriv s (s.ctxOf c.gr) then groupCause c 2 0 0 else []
  act c s :=
    let p := (s.block c.gr.block).accs.getD (sOp c c.f.a) 0
    let a := getAcc s c.gr.core p
    let s := s.modGroup c.g fun gr => gr.wrS c.f.d.toNat (BitVec.ofNat 64 (accWord a)) false
    if a.ownv && a.owner ≠ s.ctxOf c.gr && a.busy ≠ 0 then (s, false)
    else (modAcc s c.gr.core p fun x => { x with ownv := true, owner := s.ctxOf c.gr }, false)

/-- ASAVE and ALOAD (R298). -/
def accImageSem (kind : TKind) : Meaning where
  check c s :=
    let a := sOp c c.f.b
    let bad := (tileBad1 c s).flatMap (fun x => groupCause c x.1 x.2 0) ++ (if a % 16 ≠ 0 then groupCause c 3 0 a else []) ++
      (if noncanon a || 2 ^ 56 < a + 4096 then groupCause c 8 1 a else [])
    if bad.isEmpty then tschCauses c s [] [sOp c c.f.a] else bad
  stall c s := tschFull s c.gr.core 1
  act c s := acceptOne c s (fun o => { o with va := sOp c c.f.b }) kind (sOp c c.f.a % 1024)

def asaveSem : Meaning := accImageSem .save
def aloadSem : Meaning := accImageSem .load

def execTschAccept (core : Nat) (s : State) : Host.Outcome State Fault Refusal := .next (evTschAccept core s)
def execTschStart (core id : Nat) (s : State) : Host.Outcome State Fault Refusal := .next (evTschStart core id s)
def execMatrixChunk (core id : Nat) (s : State) : Host.Outcome State Fault Refusal := .next (evMatrixChunk core id s)
def execEnginePark (core id : Nat) (s : State) : Host.Outcome State Fault Refusal := .next (evEnginePark core id s)
def execDrainComplete (core id : Nat) (s : State) : Host.Outcome State Fault Refusal := .next (evDrainComplete core id s)
def execTaskComplete (core id : Nat) (s : State) : Host.Outcome State Fault Refusal := .next (evTaskComplete core id s)

/-! ### The instructions -/

/-- TMM (R292). -/
def execTmm (f : EForm) (s : State) : Host.Outcome State Fault Refusal := issue 0x260 f tmmSem s
/-- TTASK (R293). -/
def execTtask (f : EForm) (s : State) : Host.Outcome State Fault Refusal := issue 0x261 f ttaskSem s
/-- TDEP (R294). -/
def execTdep (f : EForm) (s : State) : Host.Outcome State Fault Refusal := issue 0x262 f tdepSem s
/-- AZERO (R295). -/
def execAzero (f : EForm) (s : State) : Host.Outcome State Fault Refusal := issue 0x263 f azeroSem s
/-- ADRAIN (R296). -/
def execAdrain (f : EForm) (s : State) : Host.Outcome State Fault Refusal := issue 0x264 f adrainSem s
/-- AOWN (R297). -/
def execAown (f : EForm) (s : State) : Host.Outcome State Fault Refusal := issue 0x265 f aownSem s
/-- ASAVE (R298). -/
def execAsave (f : EForm) (s : State) : Host.Outcome State Fault Refusal := issue 0x266 f asaveSem s
/-- ALOAD (R298). -/
def execAload (f : EForm) (s : State) : Host.Outcome State Fault Refusal := issue 0x267 f aloadSem s

end Sys2Proof.Machine
end

