-- ==== Sys2Proof/Machine/BatonQ.lean ====
section
/-!
DEFINITION. Baton queues (12 R299 to R303): batches, firing, binding and unbinding, and LEAFCFG, LEAF, LEAF.FLUSH.
-/

namespace Sys2Proof.Machine

open Sys2Proof

/-! ### The configuration record (R300) -/

def bcTmo (x : BitVec 256) : Nat := bits x.toNat 31 28
def bcSlot (x : BitVec 256) : Nat := bits x.toNat 27 22
def bcFmt (x : BitVec 256) : Nat := bits x.toNat 35 32
def bcLen (x : BitVec 256) : Nat := bits x.toNat 46 36
def bcEn (x : BitVec 256) : Bool := bitOf x.toNat 47
def bcArea (x : BitVec 256) : Nat := bits x.toNat 119 64
def bcStride (x : BitVec 256) : Nat := bits x.toNat 159 128
def bcNres (x : BitVec 256) : Nat := bits x.toNat 175 160
/-- Bytes of a row of RLEN elements (R301), the last filled up. -/
def bcRow (x : BitVec 256) : Nat := (bcLen x * fmtWidth (bcFmt x) + 7) / 8

/-! ### Batches (R299) -/

/-- The physical slot of an input half. -/
def batonSlot (s : State) (b : Baton) (half : Nat) : Nat := (tilePhys (s.block b.block) (bcSlot b.cfg + half)).getD 0
/-- A slot can take a new batch. -/
def halfFree (s : State) (b : Baton) (half : Nat) : Bool :=
  let p := batonSlot s b half
  fillOk { getTile s b.core p with st := wonTile s none b.core p } false
/-- The batch that collects rows. -/
def Baton.openB (b : Baton) : Option Batch := b.batches.find? fun x => !x.firing
/-- Rows that can be taken now (R301). -/
def batonRoom (s : State) (b : Baton) : Nat :=
  match b.openB with
  | some x => (32 - x.rows.length) + (if halfFree s b b.half then 32 else 0)
  | none => if halfFree s b b.half then 32 + (if halfFree s b (1 - b.half) then 32 else 0) else 0

/-- The open batch fires: it waits for its tiles, its ring entries and the queue. -/
def batonFire (s : State) (c q : Nat) : State :=
  match (getBaton s c q).openB with
  | none => s
  | some x =>
    (modBaton s c q fun b => { b with batches := b.batches.map fun y => if y.id == x.id then { y with firing := true } else y }).wireOnce
      (.batonResume c q)

/-- The elements' bytes of one row of a slot: those pushed, and zeros in every column from RLEN up (R301). The scale bytes of an FP4 row are no
part of what is pushed and stay as they are (log 40). -/
def rowImage (t : Tile) (x : BitVec 256) (row : List Byte) : List Byte :=
  leBytes (leNat row % 2 ^ (bcLen x * fmtWidth (bcFmt x))) (if bcFmt x == 5 then t.nCols / 2 else t.rowB)
/-- Bytes of row j of a batch's slot are written (R301, R104). Like a tile copy and a drain, the write clears V in the shadow records of its
sectors, which the spec leaves open (log 75). -/
def putRow (s : State) (b : Baton) (half j : Nat) (bytes : Tile → List Byte) : State :=
  let p := batonSlot s b half
  let t := getTile s b.core p
  engWrite s b.core (tileBase s b.core p t + j * t.pitch) (bytes t) (some p)

/-- A batch opens in the next input slot (R299). -/
def openBatch (s : State) (c q : Nat) : State :=
  let b := getBaton s c q
  let (id, s) := s.fresh
  let s := modTile s b.core (batonSlot s b b.half) fun t => { t with st := .filling, az := false, af := false, taint := false }
  let new : Batch := { id := id, half := b.half, rows := [], since := s.now, firing := false, entry := none, told := false }
  (modBaton s c q fun x => { x with half := 1 - x.half, batches := x.batches ++ [new] }).wire (.batonTimeout c q)

/-- One row enters the open batch. -/
def pushRow (s : State) (c q : Nat) (r : BatonRow) (row : List Byte) : State × Nat :=
  let s := if (getBaton s c q).openB.isNone then openBatch s c q else s
  let b := getBaton s c q
  match b.openB with
  | none => (s, 0)
  | some x =>
    let s := putRow s b x.half x.rows.length fun t => rowImage t b.cfg row
    let s := modBaton s c q fun y => { y with batches := y.batches.map fun z =>
      if z.id == x.id then { z with rows := z.rows ++ [r] } else z }
    (if x.rows.length == 31 then batonFire s c q else s, x.id)

/-- The template's operations for a batch with ring entry e (R299 step 4). -/
def batonOps (s : State) (c q : Nat) (b : Baton) (x : Batch) (e : Nat) : State × List TOp :=
  let base : TOp :=
    { id := 0, g := b.g, block := b.block, launch := b.launch, asid := b.asid, pc := b.pc, seq := b.seq, op := 0, prio := b.prio
      kind := .mul, st := .queued, acc := 0, mt := 1, nt := 1, kch := 0, a := 0, b := 0, astr := 0, bstr := 0, zinit := false
      skipz := false, dctl := 0, ddest := 0, dpitch := 0, add := false, va := 0, wdc := none, cdc := none, counts := false
      prev := none, last := true, tile := 0, chunk := 0, started := false, unit := 0, subtree := b.subtree, baton := some (c, q, x.id)
      after := [], drained := 0, dead := false }
  let (s, ops) := chainOps base 0 b.tmpl none s
  let slot (d : DWord) : DWord :=
    if !descVa d && descSlot d == bcSlot b.cfg then BitVec.ofNat 64 (bcSlot b.cfg + x.half) else d
  (s, ops.map fun o =>
    let o := { o with a := slot o.a, b := slot o.b }
    if o.last then { o with ddest := BitVec.ofNat 64 (2 ^ 63 + bcArea b.cfg + e * bcStride b.cfg), dpitch := bcStride b.cfg } else o)

/-- The lowest aligned set of 32 free ring entries. -/
def ringFree (b : Baton) : Option Nat :=
  ((List.range (bcNres b.cfg / 32)).map (32 * ·)).find? fun e => (List.range 32).all fun j => !b.ring.contains (ringKey b (e + j))

/-- A fired batch enters the scheduler if nothing holds it; else it waits. -/
def batonLaunch (s : State) (c q : Nat) (b : Baton) (x : Batch) : State :=
  let bl := s.block b.block
  let ctx := recCtx (s.launch b.launch).record
  let ts := b.tmpl.flatMap fun r => shapeTiles (tf r 157 128)
  let upd (s : State) (f : Batch → Batch) : State := modBaton s c q fun y =>
    { y with batches := y.batches.map fun z => if z.id == x.id then f z else z }
  match foreignTile s bl ctx ts with
  | some t =>
    if x.told then s
    else engFault (upd s fun z => { z with told := true }) { g := b.g, pc := b.pc, seq := b.seq, core := b.core } none (15, 0, 0) 0 .none (some t)
  | none =>
    match ringFree b with
    | none => s
    | some e =>
      if tschFull s b.core b.tmpl.length then s
      else
        let k := x.rows.length
        let s := takeTiles s bl ctx ts
        let s := (List.range (32 - k)).foldl (fun s j => putRow s b x.half (k + j) fun t => List.replicate t.rowB 0) s
        let p := batonSlot s b x.half
        let t := getTile s b.core p
        let t32 : Tile := { t with rows := if t.unit32 then 1 else 32 }
        let base := tileBase s b.core p t
        let fl := if t.taint then (false, false) else slotFlags s b.core t32 base
        let s := modTile s b.core p fun t => { t with st := .ready, az := fl.1, af := fl.2, taint := false }
        let (s, ops) := batonOps s c q b x e
        let s := upd s fun z => { z with entry := some e }
        let s := modBaton s c q fun y => { y with ring := y.ring ++ (List.range k).map fun j => ringKey b (e + j) }
        acceptOps s b.core ops

/-- A queue is bound (R300). -/
def batonBind (s : State) (c q g op : Nat) (pc : DWord) (seq : BitVec 32) (cfg : BitVec 256) (tmpl : List (BitVec 512)) : State :=
  let gr := s.group g
  modBaton s c q fun _ => { Baton.reset with
    bound := true, block := gr.block, launch := gr.launch, core := gr.core, cfg := cfg, tmpl := tmpl, g := g, gnum := gr.num, op := op
    subtree := gr.subtree, prio := effPrio s gr, asid := gr.dasid, pc := pc, seq := seq }

/-- An unbinding queue without a batch is free; those that waited complete, and the next binding is made (R300). -/
def batonUnbound (s : State) (c q : Nat) : State :=
  let b := getBaton s c q
  let s := modBaton s c q fun _ => Baton.reset
  let s := match b.ncfg, b.unbinding.getLast? with
    | some x, some (g, op) => batonBind s c q g op b.npc b.nseq x b.ntmpl
    | _, _ => s
  b.unbinding.foldl (fun s k => resolvePend s k.1 k.2 []) s

/-- Waiting batches go on, oldest first, and an unbinding queue ends. -/
def evBatonResume (c q : Nat) (s : State) : State :=
  let b := getBaton s c q
  if !b.bound then s
  else
    let s := match b.batches.find? fun x => x.firing && x.entry.isNone with
      | some x => batonLaunch s c q b x
      | none => s
    let b := getBaton s c q
    if b.closing && b.batches.isEmpty then batonUnbound s c q
    else if b.batches.any (fun x => x.firing && x.entry.isNone) then s.wireOnce (.batonResume c q)
    else s

/-- The open batch's timeout (R299). -/
def evBatonTimeout (c q : Nat) (s : State) : State :=
  let b := getBaton s c q
  match b.openB with
  | none => s
  | some x => if x.since + (bcTmo b.cfg + 1) * 500 ≤ s.now then batonFire s c q else s.wireOnce (.batonTimeout c q)

/-- The group stands at a LEAF of queue q of cluster c. -/
def atLeaf (c q : Nat) (gr : Group) : Bool := clusterOf gr.core == c && (standing gr).any fun x => x.1 == 0x269 && x.2.c.toNat == q
/-- Another LEAF, which stands and waits for its queue, is taken before the group's. -/
def leafBehind (s : State) (g c q : Nat) : Bool := servedAfter s g (atLeaf c q)

/-- A stalled LEAF of the queue goes on when its rows can be taken, by age, then by core number (R299). -/
def evLeafAccept (c q : Nat) (s : State) : State :=
  match minBy (servedBefore s) (s.groups.filter fun e => !e.2.ended && !e.2.saved && atLeaf c q e.2) with
  | some e => { s with agenda := .issue e.1 :: s.agenda }
  | none => s

/-- A queue begins to unbind: its open batch fires, and it is free when its last chain has completed. -/
def batonClose (s : State) (c q : Nat) : State :=
  (batonFire (modBaton s c q fun b => { b with closing := true }) c q).wireOnce (.batonResume c q)

/-! ### LEAFCFG (R300) -/

/-- The configuration at s[A], or its cause. -/
def leafCfgAt (c : Ctx) (s : State) : Except Bad (BitVec 256) :=
  let b := s.block c.gr.block
  let a := sOp c c.f.a
  if a % 32 ≠ 0 then .error (3, 0)
  else if b.spSize < a + 32 then .error (4, 0)
  else if (List.range 2).any fun k => tget false (s.core c.gr.core).spUe ((b.spBase + a) / 16 + k) then .error (12, 0)
  else .ok (BitVec.ofNat 256 (leNat (peeks (s.core c.gr.core).sp (b.spBase + a) 32)))

/-- The template as it will run: its last record's destination is the result area. -/
def tmplChecked (x : BitVec 256) (rs : List (BitVec 512)) : List (BitVec 512) :=
  match rs.getLast? with
  | none => []
  | some r =>
    rs.dropLast ++ [BitVec.ofNat 512 (setBits (setBits r.toNat 383 320 (2 ^ 63 + bcArea x)) 415 384 (bcStride x))]

/-- The causes of a binding configuration. -/
def leafCfgBad (s : State) (b : Block) (ctx : Nat) (x : BitVec 256) : List Bad :=
  let slotBad (p : Option Nat) : List Bad := match p with
    | none => [(4, 0)]
    | some p =>
      let t := getTile s b.core p
      if !t.defd || t.fmt ≠ bcFmt x || t.spars ≠ 0 || t.nRows < 32 || t.nCols < bcLen x || t.nCols % 64 ≠ 0 then [(1, 0x10)] else []
  let tm := bits x.toNat 21 0
  (if bcSlot x == 63 then [(1, 0x15)] else slotBad (tilePhys b (bcSlot x)) ++ slotBad (tilePhys b (bcSlot x + 1))) ++
  (if bcNres x % 32 ≠ 0 || bcNres x < 32 || 32768 < bcNres x || bcStride x % 16 ≠ 0 || bcLen x == 0 || 1024 < bcLen x || pairClass (bcFmt x) == 0 then
    [(1, 2)] else []) ++
  (if bcArea x % 16 ≠ 0 then [(3, 0)] else []) ++
  (if tm % 64 ≠ 0 then [(3, 0)] else
    let (rs, e) := readChain s b 16 tm []
    let h := rs.headD 0
    let l := rs.getLastD 0
    let first : Bool := !rs.isEmpty && (descVa (tDw h 0) || descSlot (tDw h 0) ≠ bcSlot x)
    let last : Bool := e.isNone && (tf l 161 160 == 0 || (tDw l 5).toNat ≠ 2 ^ 63 || tf l 415 384 ≠ 0)
    (if first || last || rs.any fun r => bitOf r.toNat 176 then [(1, 0x11)] else []) ++
    (if e.isSome then rs else tmplChecked x rs).flatMap (taskBad s b ctx) ++ e.toList)

/-- LEAFCFG. With EN = 0, which uses no field but EN, the fields that describe a binding are not checked, which the spec leaves open (DESIGN CHOICE, log
103); reserved bits and the queue are. -/
def leafcfgSem : Meaning where
  check c s := if fenceHolds c then [] else
    let bad : List Bad :=
      if 8 ≤ c.f.c.toNat then [(1, 0x15)]
      else
        let bt := getBaton s (clusterOf c.gr.core) c.f.c.toNat
        (if bt.bound && bt.block ≠ c.gr.block then [(1, 0x15)] else []) ++
        match leafCfgAt c s with
        | .error e => [e]
        | .ok x =>
          (if bits x.toNat 255 176 ≠ 0 || bits x.toNat 127 120 ≠ 0 || bits x.toNat 63 48 ≠ 0 then [(1, 2)] else []) ++
          (if bcEn x then leafCfgBad s (s.block c.gr.block) (s.ctxOf c.gr) x else [])
    bad.flatMap fun x => groupCause c x.1 x.2 0
  act c s :=
    let q := c.f.c.toNat
    let k := clusterOf c.gr.core
    match leafCfgAt c s with
    | .error _ => (s, false)
    | .ok x =>
      let tmpl := (readChain s (s.block c.gr.block) 16 (bits x.toNat 21 0) []).1
      let bt := getBaton s k q
      if !bt.bound then
        let (s, l) := pendReady c s []
        (if bcEn x then batonBind s k q c.g (s.nextId - 1) c.pc c.gr.seq x tmpl else s, l)
      else
        let (id, s) := s.fresh
        let s := addPend s c.g (newPend c id s)
        let s := modBaton s k q fun b => { b with
          unbinding := b.unbinding ++ [(c.g, id)], ncfg := if bcEn x then some x else none, ntmpl := tmpl, npc := c.pc, nseq := c.gr.seq }
        (batonClose s k q, true)

/-! ### LEAF and LEAF.FLUSH (R301, R302) -/

/-- The queue takes no row of the group's launch. A queue that is still unbinding counts as unbound here, which the spec leaves open (DESIGN CHOICE,
log 105). -/
def leafUnbound (c : Ctx) (s : State) : Bool :=
  let b := getBaton s (clusterOf c.gr.core) c.f.c.toNat
  !b.bound || b.closing || b.launch ≠ c.gr.launch

/-- v registers a LEAF reads. -/
def leafRegs (c : Ctx) (s : State) : Nat :=
  if c.f.modBit 0 then 1 else ceilDiv (bcRow (getBaton s (clusterOf c.gr.core) c.f.c.toNat).cfg) 4

/-- The sectors of a .S row, as places. -/
def leafSectors (c : Ctx) (s : State) (l n : Nat) : List (Nat × Loc) :=
  let a := (c.gr.getV (vNum c.regs c.f.a.toNat) l).toNat
  (List.range (ceilDiv n 16)).map fun i => (a + 16 * i, .core c.gr.core ((s.block c.gr.block).spBase + a + 16 * i))

/-- One lane's causes. The bytes of a .S row are read at issue, and so RACE_DETECT and UE_DATA are found there, where 17 R397 gives a load's the
deferred stage (DESIGN CHOICE, log 104). -/
def leafLane (c : Ctx) (s : State) (n l : Nat) : List LaneCause :=
  let mk (k u a : Nat) : List LaneCause := [{ lane := l, cause := k, sub := u, addr := a }]
  if (useV c.f.a (leafRegs c s) 1 false).pois c l then mk 10 0 0
  else if !c.f.modBit 0 then []
  else
    let a := (c.gr.getV (vNum c.regs c.f.a.toNat) l).toNat
    if a % 16 ≠ 0 then mk 3 0 a
    else if 2 ^ 22 ≤ a || (s.block c.gr.block).spSize < a + n then mk 4 0 a
    else
      let ks := leafSectors c s l n
      (if recRace (s.recOf c.gr) == 2 && ks.any (fun k => conflicts s c.g (shadowAt s k.2) false) then mk 11 0 a else []) ++
      (if ks.any fun k => locUe s k.2 then mk 12 0 a else [])

/-- The queue cannot take every active lane's row now. -/
def leafFull (c : Ctx) (s : State) : Bool := batonRoom s (getBaton s (clusterOf c.gr.core) c.f.c.toNat) < (lanesOf c.lanes).length

/-- LEAF (R301): it stands behind one that was there before it (R299). -/
def leafSem : Meaning where
  uses c s := [useV c.f.a (leafRegs c s) 1 false]
  check c s := if fenceHolds c then [] else
    let n := bcRow (getBaton s (clusterOf c.gr.core) c.f.c.toNat).cfg
    if leafUnbound c s then onLanes c.lanes 1 0x15
    else if !c.f.modBit 0 && 64 < n then onLanes c.lanes 1 2
    else if !(useV c.f.a (leafRegs c s) 1 false).rangeOk c.regs then onLanes c.lanes 1 4
    else (lanesOf c.lanes).flatMap (leafLane c s n)
  stall c s := leafFull c s || leafBehind s c.g (clusterOf c.gr.core) c.f.c.toNat
  onStall c s := if leafFull c s && !leafBehind s c.g (clusterOf c.gr.core) c.f.c.toNat then batonFire s (clusterOf c.gr.core) c.f.c.toNat else s
  act c s :=
    let k := clusterOf c.gr.core
    let q := c.f.c.toNat
    let h := c.f.d.toNat
    let n := bcRow (getBaton s k q).cfg
    let s := if c.f.modBit 0 && recRace (s.recOf c.gr) == 1 then
        (lanesOf c.lanes).foldl (fun s l => (leafSectors c s l n).foldl (fun s x =>
          if conflicts s c.g (shadowAt s x.2) false then raceRecord s c.gr 1 x.1 c.pc.toNat (shadowAt s x.2) else s) s) s
      else s
    let s := (List.range 64).foldl (fun s l => releaseFut s c.g h l) s
    let s := (lanesOf c.lanes).foldl (fun s l =>
      let row := if c.f.modBit 0 then
          peeks (s.core c.gr.core).sp ((s.block c.gr.block).spBase + (c.gr.getV (vNum c.regs c.f.a.toNat) l).toNat) n
        else leBytes (vWords c.gr c.regs c.f.a.toNat (ceilDiv n 4) l) n
      let (s, id) := pushRow s k q { g := c.g, k := h, lane := l, pc := c.pc, seq := c.gr.seq } row
      s.modGroup c.g fun gr => { gr with fut := tput gr.fut (64 * h + l) { Fut.reset with st := .pending, cmd := id } }) s
    pendReady c s []

/-- LEAF.FLUSH (R302). -/
def leafFlushSem : Meaning where
  check c s := if 8 ≤ c.f.c.toNat then groupCause c 1 2 0 else if leafUnbound c s then groupCause c 1 0x15 0 else []
  act c s := (batonFire s (clusterOf c.gr.core) c.f.c.toNat, false)

def execBatonTimeout (c q : Nat) (s : State) : Host.Outcome State Fault Refusal := .next (evBatonTimeout c q s)
def execBatonResume (c q : Nat) (s : State) : Host.Outcome State Fault Refusal := .next (evBatonResume c q s)
def execLeafAccept (c q : Nat) (s : State) : Host.Outcome State Fault Refusal := .next (evLeafAccept c q s)

/-! ### The instructions -/

/-- LEAFCFG (R300). -/
def execLeafcfg (f : EForm) (s : State) : Host.Outcome State Fault Refusal := issue 0x268 f leafcfgSem s
/-- LEAF (R301). -/
def execLeaf (f : EForm) (s : State) : Host.Outcome State Fault Refusal := issue 0x269 f leafSem s
/-- LEAF_FLUSH (R302). -/
def execLeafFlush (f : EForm) (s : State) : Host.Outcome State Fault Refusal := issue 0x26A f leafFlushSem s

end Sys2Proof.Machine
end

