-- ==== Sys2Proof/Machine/Side.lean ====
section
/-!
DEFINITION. The side engines (13): futures with FWAIT, FPOLL, FDROP; the collision query engine with CQRAY, CQSPH, CQBOX; the hash accumulator
with HCFG, HADD, HDRAIN; spike queues with SPKPOP, SPKSTAT; Orchard with ALLOC, FREE, POOLCFG.
-/

namespace Sys2Proof.Machine

open Sys2Proof

/-! ### Futures (R305 to R308) -/

/-- A lane's slot of a handle. -/
def slotOf (gr : Group) (k l : Nat) : Fut := tget Fut.reset gr.fut (64 * k + l)
/-- V as FWAIT and FPOLL read it: an EMPTY slot reads CODE 0x01. -/
def Fut.value (f : Fut) : DWord := match f.st with
  | .empty => failV 1 0
  | _ => f.v
/-- A fault that ended the slot's command is still to be raised. -/
def Fut.fault (f : Fut) : Bool := f.st == .failed && f.cause ≠ 0

/-- What FWAIT and FPOLL write, and release (R307). -/
def readFutures (c : Ctx) (s : State) : State :=
  let k := c.f.a.toNat
  (lanesOf c.lanes).foldl (fun s l =>
    let gr := s.group c.g
    let f := slotOf gr k l
    let pend := f.st == .pending
    let gr := if pend then gr else wrVec gr c.regs c.f.d.toNat true l f.value.toNat false
    let gr := gr.wrP c.f.c.toNat l (!pend) false
    let gr := gr.wrP c.f.e.toNat l (f.st == .failed || f.st == .empty) false
    let s := s.setGroup c.g gr
    if c.f.modBit 0 && !pend then releaseFut s c.g k l else s) s

/-- The lanes whose slot is still pending. -/
def anyPending (c : Ctx) : Bool := (lanesOf c.lanes).any fun l => (slotOf c.gr c.f.a.toNat l).st == .pending

/-- The active lanes whose slot holds a fault still to be raised, of one command with the lowest of them: those that one FWAIT raises
together, the others at the FWAIT again after its trap. -/
def faultLanes (c : Ctx) : List Nat :=
  let slot (l : Nat) : Fut := slotOf c.gr c.f.a.toNat l
  let ls := (lanesOf c.lanes).filter fun l => (slot l).fault
  match ls with
  | [] => []
  | l :: _ => ls.filter fun m =>
      (slot m).tagPc == (slot l).tagPc && (slot m).tagSeq == (slot l).tagSeq && (slot m).cause == (slot l).cause && (slot m).sub == (slot l).sub

/-- FWAIT (R307): a fault that ended a command is raised here, once. -/
def fwaitSem : Meaning where
  check c _ :=
    if anyPending c then []
    else (faultLanes c).map fun l =>
      let f := slotOf c.gr c.f.a.toNat l
      { lane := l, cause := f.cause, sub := f.sub, addr := 0 }
  stall c _ := anyPending c
  engine c s :=
    match faultLanes c with
    | [] => none
    | l :: ls =>
      let f := slotOf c.gr c.f.a.toNat l
      some ({ cause := f.cause, sub := f.sub, addr := f.addr, tagPc := f.tagPc, tagSeq := f.tagSeq, rprog := 0, flag := none, parked := .none
              atile := none },
        (l :: ls).foldl (fun s l => s.modGroup c.g fun gr =>
          { gr with fut := tmod Fut.reset gr.fut (64 * c.f.a.toNat + l) fun f => { f with cause := 0 } }) s)
  act c s :=
    let s := readFutures c s
    (match c.flag, c.gr.hm with
      | some k, false => s.modGroup c.g fun gr => { gr with fwaits := (c.f.a.toNat, k) :: gr.fwaits }
      | _, _ => s, false)

/-- FPOLL (R307). -/
def fpollSem : Meaning where
  act c s := (readFutures c s, false)

/-- FDROP (R308). -/
def fdropSem : Meaning where
  act c s := ((lanesOf c.lanes).foldl (fun s l => releaseFut s c.g c.f.a.toNat l) s, false)

/-! ### The collision query engine (R309 to R315) -/

/-- A voxel, or a vector. -/
abbrev V3 := Int × Int × Int

/-- How a descent ends: it needs a node, or finds the voxel occupied with its key, or empty, or meets a bad node. -/
inductive Desc where
  | need (ix : Nat)
  | hit (key : Nat)
  | empty
  | bad
  deriving DecidableEq, Repr

def ndMask (n : DWord) : Nat := bits n.toNat 47 40
def ndOcc (n : DWord) : Nat := bits n.toNat 39 32
def ndBase (n : DWord) : Nat := bits n.toNat 31 0
/-- A node faults (R309, R310). -/
def nodeBad (n : DWord) (last : Bool) : Bool := bits n.toNat 63 48 ≠ 0 || (ndMask n &&& ndOcc n) ≠ 0 || (last && ndMask n ≠ 0)
/-- PopCount of a byte. -/
def pop8 (x : Nat) : Nat := ((List.range 8).filter fun i => bitOf x i).length

/-- The descent to a voxel, by offsets u from the cube's corner, from a node at a level with `left` levels below it and itself (R310). -/
def descend (nodes : Sp DWord) (u : Nat × Nat × Nat) : Nat → Nat → Desc
  | 0, _ => .empty
  | left + 1, ix =>
    if 2 ^ 29 - 1 ≤ ix then .bad
    else match tfind nodes ix with
    | none => .need ix
    | some n =>
      if nodeBad n (left == 0) then .bad
      else
        let b (x : Nat) : Nat := x / 2 ^ left % 2
        let i := b u.1 + 2 * b u.2.1 + 4 * b u.2.2
        if bitOf (ndOcc n) i then .hit (8 * ix + i)
        else if bitOf (ndMask n) i then descend nodes u left (ndBase n + pop8 (ndMask n &&& (2 ^ i - 1)))
        else .empty

/-- Occupied(c) over the nodes read so far. -/
def occupied (nodes : Sp DWord) (depth : Nat) (c : V3) : Desc :=
  let h : Int := 2 ^ (depth - 1)
  let inCube (x : Int) : Bool := -h ≤ x && x < h
  if inCube c.1 && inCube c.2.1 && inCube c.2.2 then
    descend nodes ((c.1 + h).toNat, (c.2.1 + h).toNat, (c.2.2 + h).toNat) depth 0
  else .empty

/-- The first of several descents that is not empty. -/
def firstHit (f : V3 → Desc) : List V3 → Desc
  | [] => .empty
  | c :: r => match f c with
    | .empty => firstHit f r
    | d => d

/-- How a query goes on: it needs a node, meets a bad one, or resolves with V. -/
inductive QRes where
  | need (ix : Nat)
  | bad
  | done (v : Nat)
  deriving DecidableEq, Repr

/-- Dist(t) of R312, for t = n / m. -/
def distOf (d : V3) (n m : Nat) : Nat :=
  min (2 ^ 32 - 1) (n * isqrt (d.1 * d.1 + d.2.1 * d.2.1 + d.2.2 * d.2.2).toNat / m)

/-- t of an axis at a voxel index, as a fraction with a positive denominator (R312). -/
def axisT (c p d : Int) : Option (Int × Nat) :=
  if d == 0 then none
  else
    let b := if 0 < d then (c + 1) * 2 ^ 16 else c * 2 ^ 16
    some (if 0 < d then b - p else p - b, d.natAbs)
/-- Fraction order. -/
def fracLt (a b : Int × Nat) : Bool := a.1 * b.2 < b.1 * a.2

/-- The walk of R312 from voxel c at parameter te. -/
def rayWalk (f : V3 → Desc) (p d : V3) : Nat → V3 → Nat × Nat → QRes
  | 0, _, _ => .bad
  | n + 1, c, te =>
    match f c with
    | .need ix => .need ix
    | .bad => .bad
    | .hit k => .done (k * 2 ^ 32 + distOf d te.1 te.2)
    | .empty =>
      let ts : List (Nat × Int × Nat) :=
        ([(0, axisT c.1 p.1 d.1), (1, axisT c.2.1 p.2.1 d.2.1), (2, axisT c.2.2 p.2.2 d.2.2)] : List (Nat × Option (Int × Nat))).filterMap
          fun x => x.2.map fun t => (x.1, t)
      match minBy (fun (a b : Nat × Int × Nat) => fracLt a.2 b.2) ts with
      | none => .done (0xFFFFFFFF * 2 ^ 32 + distOf d 1 1)
      | some (a, t) =>
        if (t.2 : Int) < t.1 then .done (0xFFFFFFFF * 2 ^ 32 + distOf d 1 1)
        else
          let c' : V3 :=
            if a == 0 then (c.1 + d.1.sign, c.2.1, c.2.2)
            else if a == 1 then (c.1, c.2.1 + d.2.1.sign, c.2.2)
            else (c.1, c.2.1, c.2.2 + d.2.2.sign)
          rayWalk f p d n c' (t.1.toNat, t.2)

/-- The offset set of R313 in its order. -/
def sphOffsets (r : Nat) : List V3 :=
  let k := ceilDiv r (2 ^ 16)
  let rg : List Int := (List.range (2 * k + 1)).map fun (n : Nat) => (n : Int) - (k : Int)
  (List.range (3 * k * k + 1)).flatMap fun m =>
    if r * r < m * 2 ^ 32 then []
    else rg.flatMap fun l => rg.flatMap fun j => rg.filterMap fun i =>
      if i * i + j * j + l * l == (m : Int) then some (i, j, l) else none

/-- The box test of a voxel (R314). -/
def boxInside (c h : V3) (sn cs : Int) (v : V3) : Bool :=
  let q (x : Int) : Int := x * 2 ^ 16 + 2 ^ 15
  let dx := q v.1 - c.1
  let dy := q v.2.1 - c.2.1
  let dz := q v.2.2 - c.2.2
  (dx * cs + dy * sn).natAbs ≤ (h.1 * 2 ^ 15).natAbs && (dy * cs - dx * sn).natAbs ≤ (h.2.1 * 2 ^ 15).natAbs && dz.natAbs ≤ h.2.2.natAbs

/-- The box's candidates in ascending z, then y, then x, from candidate i of n. -/
def boxWalk (f : V3 → Desc) (inside : V3 → Bool) (lo : V3) (wx wy : Nat) : Nat → Nat → QRes
  | 0, _ => .done (0xFFFFFFFF * 2 ^ 32)
  | n + 1, i =>
    let v : V3 := (lo.1 + (i % wx : Nat), lo.2.1 + (i / wx % wy : Nat), lo.2.2 + (i / wx / wy : Nat))
    if inside v then
      match f v with
      | .need ix => .need ix
      | .bad => .bad
      | .hit k => .done (k * 2 ^ 32)
      | .empty => boxWalk f inside lo wx wy n (i + 1)
    else boxWalk f inside lo wx wy n (i + 1)

/-- Floor(x / 2^16). -/
def vox (x : Int) : Int := x / 2 ^ 16

/-- A query as far as the nodes read let it go. -/
def runQuery (q : Query) : QRes :=
  let a (i : Nat) : Int := (q.args.getD i 0).toInt
  let u (i : Nat) : Int := ((q.args.getD i 0).toNat : Int)
  let p0 : V3 := (a 0, a 1, a 2)
  let f := occupied q.nodes q.depth
  if q.kind == 2 then
    let h : V3 := (u 3, u 4, u 5)
    let r := h.1 + h.2.1
    let lo : V3 := (vox (p0.1 - r), vox (p0.2.1 - r), vox (p0.2.2 - h.2.2))
    let wx := (vox (p0.1 + r) - lo.1 + 1).toNat
    let wy := (vox (p0.2.1 + r) - lo.2.1 + 1).toNat
    let wz := (vox (p0.2.2 + h.2.2) - lo.2.2 + 1).toNat
    let w := (q.args.getD 6 0).toNat
    boxWalk f (boxInside p0 h (signed 16 (w / 2 ^ 16)) (signed 16 w)) lo wx wy (wx * wy * wz) 0
  else
    let d : V3 := (a 3 - a 0, a 4 - a 1, a 5 - a 2)
    let os := sphOffsets (q.args.getD 6 0).toNat
    let test : V3 → Desc :=
      if q.kind == 0 then f else fun c => firstHit f (os.map fun o => (c.1 + o.1, c.2.1 + o.2.1, c.2.2 + o.2.2))
    rayWalk test p0 d 200000 (vox p0.1, vox p0.2.1, vox p0.2.2) (0, 1)

/-- The query of an id. -/
def findQuery (s : State) (c id : Nat) : Option Query := (s.cluster c).cqe.find? fun q => q.id == id
/-- A query changed. -/
def setQuery (s : State) (c : Nat) (q : Query) : State :=
  s.modCluster c fun cl => { cl with cqe := cl.cqe.map fun x => if x.id == q.id then q else x }

/-- A lane of a query instruction has resolved, or was dropped: the flag follows the last (R315). -/
def queryGone (s : State) (c : Nat) (q : Query) : State :=
  let s := s.modCluster c fun cl => { cl with cqe := cl.cqe.filter fun x => x.id ≠ q.id }
  let s := evCount s 0x0F (some (s.group q.g).core) 1
  match (s.group q.g).findPend q.op with
  | none => s
  | some p => if p.left ≤ 1 then finishPend s q.g q.op else s.modPend q.g q.op fun x => { x with left := x.left - 1 }

/-- A query ends with a fault: its future is FAILED, CODE 0x03. -/
def queryFail (s : State) (c : Nat) (q : Query) (e : EngErr) : State :=
  queryGone (resolveFut s q.g q.k q.lane q.id fun f =>
    { f with st := .failed, v := failV 3 e.1, tagPc := q.pc, tagSeq := q.seq, cause := e.1, sub := e.2.1, addr := e.2.2 }) c q

/-- The launch-site tag of a query. -/
def Query.tag (q : Query) (s : State) : Tag := { g := q.g, pc := q.pc, seq := q.seq, core := (s.group q.g).core }
/-- Address of a node. -/
def Query.node (q : Query) (ix : Nat) : Nat := q.base + 16 * ix

/-- A started query reads the node it needs, or resolves. -/
def queryGo (s : State) (c : Nat) (q : Query) : State :=
  match runQuery q with
  | .bad => queryFail s c q (18, 3, q.base)
  | .done v => queryGone (resolveFut s q.g q.k q.lane q.id fun f => { f with st := .done, v := BitVec.ofNat 64 v }) c q
  | .need ix =>
    engBegin s q.id (EngAcc.new (.cluster c) (cqeAgent c) q.asid (q.tag s) false (readSegs (q.node ix) 16) (.cqeNodeRead c q.id))

/-- A node has come (R311): it must be a frozen replica without an uncorrectable error. -/
def queryTake (s : State) (c : Nat) (q : Query) (e : EngAcc) : State :=
  match runQuery q with
  | .need ix =>
    let d := e.read (q.node ix) 16
    if d.race.any id then queryFail s c q (18, 1, q.node ix)
    else if d.ue.any id then queryFail s c q (12, 0, q.node ix)
    else
      let q := { q with nodes := tput q.nodes ix (BitVec.ofNat 64 (leNat (d.bytes.take 8))) }
      queryGo (setQuery s c q) c q
  | _ => queryGo s c q

/-- A query goes on: it starts, takes the node it has read, parks on a translation fault, or is dropped. -/
def evCqeNodeRead (c id : Nat) (s : State) : State :=
  match findQuery s c id with
  | none => s
  | some q =>
    if q.parked then s
    else if q.dropped then
      queryGone (resolveFut s q.g q.k q.lane q.id fun f => { f with st := .failed, v := failV 2 0 }) c q
    else if !q.started then
      if !futLive s q.g q.k q.lane q.id || cancelled s (s.group q.g) then queryGone s c q
      else if !heldOk s q.g q.after then s.wireOnce (.cqeNodeRead c id)
      else
        let q := { q with started := true }
        queryGo (setQuery s c q) c q
    else match getEng s id with
    | none => queryGo s c q
    | some e =>
      if !e.finished then s
      else match e.err with
      | some err => if err.1 == 21 then queryFail (dropEng s id) c q err else s.wireOnce (.cqePark c id)
      | none => queryTake (dropEng s id) c q e

/-- A translation fault parks the query (R315); that of an issuer that has ended is abandoned at once (12 R278). -/
def evCqePark (c id : Nat) (s : State) : State :=
  match findQuery s c id, getEng s id with
  | some q, some e =>
    match e.err with
    | none => s
    | some err =>
      if q.parked || !q.started || q.dropped || !e.finished then s
      else
        let s := dropEng s id
        let gone := (s.group q.g).ended
        let s := setQuery s c { q with parked := !gone }
        let s := engFault s (q.tag s) (pendFlag s q.g q.op) err 0 (if gone then .none else .query c id) none
          if gone then queryGone s c q else s
  | _, _ => s

/-- A register of the query is poisoned in the lane. -/
def queryPois (c : Ctx) (kind l : Nat) : Bool :=
  (List.range (if kind == 0 then 6 else 7)).any fun i => c.gr.poisV (vNum c.regs (c.f.a.toNat + i)) l
/-- A lane's causes at the issue of a query (R315); a poisoned operand has no value to check. -/
def queryLane (c : Ctx) (kind l : Nat) : List LaneCause :=
  let mk (k u : Nat) : List LaneCause := [{ lane := l, cause := k, sub := u, addr := 0 }]
  let w (i : Nat) : Nat := (c.gr.getV (vNum c.regs (c.f.a.toNat + i)) l).toNat
  let depth := sOp c c.f.c
  (if resPois c l then mk 10 0 else []) ++
  (if !c.gr.poisS c.f.c.toNat && (depth < 1 || 16 < depth) then mk 1 2 else []) ++
  (if !c.gr.poisS c.f.b.toNat && sOp c c.f.b % 16 ≠ 0 then [{ lane := l, cause := 3, sub := 0, addr := sOp c c.f.b }] else []) ++
  if !queryPois c kind l &&
      ((kind == 1 && 8 * 2 ^ 16 < w 6) || (kind == 2 && (64 * 2 ^ 16 < w 3 || 64 * 2 ^ 16 < w 4 || 64 * 2 ^ 16 < w 5))) then mk 18 4 else []

/-- A query instruction (R315): accepted whole. -/
def querySem (kind : Nat) : Meaning where
  check c _ := (lanesOf c.lanes).flatMap (queryLane c kind)
  stall c s := 512 < (s.cluster (clusterOf c.gr.core)).cqe.length + (lanesOf c.lanes).length
  act c s :=
    let k := clusterOf c.gr.core
    let h := c.f.d.toNat
    let (op, s) := s.fresh
    let ls := lanesOf c.lanes
    let s := addPend s c.g { newPend c op s with left := ls.length }
    let after := heldBy c 4
    (ls.foldl (fun s l =>
      let s := releaseFut s c.g h l
      let (id, s) := s.fresh
      let q : Query :=
        { id := id, kind := kind, g := c.g, op := op, k := h, lane := l, asid := c.gr.dasid, base := sOp c c.f.b, depth := sOp c c.f.c
          args := (List.range 7).map fun i => if i < 6 || kind ≠ 0 then c.gr.getV (vNum c.regs (c.f.a.toNat + i)) l else 0
          nodes := [], started := false, dropped := false, parked := false, pc := c.pc, seq := c.gr.seq, after := after }
      let s := s.modGroup c.g fun gr => { gr with fut := tput gr.fut (64 * h + l) { Fut.reset with st := .pending, cmd := id } }
      (s.modCluster k fun cl => { cl with cqe := cl.cqe ++ [q] }).wire (.cqeNodeRead k id)) s, true)

def cqraySem : Meaning := querySem 0
def cqsphSem : Meaning := querySem 1
def cqboxSem : Meaning := querySem 2

/-! ### The hash accumulator (R316 to R318) -/

/-- The launch to which the HACC is bound once every HCFG accepted so far is done (log 80). -/
def haccBound (s : State) (k : Nat) : Option Nat :=
  let h := (s.cluster k).hacc
  h.queue.foldl (fun b x => match (s.group x.1).findPend x.2 with
    | some p => if p.op ≠ 0x276 then b else if p.f.modBit 0 then some (s.group x.1).launch else none
    | none => b) (h.bound.map (·.1))
/-- A group's own HACC is bound to its launch. -/
def haccMine (c : Ctx) (s : State) : Bool := haccBound s (clusterOf c.gr.core) == some c.gr.launch
/-- The HACC of a cluster changed. -/
def modHacc (s : State) (k : Nat) (f : Hacc → Hacc) : State := s.modCluster k fun cl => { cl with hacc := f cl.hacc }

/-- Age and core of a command, by which the HACC takes what the cluster's cores present (R317). -/
def haccKey (s : State) (x : Nat × Nat) : Nat × Nat :=
  (match (s.group x.1).findPend x.2 with
    | some p => p.since
    | none => 0, (s.group x.1).core)
/-- A command takes its place behind those taken before it; the one in progress stays first. -/
def haccPut (s : State) (q : List (Nat × Nat)) (x : Nat × Nat) : List (Nat × Nat) :=
  match q with
  | [] => [x]
  | h :: r =>
    let before (a b : Nat × Nat) : Bool :=
      let i := haccKey s a
      let j := haccKey s b
      i.1 < j.1 || (i.1 == j.1 && i.2 < j.2)
    h :: insertBy before x r
/-- A command is accepted: HCFG, HADD and HDRAIN are done one after the other (R316 to R318; log 80). -/
def haccAccept (c : Ctx) (s : State) (f : Pend → Pend) : State × Bool :=
  let (id, s) := s.fresh
  let s := addPend s c.g (f (newPend c id s))
  let k := clusterOf c.gr.core
  ((modHacc s k fun h => { h with queue := haccPut s h.queue (c.g, id) }).wire (.instrComplete c.g id), true)
/-- The command at the head is done, and the next goes on. -/
def haccPop (s : State) (k : Nat) : State :=
  let s := modHacc s k fun h => { h with queue := h.queue.drop 1 }
  match (s.cluster k).hacc.queue with
  | x :: _ => s.wireOnce (.instrComplete x.1 x.2)
  | [] => s

/-- HCFG (R316). -/
def hcfgSem : Meaning where
  check c s :=
    (match haccBound s (clusterOf c.gr.core) with
      | some l => if l ≠ c.gr.launch then groupCause c 1 0x16 0 else []
      | none => []) ++
    (if sOp c c.f.b == 0 || 2 ^ 24 < sOp c c.f.b then groupCause c 1 2 0 else []) ++
    (if sOp c c.f.a % 16 ≠ 0 then groupCause c 3 0 (sOp c c.f.a) else [])
  act c s := haccAccept c s fun p => { p with vals := [(0, sOp c c.f.a), (1, sOp c c.f.b)] }
/-- HCFG is done: the HACC is bound, or unbound, and clear. -/
def hcfgDone (s : State) (k g : Nat) (p : Pend) : State :=
  let s := modHacc s k fun h =>
    if p.f.modBit 0 then
      { Hacc.reset with bound := some ((s.group g).launch, p.asid), ring := tget 0 p.vals 0, n := tget 0 p.vals 1, queue := h.queue }
    else { Hacc.reset with queue := h.queue }
  haccPop (finishPend s g p.id) k

/-- Bank and index of a key. -/
def haccBank (k : Nat) : Nat := bits k 3 0 ^^^ bits k 11 8 ^^^ bits k 19 16 ^^^ bits k 27 24
def haccIx (k : Nat) : Nat := bits k 13 4 ^^^ bits k 23 14 ^^^ bits k 31 28

/-- The entry that takes a key, among the four that it probes, or none. -/
def haccProbe (t : Sp (Word × Word)) (key : Word) : Nat → Nat → Option Nat
  | 0, _ => none
  | n + 1, j =>
    let e := 1024 * haccBank key.toNat + (haccIx key.toNat + j) % 1024
    match tfind t e with
    | none => some e
    | some (k, _) => if k == key then some e else haccProbe t key n (j + 1)

/-- One lane's addition (R317): merged, or counted into the ring as a spill still to be written, or dropped. WP passes a spill whatever
becomes of its write (log 79). -/
def haccAdd (p : Pend) (a : Hacc × List (Nat × Nat)) (l : Nat) : Hacc × List (Nat × Nat) :=
  let (h, spills) := a
  let key := BitVec.ofNat 32 (tget 0 p.vals l)
  let x := BitVec.ofNat 32 (tget 0 p.vals2 l)
  match haccProbe h.tab key 4 0 with
  | some e =>
    let v := match tfind h.tab e with
      | some (_, y) => BitVec.ofNat 32 (sumResult fp32 fp32 .rn false l p.pc.toNat [] [] [y.toNat, x.toNat] false)
      | none => x
    ({ h with tab := tput h.tab e (key, v) }, spills)
  | none =>
    if h.wp < h.n then ({ h with wp := h.wp + 1 }, spills ++ [(h.ring + 8 * h.wp, x.toNat * 2 ^ 32 + key.toNat)])
    else ({ h with drop := min 0x7FFF (h.drop + 1) }, spills)

/-- The launch-site tag of a pending command. -/
def Pend.tag (p : Pend) (s : State) (g : Nat) : Tag := { g := g, pc := p.pc, seq := p.seq, core := (s.group g).core }
/-- A pending command's fault is queued. -/
def pendFault (s : State) (g : Nat) (p : Pend) (e : EngErr) : State := engFault s (p.tag s g) (p.flag.map fun k => (p.hm, k)) e 0 .none none
/-- A pending command writes to global memory, and goes on when that is done. -/
def pendWrite (s : State) (g : Nat) (p : Pend) (c agent asid : Nat) (segs : List EngSeg) : State :=
  engBegin s p.id (EngAcc.new (.cluster c) agent asid (p.tag s g) true segs (.instrComplete g p.id))

/-- The next spill is written; after the last the HADD is done. -/
def haddSpill (s : State) (k g : Nat) (p : Pend) : State :=
  match p.addrs with
  | [] => haccPop (finishPend s g p.id) k
  | (va, x) :: _ => pendWrite s g p k (gscAgent k) p.asid (writeSegs va (leBytes x 8) [])
/-- HADD goes on (R317): every lane merges, in ascending order, and then each spill is written; one that faults is an engine fault. -/
def haddStep (s : State) (k g : Nat) (p : Pend) : State :=
  if p.aux == 0 then
    let (h, spills) := (lanesOf p.lanes).foldl (haccAdd p) ((s.cluster k).hacc, [])
    let p := { p with aux := 1, addrs := spills }
    haddSpill ((modHacc s k fun _ => h).modPend g p.id fun _ => p) k g p
  else match getEng s p.id with
  | none => s
  | some e =>
    if !e.finished then s
    else
      let s := dropEng s p.id
      let s := match e.err with
        | some err => pendFault s g p err
        | none => s
      let p := { p with addrs := p.addrs.drop 1 }
      haddSpill (s.modPend g p.id fun _ => p) k g p

/-- HADD (R317), held by an XFENCE on the GSC path. -/
def haddSem : Meaning where
  check c s := (if haccMine c s then [] else onLanes c.lanes 1 0x16) ++ memPois c
  stall c _ := !(heldBy c 1).isEmpty
  act c s := haccAccept c s fun p =>
    let word (n : BitVec 8) (l : Nat) : Nat × Nat := (l, (c.gr.getV (vNum c.regs n.toNat) l).toNat)
    { p with vals := (lanesOf c.lanes).map (word c.f.a), vals2 := (lanesOf c.lanes).map (word c.f.b) }

/-- The sectors that a drain writes: the valid entries in bank order and then index order, two to a sector (R318). -/
def drainSegs (t : Sp (Word × Word)) (a : Nat) : List EngSeg :=
  let recs := t.map fun e => leBytes (e.2.2.toNat * 2 ^ 32 + e.2.1.toNat) 8
  (List.range ((recs.length + 1) / 2)).map fun j =>
    let b := ((recs.drop (2 * j)).take 2).flatten
    { va := a + 16 * j, len := b.length, bytes := b, tags := [], mask := 0 }
/-- HDRAIN goes on (R318): the records are written; a fault stops it there, and otherwise the table is cleared and sD written. -/
def hdrainStep (s : State) (k g : Nat) (p : Pend) : State :=
  let h := (s.cluster k).hacc
  match getEng s p.id with
  | none => pendWrite s g p k (gscAgent k) p.asid (drainSegs h.tab (tget 0 p.vals 0))
  | some e =>
    if !e.finished then s
    else
      let s := dropEng s p.id
      let s := match e.err with
        | some err => pendFault s g p err
        | none =>
          let w := sWrite p.f.d (BitVec.ofNat 64 (h.wp * 2 ^ 32 + h.drop * 2 ^ 17 + h.tab.length))
          (modHacc s k fun h => { h with tab := [], wp := 0, drop := 0 }).modGroup g fun gr => applyRes gr [w]
      haccPop (finishPend s g p.id) k

/-- HDRAIN (R318). -/
def hdrainSem : Meaning where
  check c s :=
    (if haccMine c s then [] else groupCause c 1 0x16 0) ++ (if sOp c c.f.a % 16 ≠ 0 then groupCause c 3 0 (sOp c c.f.a) else [])
  stall c _ := !(heldBy c 1).isEmpty
  act c s := haccAccept c s fun p => { p with vals := [(0, sOp c c.f.a)] }

/-- The HACC goes on with the command at the head of its queue. -/
def haccStep (s : State) (g id : Nat) : State :=
  let k := clusterOf (s.group g).core
  match (s.cluster k).hacc.queue, (s.group g).findPend id with
  | x :: _, some p =>
    if x ≠ (g, id) then s
    else match p.op with
    | 0x276 => hcfgDone s k g p
    | 0x277 => haddStep s k g p
    | _ => hdrainStep s k g p
  | _, _ => s

/-! ### Spike queues (R319 to R322) -/

/-- RXCFG of a port. -/
def rxcfg (s : State) (p : Nat) : Nat := winNat s (0x500000 + 0x40 * p)
/-- Spike queue q takes events. -/
def spkEn (s : State) (q : Nat) : Bool := bitOf (rxcfg s q) 63 && bitOf (rxcfg s q) 59 && bitOf (winNat s 0x520040) q
def getSpk (s : State) (q : Nat) : Spike := tget Spike.reset s.dev.spikes q
def modSpk (s : State) (q : Nat) (f : Spike → Spike) : State :=
  { s with dev := { s.dev with spikes := tmod Spike.reset s.dev.spikes q f } }
/-- A queue disabled, or of another context. -/
def spkBad (s : State) (gr : Group) (q : Nat) : Bool := !spkEn s q || bits (rxcfg s q) 39 24 ≠ s.ctxOf gr

/-- One lane's pop (R321). -/
def spkPop (c : Ctx) (q : Nat) (s : State) (l : Nat) : State :=
  let k := getSpk s q
  match k.evs, k.times with
  | e :: es, t :: ts =>
    let s := modSpk s q fun k => { k with evs := es, times := ts, lastT := t }
    s.modGroup c.g fun gr => (wrVec gr c.regs c.f.d.toNat true l e.toNat false).wrP c.f.e.toNat l true false
  | _, _ => s.modGroup c.g fun gr => gr.wrP c.f.e.toNat l false false

/-- SPKPOP (R321): pops are served by age, then by core number. -/
def spkpopSem : Meaning where
  check c s := if spkBad s c.gr c.f.c.toNat then onLanes c.lanes 1 0x17 else []
  stall c s := (getSpk s c.f.c.toNat).evs.isEmpty || servedAfter s c.g fun gr => (standing gr).any fun x => x.1 == 0x279 && x.2.c == c.f.c
  act c s := ((lanesOf c.lanes).foldl (spkPop c c.f.c.toNat) s, false)

/-- SPKSTAT (R322). -/
def spkstatSem : Meaning where
  check c s := if spkBad s c.gr c.f.c.toNat then groupCause c 1 0x17 0 else []
  act c s :=
    let q := c.f.c.toNat
    let k := getSpk s q
    let w := k.evs.length * 2 ^ 47 + k.drops * 2 ^ 32 + k.reord * 2 ^ 16 + (if spkEn s q then 1 else 0)
    let v : DWord := if c.f.modBit 0 then k.lastT else BitVec.ofNat 64 w
    pendReady c (if c.f.modBit 1 then modSpk s q fun k => { k with drops := 0, reord := 0 } else s) [sWrite c.f.d v]

/-! ### Orchard (R323, R324) -/

def getPool (s : State) (p : Nat) : Pool := tget Pool.reset s.dev.pools p
def modPool (s : State) (p : Nat) (f : Pool → Pool) : State := { s with dev := { s.dev with pools := tmod Pool.reset s.dev.pools p f } }
/-- Free nodes of a pool. -/
def Pool.free (p : Pool) : Nat := p.stack.length + (p.count - p.fresh)
/-- Node n is allocated. -/
def Pool.taken (p : Pool) (n : Nat) : Bool := n < p.fresh && !p.stack.contains n
/-- The index on top of the stack, and the pool without it. -/
def Pool.pop (p : Pool) : Option (Nat × Pool) :=
  match p.stack with
  | n :: r => some (n, { p with stack := r })
  | [] => if p.fresh < p.count then some (p.fresh, { p with fresh := p.fresh + 1 }) else none

/-- The pool may not be used by the group. -/
def poolBad (s : State) (gr : Group) (p : Nat) : Bool := !(getPool s p).en || (getPool s p).asid ≠ s.ctxOf gr

/-- One lane's ALLOC: a pointer, or 0 from an empty pool. -/
def allocLane (c : Ctx) (a : State × List (Nat × Nat)) (l : Nat) : State × List (Nat × Nat) :=
  let p := c.f.c.toNat
  match (getPool a.1 p).pop with
  | none => (a.1, a.2 ++ [(l, 0)])
  | some (n, k) => (modPool a.1 p fun _ => k, a.2 ++ [(l, k.base + n * 2 ^ k.lsize)])
/-- The registers that the pointers go to. -/
def allocRes (c : Ctx) (ps : List (Nat × Nat)) : List RegWrite :=
  ps.flatMap fun x => (List.range 2).map fun j =>
    { isS := false, n := vNum c.regs (c.f.d.toNat + j), lane := x.1, val := BitVec.ofNat 64 (x.2 / 2 ^ (32 * j) % 2 ^ 32), poison := false }

/-- ALLOC (R324): with ZERO the nodes are to be cleared first. -/
def allocSem : Meaning where
  check c s := if poolBad s c.gr c.f.c.toNat then onLanes c.lanes 1 0x18 else []
  act c s :=
    let k := getPool s c.f.c.toNat
    let (s, ps) := (lanesOf c.lanes).foldl (allocLane c) (s, [])
    if !k.zero then pendReady c s (allocRes c ps)
    else
      let (id, s) := s.fresh
      let p := { newPend c id s with
        res := allocRes c ps, addrs := (ps.filter fun x => x.2 ≠ 0).map fun x => (x.2, 2 ^ k.lsize), asid := k.asid }
      ((addPend s c.g p).wire (.instrComplete c.g id), true)
/-- ALLOC with ZERO goes on: node after node is cleared at the L2, and then the pointers are written; a node whose clearing faults is an engine
fault. -/
def allocStep (s : State) (g : Nat) (p : Pend) : State :=
  let k := clusterOf (s.group g).core
  let next (s : State) (p : Pend) : State := match p.addrs with
    | [] => finishPend (s.modGroup g fun gr => p.put gr p.res) g p.id
    | (va, n) :: _ => pendWrite s g p k 96 p.asid (writeSegs va (List.replicate n 0) [])
  match getEng s p.id with
  | none => next s p
  | some e =>
    if !e.finished then s
    else
      let s := dropEng s p.id
      let s := match e.err with
        | some err => pendFault s g p err
        | none => s
      let p := { p with addrs := p.addrs.drop 1 }
      next (s.modPend g p.id fun _ => p) p

/-- A lane's pointer. -/
def freePtr (c : Ctx) (l : Nat) : Nat := vWords c.gr c.regs c.f.a.toNat 2 l

/-- One lane's causes of FREE. -/
def freeLane (c : Ctx) (s : State) (l : Nat) : List LaneCause :=
  let k := getPool s c.f.c.toNat
  let a := freePtr c l
  let mk (x u : Nat) : List LaneCause := [{ lane := l, cause := x, sub := u, addr := a }]
  if resPois c l then mk 10 0
  else if a < k.base || k.base + k.count * 2 ^ k.lsize ≤ a then mk 4 0
  else if (a - k.base) % 2 ^ k.lsize ≠ 0 then mk 3 0 else []

/-- One lane's FREE: its node goes on top of the free list; a node that is not taken is an engine fault. -/
def freeOne (g : Nat) (p : Pend) (s : State) (x : Nat × Nat) : State :=
  let q := p.f.c.toNat
  let k := getPool s q
  let n := (x.2 - k.base) / 2 ^ k.lsize
  if k.taken n then modPool s q fun k => { k with stack := n :: k.stack } else pendFault s g p (18, 5, x.2)
/-- FREE is performed once the group's earlier accesses are, device-wide and on every path (R324, 14 R334). -/
def freeStep (s : State) (g : Nat) (p : Pend) : State :=
  if !(s.group g).afterOk p then s
  else if p.vals.any (cmdLive s g) then s.wire (.instrComplete g p.id)
  else if !drainOk s g p then (drainMark s g p).wire (.instrComplete g p.id)
  else finishPend (p.addrs.foldl (freeOne g p) s) g p.id

/-- FREE (R324). -/
def freeSem : Meaning where
  check c s := if poolBad s c.gr c.f.c.toNat then onLanes c.lanes 1 0x18 else (lanesOf c.lanes).flatMap (freeLane c s)
  act c s :=
    let (id, s) := s.fresh
    let cmds := c.gr.pend.filter fun q => 0x276 ≤ q.op && q.op ≤ 0x278
    let p := { newPend c id s with
      addrs := (lanesOf c.lanes).map fun l => (l, freePtr c l)
      after := (fenceBefore c.gr (BitVec.allOnes 64) true true false 3).1 ++ cmds.map (·.id)
      vals := (engineCmds s c.g 0x1F).map fun k => (k.1, k.2.1) }
    ((addPend s c.g p).wire (.instrComplete c.g id), true)

/-- The read of a POOLCFG's record that its group has under way, or has made, at this issue. -/
def poolRead (c : Ctx) (s : State) : Option EngAcc := (getEng s c.g).filter fun e => e.pc == c.pc && e.seq == c.gr.rgncnt
/-- The record of a POOLCFG, once it is read, or the cause. -/
def poolRecord (c : Ctx) (s : State) : Option (Except EngErr Nat) :=
  match poolRead c s with
  | none => none
  | some e =>
    if !e.finished then none
    else match e.err with
    | some err => some (.error err)
    | none =>
      let d := e.read (sOp c c.f.a) 32
      some (if d.ue.any id then .error (12, 0, sOp c c.f.a) else .ok (leNat d.bytes))

/-- A malformed record (R323), whether it enables the pool or not. -/
def poolMalformed (r : Nat) : Bool :=
  let count := bits r 127 96
  let log := bits r 84 80
  let fl := 16 * bits r 175 128
  bits r 255 176 ≠ 0 || bits r 95 87 ≠ 0 || count == 0 || 2 ^ 24 < count || log < 4 || 12 < log || bits r 63 0 % 2 ^ log ≠ 0 ||
    !isDram (fl + 16 * ceilDiv (33 * count) 128 - 1)

/-- POOLCFG (R323): it stands until its record is read and checked. -/
def poolcfgSem : Meaning where
  check c s :=
    if c.f.modBit 0 then []
    else match poolRecord c s with
      | some (.error e) => groupCause c e.1 e.2.1 e.2.2
      | some (.ok r) => if poolMalformed r then groupCause c 1 2 0 else []
      | none => []
  stall c s := !c.f.modBit 0 && (poolRecord c s).isNone
  onStall c s :=
    if c.f.modBit 0 || (poolRead c s).isSome then s
    else engBegin s c.g (EngAcc.new (.cluster (clusterOf c.gr.core)) 96 c.gr.dasid { g := c.g, pc := c.pc, seq := c.gr.rgncnt, core := c.gr.core }
      false (readSegs (sOp c c.f.a) 32) (.instrComplete c.g c.g))
  act c s :=
    let p := c.f.c.toNat
    if c.f.modBit 0 then
      let k := getPool s p
      pendReady c s [sWrite c.f.d (BitVec.ofNat 64 (k.free * 2 ^ 32 + k.asid * 2 ^ 16 + (if k.en then 1 else 0)))]
    else match poolRecord c s with
      | some (.ok r) =>
        let new : Pool :=
          { en := bitOf r 86, zero := bitOf r 85, lsize := bits r 84 80, asid := bits r 79 64, base := bits r 63 0, count := bits r 127 96
            flpa := bits r 175 128, stack := [], fresh := if bitOf r 86 then 0 else bits r 127 96 }
        pendReady c (modPool (dropEng s c.g) p fun _ => new) []
      | _ => (s, false)

def execCqeNodeRead (c id : Nat) (s : State) : Host.Outcome State Fault Refusal := .next (evCqeNodeRead c id s)
def execCqePark (c id : Nat) (s : State) : Host.Outcome State Fault Refusal := .next (evCqePark c id s)

/-! ### The instructions -/

/-- CQRAY (R312). -/
def execCqray (f : EForm) (s : State) : Host.Outcome State Fault Refusal := issue 0x270 f cqraySem s
/-- CQSPH (R313). -/
def execCqsph (f : EForm) (s : State) : Host.Outcome State Fault Refusal := issue 0x271 f cqsphSem s
/-- CQBOX (R314). -/
def execCqbox (f : EForm) (s : State) : Host.Outcome State Fault Refusal := issue 0x272 f cqboxSem s
/-- FWAIT (R307). -/
def execFwait (f : EForm) (s : State) : Host.Outcome State Fault Refusal := issue 0x273 f fwaitSem s
/-- FPOLL (R307). -/
def execFpoll (f : EForm) (s : State) : Host.Outcome State Fault Refusal := issue 0x274 f fpollSem s
/-- FDROP (R308). -/
def execFdrop (f : EForm) (s : State) : Host.Outcome State Fault Refusal := issue 0x275 f fdropSem s
/-- HCFG (R316). -/
def execHcfg (f : EForm) (s : State) : Host.Outcome State Fault Refusal := issue 0x276 f hcfgSem s
/-- HADD (R317). -/
def execHadd (f : EForm) (s : State) : Host.Outcome State Fault Refusal := issue 0x277 f haddSem s
/-- HDRAIN (R318). -/
def execHdrain (f : EForm) (s : State) : Host.Outcome State Fault Refusal := issue 0x278 f hdrainSem s
/-- SPKPOP (R321). -/
def execSpkpop (f : EForm) (s : State) : Host.Outcome State Fault Refusal := issue 0x279 f spkpopSem s
/-- SPKSTAT (R322). -/
def execSpkstat (f : EForm) (s : State) : Host.Outcome State Fault Refusal := issue 0x27A f spkstatSem s
/-- ALLOC (R324). -/
def execAlloc (f : EForm) (s : State) : Host.Outcome State Fault Refusal := issue 0x27B f allocSem s
/-- FREE (R324). -/
def execFree (f : EForm) (s : State) : Host.Outcome State Fault Refusal := issue 0x27C f freeSem s
/-- POOLCFG (R323). -/
def execPoolcfg (f : EForm) (s : State) : Host.Outcome State Fault Refusal := issue 0x27D f poolcfgSem s

end Sys2Proof.Machine
end

