-- ==== Sys2Proof/Machine/Place.lean ====
section
/-!
DEFINITION. Where blocks and groups go: binding of groups to slices (11 R251, R252), resident slots (17 R406), lane-private bytes (05
R97), identities (15 R347), the pools of cores (16 R383), the start of a group (06 R115), the children of SPAWN and REGROUP (15 R367),
and pre-emption of residents that stand in the way (17 R411).
-/

namespace Sys2Proof.Machine

open Sys2Proof

/-! ### Binding -/

/-- Lane-registers per lane that groups other than g hold on a slice. -/
def sliceUsed (s : State) (core slice g : Nat) : Nat :=
  ((s.core core).binds.filter fun e => e.1 ≠ g && e.2.1.contains slice).foldl (fun n e => n + e.2.2) 0
/-- The lowest n slices with room for `regs` lane-registers per lane beside the other groups (R251). -/
def freeSlices (s : State) (core g n regs : Nat) : Option (List Nat) :=
  let ok := (List.range 32).filter fun i => sliceUsed s core i g + regs ≤ 1024
  if ok.length < n then none else some (ok.take n)
/-- Bound groups of a core. -/
def boundOn (s : State) (core : Nat) : List (Nat × Group) :=
  (s.core core).binds.map fun e => (e.1, s.group e.1)
/-- Lane-private bytes that bound groups other than g hold (R97). -/
def lpHeld (s : State) (core g : Nat) : Nat :=
  ((boundOn s core).filter fun e => e.1 ≠ g).foldl (fun n e => n + recLpR (s.recOf e.2) * e.2.w) 0
/-- Lane-private capacity of a core: while a CARVE is under way, what both the old and the new division give (17 R424). -/
def lpRoom (s : State) (core : Nat) : Nat :=
  let k := s.core core
  min k.carve (k.carving.getD k.carve) * 65536
/-- The lowest resident slot that no bound group holds (17 R406). -/
def freeSlot (s : State) (core : Nat) : Option Nat :=
  let used := (boundOn s core).map fun e => e.2.slot
  let k := lowestFree used 0 32
  if k < 32 then some k else none

/-- The slices and resident slot with which a core can bind a group of W lanes as PHYS with the lane-private bytes it needs. -/
def bindAt (s : State) (core g w phys regs lp : Nat) : Option (List Nat × Nat × Nat) :=
  let per := (w + phys - 1) / phys * regs
  match freeSlices s core g (phys / 4) per, freeSlot s core with
  | some sl, some k => if lpHeld s core g + lp * w ≤ lpRoom s core then some (sl, per, k) else none
  | _, _ => none

/-- Binds a placed group. -/
def setBind (s : State) (g core phys : Nat) (b : List Nat × Nat × Nat) : State :=
  (s.modCore core fun c => { c with binds := tput c.binds g (b.1, b.2.1) }).modGroup g fun gr =>
    { gr with slot := b.2.2, phys := phys, residentAt := s.now, idleSince := s.now, lastIssue := s.now }

/-- A placed group waits to bind. -/
def waitsBind (s : State) (e : Nat × Group) : Bool :=
  !e.2.ended && !e.2.saved && (tfind (s.core e.2.core).binds e.1).isNone

/-! ### Pre-emption (17 R411) -/

/-- Victims for a waiter on a core: those for which a pre-emption is pending already, then groups at blocking points, then those of lower effective
priority, lowest first, until the waiter could bind without them. One in handler mode is saved after its return. -/
def preemptFor (s : State) (core w regs lp prio : Nat) : State :=
  let res := boundOn s core
  let due := res.filter fun e => e.2.preempt
  let atB := res.filter fun e => !e.2.preempt && atBlocking s e.1
  let low := sortBy (fun (a b : Nat × Group) => effPrio s a.2 < effPrio s b.2)
    (res.filter fun e => !e.2.preempt && !atBlocking s e.1 && effPrio s e.2 < prio)
  let rec go (t : State) (out : List Nat) : List (Nat × Group) → List Nat
    | [] => out
    | e :: r =>
      if (bindAt t core 0 w w regs lp).isSome then out
      else go (t.modCore core fun c => { c with binds := tdel c.binds e.1 }) (e.1 :: out) r
  if bits (winNat s 0x300088) 35 12 == 0 then s
  else
    (go s [] (due ++ atB ++ low)).foldl (fun s g =>
      if (s.group g).preempt then s
      else (s.modGroup g fun gr => { gr with preempt := true }).wireOnce (.groupSave g)) s

/-- Placed groups of a core that wait to bind do so, in the order of placement, as far as they can; the first that cannot calls for
pre-emption. -/
def bindWaiters (s : State) (core : Nat) : State :=
  (s.groups.filter fun e => e.2.core == core && waitsBind s e).foldl (fun s e =>
    let regs := s.regsOf e.2
    let lp := recLpR (s.recOf e.2)
    match bindAt s core e.1 e.2.w e.2.w regs lp with
    | some b => setBind s e.1 core e.2.w b
    | none => preemptFor s core e.2.w regs lp (effPrio s e.2)) s

/-- Room on a core has become free: waiting groups bind, children and blocks that wait for a core are looked at, saved groups come back. -/
def roomFreed (s : State) (core : Nat) : State :=
  let s := replace (childKick (bindWaiters s core))
  (s.groups.filter fun e => e.2.saved && e.2.core == core && !e.2.ended).foldl (fun s e => s.wireOnce (.groupRestore e.1)) s

/-! ### Identities (R347) -/

/-- Live group numbers of a launch, and the numbers of its blocks with a live group. -/
def liveNums (s : State) (l : Nat) : List Nat := (s.groups.filter fun e => e.2.launch == l && !e.2.ended).map (·.2.num)
def liveBlockNums (s : State) (l : Nat) : List Nat := (s.blocks.filter fun e => e.2.launch == l && blockLive s e.1).map (·.2.num)
/-- The number a child group takes. -/
def childNum (s : State) (l : Nat) : Nat :=
  let r := (s.launch l).record
  lowestFree (liveNums s l) (recNblk r * recGpb r) (s.groups.length + 1)
/-- The index a child takes in a block. -/
def childIndex (s : State) (b : Nat) : Nat :=
  lowestFree ((s.groups.filter fun e => e.2.block == b && !e.2.ended).map (·.2.index)) 0 32
/-- The number a singleton block takes. -/
def singleNum (s : State) (l : Nat) : Nat := lowestFree (liveBlockNums s l) (recNblk (s.launch l).record) (s.blocks.length + 1)

/-! ### The start of a group (06 R115) -/

/-- A group's identity and first state. -/
structure Start where
  launch : Nat
  block : Nat
  num : Nat
  index : Nat
  core : Nat
  w : Nat
  subtree : Nat
  base : Nat
  pc : DWord
  arg : DWord
  lanes : Nat
  deriving DecidableEq, Repr

/-- Starts a group of `lanes` live lanes; the others below W have exited; a PLACE record is made (18 R432). -/
def startGroup (s : State) (x : Start) : State × Nat :=
  let (g, s) := s.fresh
  let live := lanesBelow x.lanes
  let gr : Group :=
    { Group.reset with
      launch := x.launch, block := x.block, num := x.num, index := x.index, core := x.core, w := x.w, phys := x.w
      subtree := x.subtree, base := x.base, dasid := recCtx (s.launch x.launch).record
      s := if x.arg == 0 then [] else [(0, x.arg)]
      exited := lanesBelow x.w &&& ~~~ live
      region := (List.range x.lanes).map fun l => (l, x.pc)
      regionHdr := (List.range x.lanes).map fun l => (l, x.pc)
      rgncnt := 1, residentAt := s.now, lastIssue := s.now, idleSince := s.now }
  let gr := gr.join x.pc x.pc live (peekPrio s gr x.pc) []
  (leuth (s.setGroup g gr) 2 3 ((s.block x.block).num * 2 ^ 40 + x.index * 2 ^ 35) x.core x.num 0 x.pc.toNat false false, g)

/-! ### Pools (16 R383) -/

/-- The class whose mask in effect takes a core; 7 when none does. -/
def classOf (s : State) (core : Nat) : Nat :=
  ((List.range 4).find? fun c => bitOf (tget 0 s.dev.resv c).toNat core).getD 7
/-- The cores on which a launch of a class runs, in ascending order. -/
def poolOf (s : State) (cls : Nat) : List Nat := (List.range 64).filter fun c => classOf s c == cls

/-! ### Children (15 R367) -/

/-- Places a child: in its parent's block, or in a singleton block on the lowest core of the pool; none when it must wait. -/
def placeChild (s : State) (launch block stage base subtree w lanes : Nat) (pc arg : DWord) : Option (State × Nat) :=
  let rec' := (s.launch launch).record
  let regs := recRegs rec'
  let lp := recLpR rec'
  let bl := s.block block
  let num := childNum s launch
  if 2 ^ 24 - 1 ≤ num then none
  else
    match (if !blockLive s block || 32 ≤ (s.groupsOf block).length then none
      else bindAt s bl.core 0 w w regs lp) with
    | some b =>
      let (s, g) := startGroup s { launch := launch, block := block, num := num, index := childIndex s block, core := bl.core, w := w,
                                   subtree := subtree, base := base, pc := pc, arg := arg, lanes := lanes }
      some (setBind s g bl.core w b, g)
    | none =>
      let bn := singleNum s launch
      if 2 ^ 24 - 1 ≤ bn then none
      else
        match (poolOf s (recLclass rec')).findSome? fun c =>
            (bindAt s c 0 w w regs lp).map fun b => (c, b) with
        | none => none
        | some (core, b) =>
          let (k, s) := s.fresh
          let s := s.setBlock k { Block.reset with launch := launch, num := bn, core := core, stage := stage, single := true, base := base }
          let (s, g) := startGroup s { launch := launch, block := k, num := num, index := 0, core := core, w := w, subtree := subtree,
                                       base := base, pc := pc, arg := arg, lanes := lanes }
          some (setBind s g core w b, g)

/-- The grant of a child that asks for n lanes. -/
def childGrant (s : State) (launch n : Nat) : Nat := min (4 * ((n + 3) / 4)) (recWmax (s.launch launch).record)

/-- The spawn queue's head is placed (R367) once its parent's earlier accesses are performed, with the SPAWN that asked for it complete; what
cannot be placed holds back the rest. That of a cancelled subtree is dropped (R368). -/
def evSpawnPlace (core : Nat) (s : State) : State :=
  match (s.core core).spawn with
  | [] => s
  | e :: r =>
    if subCancelled s e.launch e.subtree then
      let s := finishPend (s.modCore core fun c => { c with spawn := r }) e.g e.op
      if r.isEmpty then s else s.wireOnce (.spawnPlace core)
    else if ((s.group e.g).findPend e.op).any fun p => !(s.group e.g).afterOk p then s
    else match placeChild s e.launch e.block e.stage e.base e.subtree (childGrant s e.launch e.width) (childGrant s e.launch e.width) e.pc e.arg with
    | none => preemptFor s (s.block e.block).core (childGrant s e.launch e.width) (recRegs (s.launch e.launch).record)
        (recLpR (s.launch e.launch).record) e.base
    | some (s, _) =>
      let s := finishPend (s.modCore core fun c => { c with spawn := r }) e.g e.op
      if r.isEmpty then s else s.wireOnce (.spawnPlace core)

/-- A firing bucket's group is placed (11 R267): its records fill lanes from 0 up. -/
def evRelayGroupPlace (core id : Nat) (s : State) : State :=
  match (s.core core).relay.find? fun b => b.id == id && b.full with
  | none => s
  | some b =>
    if subCancelled s (s.block b.block).launch b.subtree then s.modCore core fun c => { c with relay := c.relay.filter fun x => x.id ≠ id }
    else
    let bl := s.block b.block
    let k := b.recs.length
    let w := childGrant s bl.launch k
    match placeChild s bl.launch b.block bl.stage bl.base b.subtree w (min k w) b.pc b.arg with
    | none => preemptFor s bl.core w (recRegs (s.launch bl.launch).record) (recLpR (s.launch bl.launch).record) bl.base
    | some (s, g) =>
      let regs := recRegs (s.launch bl.launch).record
      let s := s.modGroup g fun gr =>
        (List.range (min k w)).foldl (fun (gr : Group) l =>
          let rc := b.recs.getD l []
          (List.range b.len).foldl (fun (gr : Group) j =>
            let x := rc.getD j (0, false)
            gr.wrV (vNum regs (b.first + j)) l x.1 x.2) gr) gr
      let s := s.modCore core fun c => { c with relay := c.relay.filter fun x => x.id ≠ id }
      (s.groups.filter fun e => e.2.core == core && e.2.stalled).foldl (fun s e =>
        s.modGroup e.1 fun gr => { gr with stalled := false }) s

def execSpawnPlace (core : Nat) (s : State) : Host.Outcome State Fault Refusal := .next (evSpawnPlace core s)
def execRelayGroupPlace (core id : Nat) (s : State) : Host.Outcome State Fault Refusal := .next (evRelayGroupPlace core id s)

end Sys2Proof.Machine
end

