-- ==== Sys2Proof/Machine/Control.lean ====
section
/-!
DEFINITION. Control flow (15): branches, join barriers, hardware barriers with their guard ranges (04 R82), semaphores, stage queues,
SPAWN, subtrees and cancellation, BESTMAX, NOP and YIELD, and the steps of the barrier unit.
-/

namespace Sys2Proof.Machine

open Sys2Proof

/-- The run of the group, changed. -/
def modRun (s : State) (g : Nat) (f : Run → Run) : State := s.modGroup g fun gr => { gr with run := gr.run.map f }

/-! ### Branches, calls and exit (R354 to R356) -/

/-- The target of BR and CALL. -/
def brTarget (c : Ctx) : DWord :=
  match c.f.lit with
  | some x => x.setWidth 64
  | none => c.pc + ((c.f.e ++ c.f.c ++ c.f.b : BitVec 24).signExtend 64 <<< 2)
/-- The target of RET and BRX in a lane. -/
def indTarget (c : Ctx) (l : Nat) : DWord := BitVec.ofNat 64 (opA c true l)
/-- The lanes' next PCs. -/
def setNext (s : State) (c : Ctx) (t : Nat → DWord) : State :=
  modRun s c.g fun r => { r with next := (lanesOf c.lanes).foldl (fun n l => tput n l (t l)) r.next }

/-- BR. -/
def brSem : Meaning where
  act c s := (setNext s c fun _ => brTarget c, false)
/-- CALL: the link pair takes the address of the next run header. -/
def callSem : Meaning where
  act c s :=
    let fall := (c.pc + BitVec.ofNat 64 (4 * c.nw)).toNat
    let s := setNext s c fun _ => brTarget c
    (s.modGroup c.g fun gr => (lanesOf c.lanes).foldl (fun gr l => wrVec gr c.regs c.f.d.toNat true l fall false) gr, false)
/-- The causes of an indirect branch: a poisoned target, or one that is no word address. -/
def indCheck (c : Ctx) (_ : State) : List LaneCause :=
  (lanesOf c.lanes).filterMap fun l =>
    if resPois c l then some { lane := l, cause := 10, sub := 0, addr := 0 }
    else if (indTarget c l).toNat % 4 ≠ 0 then some { lane := l, cause := 3, sub := 0, addr := (indTarget c l).toNat }
    else none
/-- RET. -/
def retSem : Meaning where
  check := indCheck
  act c s := (setNext s c (indTarget c), false)
/-- BRX has the effect of RET. -/
def brxSem : Meaning where
  check := indCheck
  act c s := (setNext s c (indTarget c), false)
/-- EXIT. -/
def exitSem : Meaning where
  act c s := (modRun s c.g fun r => { r with retire := r.retire ||| c.lanes }, false)
/-- NOP. -/
def nopSem : Meaning where
  act _ s := (s, false)
/-- YIELD takes effect at the end of its run (R374). -/
def yieldSem : Meaning where
  act c s := (modRun s c.g fun r => { r with yield := true }, false)

/-! ### Join barriers (R357) -/

/-- BENROL. -/
def benrolSem : Meaning where
  act c s := (s.modGroup c.g fun gr => { gr with jb := modAt gr.jb c.f.c.toNat fun b => { b with m := b.m ||| c.lanes } }, false)
/-- BJOIN: members among the active lanes arrive and wait at the end of the run. -/
def bjoinSem : Meaning where
  act c s :=
    let k := c.f.c.toNat
    let mine := c.lanes &&& (c.gr.jb.getD k { m := 0, a := 0 }).m
    let s := s.modGroup c.g fun gr => { gr with jb := modAt gr.jb k fun b => { b with a := b.a ||| mine } }
    (if mine == 0 then s else modRun s c.g fun r => { r with waits := r.waits ++ [(.join k, mine)] }, false)

/-! ### Guard ranges (04 R82) -/

/-- The sectors of a cluster's slots that lie in a guard range under its ASID. -/
def guardMask (g : GuardRange) (k : CSlot) : BitVec 32 :=
  if k.asid == g.asid || k.g then
    sectorMask k.vframe (g.base / 16 * 16) (roundUp (g.base + g.len) 16 - g.base / 16 * 16)
  else 0
/-- D sectors in guard ranges are written back and kept in S. -/
def guardClean (s : State) (c : Nat) (gs : Sp GuardRange) : State :=
  gs.foldl (fun s g => maintain s c (guardMask g.2) fun _ => false) s
/-- S and D sectors in guard ranges are removed, D ones written back first; F sectors stay. -/
def guardDrop (s : State) (c : Nat) (gs : Sp GuardRange) : State :=
  gs.foldl (fun s g => maintain s c (guardMask g.2) fun x => x == 1 || x == 2) s

/-- Some access that an arrival of the group orders is not performed: an access to an explicit space, or a global one in a guard range
(14 R335). -/
def arrivalWaits (s : State) (gr : Group) (gs : Sp GuardRange) : Bool :=
  gr.pend.any (fun p => match spaceOf p.op with
    | some 0 => p.isLsu && gs.any fun e => p.addrs.any fun a => a.2 < roundUp (e.2.base + e.2.len) 16 && e.2.base / 16 * 16 < a.2 + accessSize p.op p.f
    | some _ => true
    | none => false) ||
  (s.cluster (clusterOf gr.core)).storeQ.any fun q => gs.any fun e => q.va < roundUp (e.2.base + e.2.len) 16 && e.2.base / 16 * 16 < q.va + 16

/-! ### Barriers (R359 to R363) -/

/-- Level of BAR and GUARD. -/
def barLevel (f : EForm) : Nat := f.modBits 3 2
/-- The causes a barrier number raises: not a member, or beyond the launch's allocation. -/
def barCheck (c : Ctx) (s : State) : List LaneCause :=
  let b := barRef c.gr (s.block c.gr.block) (barLevel c.f) c.f.c.toNat
  let r := s.recOf c.gr
  let n := match barLevel c.f with
    | 0 => 16
    | 1 => recNcbar r
    | _ => recNgbar r
  (if isMember s c.gr b then [] else groupCause c 1 0x19 0) ++ (if c.f.c.toNat < n then [] else groupCause c 4 0 0)

/-- Those that rest on the number alone, whatever s[A] holds. -/
def barSure (c : Ctx) (s : State) : List LaneCause := barCheck c s
/-- The group arrives: the arrival is issued, and its number returned. -/
def arrive (s : State) (c : Ctx) (b : BarRef) : State × Nat :=
  let br := getBar s b
  let n := tget 0 br.issued c.gr.num
  ((setBar s b { br with issued := tput br.issued c.gr.num (n + 1), queue := br.queue ++ [(c.g, c.pc, c.gr.last)] }).wire
    (.barrierArrival c.g b), n)

/-- The issuing entry waits for a phase at the end of the run. -/
def waitPhase (s : State) (c : Ctx) (b : BarRef) (q : BitVec 32) : State :=
  modRun s c.g fun r => { r with waits := r.waits ++ [(.phase b q 0 false, c.entry)] }

/-- BAR (R361). WAIT on a phase already complete waits for nothing (R362): the drop of its guard ranges is made at once, and the phase is passed (04 R82,
05 R109). -/
def barSem : Meaning where
  check := barCheck
  sure := barSure
  act c s :=
    let b := barRef c.gr (s.block c.gr.block) (barLevel c.f) c.f.c.toNat
    match c.f.modBits 1 0 with
    | 0 =>
      let (s, n) := arrive s c b
      (s.modGroup c.g fun gr => gr.wrS c.f.d.toNat (BitVec.ofNat 64 (n % 2 ^ 32)) false, false)
    | 1 =>
      let q : BitVec 32 := (c.gr.getS c.f.a.toNat).setWidth 32
      if phaseComplete (getBar s b).k q then
        ((guardDrop s (clusterOf c.gr.core) (getBar s b).guards).modGroup c.g fun gr => gr.nextIv 1, false)
      else (waitPhase s c b q, false)
    | 2 =>
      let (s, n) := arrive s c b
      (waitPhase s c b (BitVec.ofNat 32 n), false)
    | _ => (s.modGroup c.g fun gr => gr.wrS c.f.d.toNat (BitVec.ofNat 64 ((getBar s b).k % 2 ^ 32)) false, false)

/-- An arrival is counted once its guard ranges are written back (R360); it is a release (05 R109). -/
def evBarrierArrival (g : Nat) (b : BarRef) (s : State) : State :=
  let br := getBar s b
  let gr := s.group g
  match br.queue.find? fun x => x.1 == g with
  | none => s
  | some x =>
    if arrivalWaits s gr br.guards then s.wire (.barrierArrival g b)
    else
      let s := guardClean s (clusterOf gr.core) br.guards
      let br := getBar s b
      let s := setBar s b { br with queue := br.queue.erase x, arr := tput br.arr gr.num (tget 0 br.arr gr.num + 1) }
      let s := s.modGroup g fun gr => gr.nextIv 1
      advanceBar s b g x.2.1 x.2.2 4

/-- A wait for a completed phase of this barrier. -/
def phaseOver (b : BarRef) (k : Nat) (w : Wait) : Bool :=
  match w with
  | .phase b' q _ _ => b' == b && phaseComplete k q
  | _ => false

/-- The phase that a wait is for. -/
def Wait.phaseOf (w : Wait) : Option (BitVec 32) := match w with
  | .phase _ q _ _ => some q
  | _ => none
/-- The waiters of completed phases in a group's cluster proceed after the drop of R82, those whose run has still to end among them; those that
waited take the event's identity as LAST (18 R430), and each phase passed moves the interval number by one (05 R109). -/
def evPhasePass (g : Nat) (b : BarRef) (s : State) : State :=
  let br := getBar s b
  let c := clusterOf (s.group g).core
  if !((s.group g).allWaits ++ (s.group g).runWaits).any (phaseOver b br.k) then s
  else
    let s := guardDrop s c br.guards
    s.groups.foldl (fun s e =>
      if e.2.ended || clusterOf e.2.core ≠ c then s
      else
        let ws := e.2.allWaits.filter (phaseOver b br.k)
        let all := ws ++ e.2.runWaits.filter (phaseOver b br.k)
        if all.isEmpty then s
        else
          let late (w : Wait) : Option (BitVec 32) := match w with
            | .phase _ q _ false => some q
            | _ => none
          let last := match (ws.filterMap late).getLast? with
            | some q => splitId (barObj b) q.toNat
            | none => e.2.last
          let run := e.2.run.map fun r => { r with waits := r.waits.filter fun w => !phaseOver b br.k w.1 }
          let gr := ({ e.2 with last := last, run := run }.nextIv (dedup (all.filterMap Wait.phaseOf)).length).unwait (phaseOver b br.k)
          settle (s.setGroup e.1 gr) e.1) s

/-- The causes of the barrier or semaphore that a GUARD names. -/
def guardSure (c : Ctx) (s : State) : List LaneCause :=
  if barLevel c.f == 3 then (if c.f.c.toNat < 16 then [] else groupCause c 4 0 0) else barCheck c s
/-- GUARD (R363). -/
def guardSem : Meaning where
  sure := guardSure
  check c s :=
    let base := sOp c c.f.a
    let len := sOp c c.f.b
    guardSure c s ++
    if noncanon base || 2 ^ 56 < base + len then groupCause c 8 1 base else []
  act c s :=
    let i := c.f.e.toNat
    let len := sOp c c.f.b
    let put (t : Sp GuardRange) : Sp GuardRange :=
      if len == 0 then tdel t i else tput t i { base := sOp c c.f.a, len := len, asid := c.gr.dasid }
    let s :=
      if barLevel c.f == 3 then
        s.modBlock c.gr.block fun bl => { bl with sems := tmod Sem.reset bl.sems c.f.c.toNat fun m => { m with guards := put m.guards } }
      else
        let b := barRef c.gr (s.block c.gr.block) (barLevel c.f) c.f.c.toNat
        let br := getBar s b
        setBar s b { br with guards := put br.guards }
    (s, false)

/-! ### Semaphores (R364) -/

def getSem (s : State) (b k : Nat) : Sem := tget Sem.reset (s.block b).sems k
def modSem (s : State) (b k : Nat) (f : Sem → Sem) : State := s.modBlock b fun bl => { bl with sems := tmod Sem.reset bl.sems k f }
/-- One token goes, the earliest added first. -/
def Sem.take (m : Sem) : Sem :=
  { m with
    count := m.count - 1
    tokens := match m.tokens with
      | [] => []
      | t :: r => if t.n ≤ 1 then r else { t with n := t.n - 1 } :: r }
/-- A wait for semaphore k. -/
def Wait.isSem (k : Nat) (w : Wait) : Bool := match w with
  | .sem j _ => j == k
  | _ => false
/-- One grant: lanes lose one wait for a semaphore, in their entries or in a run not yet ended (R364). -/
def Group.semGo (gr : Group) (k : Nat) (lanes : Lanes) : Group :=
  let f (e : Entry) : Entry := if (e.mask &&& lanes) ≠ 0 then { e with waits := e.waits.eraseP (Wait.isSem k) } else e
  let g (ws : List (Wait × Lanes)) : List (Wait × Lanes) := ws.eraseP fun w => w.1.isSem k && w.2 == lanes
  { gr with
    entries := gr.entries.map f, paused := gr.paused.map f, woken := gr.woken || gr.saved
    held := gr.held.map fun x => if hasLane lanes x.lane then { x with waits := x.waits.eraseP (Wait.isSem k) } else x
    owed := gr.owed.map fun o => { o with waits := g o.waits }
    run := gr.run.map fun r => { r with waits := g r.waits } }

/-- SEMP: a token at issue, or a wait at the end of the run. -/
def sempSem : Meaning where
  check c _ := if c.f.c.toNat < 16 then [] else groupCause c 4 0 0
  act c s :=
    let k := c.f.c.toNat
    let m := getSem s c.gr.block k
    if m.count ≠ 0 && m.waiting.isEmpty then
      let s := modSem s c.gr.block k Sem.take
      ((guardDrop s (clusterOf c.gr.core) m.guards).modGroup c.g fun gr => gr.nextIv 1, false)
    else
      (modRun (modSem s c.gr.block k fun m => { m with waiting := m.waiting ++ [(c.g, c.entry)] }) c.g fun r =>
        { r with waits := r.waits ++ [(.sem k 0, c.entry)] }, false)

/-- The time since which lanes have waited for a semaphore at the end of their run. -/
def Group.semSince (gr : Group) (k : Nat) (lanes : Lanes) : Option Nat :=
  (((gr.entries ++ gr.paused).filter fun e => (e.mask &&& lanes) ≠ 0).flatMap (·.waits) ++
    (gr.held.filter fun x => hasLane lanes x.lane).flatMap (·.waits)).findSome? fun w => match w with
      | .sem j x => if j == k then some x else none
      | _ => none
/-- The count of a SEMV. -/
def semvCount (c : Ctx) : Nat := if c.f.sb then sOp c c.f.b else c.f.b.toNat
/-- Tokens go to waiting SEMPs in the order of their issue, each with its record (18 R430). -/
def grantSems (s : State) (b k : Nat) : Nat → State
  | 0 => s
  | n + 1 =>
    let m := getSem s b k
    match m.waiting, m.tokens with
    | (g, lanes) :: r, t :: _ =>
      if m.count == 0 then s
      else
        let gr := s.group g
        let since := (gr.semSince k lanes).getD s.now
        let w := min (2 ^ 32 - 1) (aclkOf s (s.now - since))
        let ident := splitId (0x40 + k) m.grants
        let by' := s.group t.g
        let sq := t.last.toNat * 2 ^ 16 + ident.toNat
        let s := leuth s 2 4 (gr.num * 2 ^ 40 + w) by'.core by'.num sq t.pc.toNat false false
        let s := guardDrop s (clusterOf gr.core) m.guards
        let s := modSem s b k fun m => { m.take with
          waiting := r, grants := m.grants + 1
          record := some { group := by'.num, pc := t.pc, longest := gr.num, wait := w, prev := t.last, ident := ident } }
        let s := settle (s.modGroup g fun gr => ({ gr with last := ident }.nextIv 1).semGo k lanes) g
        grantSems s b k n
    | _, _ => s

/-- A SEMV's count is added once the write-back of its guard ranges is done, in issue order; it is a release (05 R109). -/
def evSemvAdd (b k : Nat) (s : State) : State :=
  let m := getSem s b k
  match m.adds with
  | [] => s
  | a :: r =>
    let gr := s.group a.g
    if arrivalWaits s gr m.guards then s.wire (.semvAdd b k)
    else
      let s := guardClean s (clusterOf gr.core) m.guards
      let s := modSem s b k fun m => { m with adds := r, count := m.count + a.n, tokens := m.tokens ++ [a] }
      grantSems (s.modGroup a.g fun gr => gr.nextIv 1) b k a.n

/-- SEMV: without a guard range its count is added at issue, which comes once the accesses that it orders are performed (14 R335; log 86). -/
def semvSem : Meaning where
  sure c _ := if c.f.c.toNat < 16 then [] else groupCause c 4 0 0
  stall c s :=
    let m := getSem s c.gr.block c.f.c.toNat
    m.guards.isEmpty && m.adds.isEmpty && arrivalWaits s c.gr m.guards
  check c s :=
    let m := getSem s c.gr.block c.f.c.toNat
    let n := semvCount c
    (if n == 0 || 65535 < n then groupCause c 1 2 0
      else if 65535 < m.count + m.adds.foldl (fun x a => x + a.n) 0 + n then groupCause c 1 0x1A 0 else []) ++
    if c.f.c.toNat < 16 then [] else groupCause c 4 0 0
  act c s :=
    let k := c.f.c.toNat
    let m := getSem s c.gr.block k
    let s := modSem s c.gr.block k fun m => { m with adds := m.adds ++ [{ g := c.g, n := semvCount c, pc := c.pc, last := c.gr.last }] }
    (if m.guards.isEmpty && m.adds.isEmpty then evSemvAdd c.gr.block k s else s.wire (.semvAdd c.gr.block k), false)

/-! ### Stage queues (R365, R366) -/

def modSq (s : State) (l k : Nat) (f : StageQ → StageQ) : State :=
  s.modLaunch l fun x => { x with stageQ := tmod StageQ.reset x.stageQ k f }
/-- Words of a record. -/
def sqWords (r : BitVec 1024) (k : Nat) : Nat := recSq r k % 16 + 1
/-- The stage of a group. -/
def stageOf (s : State) (gr : Group) : Nat := (s.block gr.block).stage
/-- The v registers a record occupies. -/
def sqUse (c : Ctx) (s : State) (k : Nat) (n : BitVec 8) (wr : Bool) : RegUse := useV n (sqWords (s.recOf c.gr) k) 1 wr

/-- The causes of an instruction on queue k, `ok` when the launch gives the group that queue. -/
def sqCheck (c : Ctx) (ok : Bool) (u : RegUse) : List LaneCause :=
  if !ok then onLanes c.lanes 1 0x1B else if !u.rangeOk c.regs then onLanes c.lanes 1 4 else []

/-- QPUSH. -/
def qpushSem : Meaning where
  check c s :=
    let k := stageOf s c.gr
    let u := sqUse c s k c.f.a false
    sqCheck c (k < 7 && recSqen (s.recOf c.gr) k) u ++ onLanes (laneSet (fun l => u.pois c l) (lanesOf c.lanes)) 10 0
  uses c s := [sqUse c s (stageOf s c.gr) c.f.a false]
  act c s :=
    let k := stageOf s c.gr
    let n := sqWords (s.recOf c.gr) k
    let (id, s) := s.fresh
    let recs := (lanesOf c.lanes).map fun l => (List.range n).map fun j => c.gr.getV (vNum c.regs (c.f.a.toNat + j)) l
    let p := { newPend c id s with after := earlier c.gr }
    ((modSq (addPend s c.g p) c.gr.launch k fun q => { q with pushes := q.pushes ++ [(c.g, id, recs)] }).wire
      (.stageQueuePush c.gr.launch k), true)

/-- QPOP. -/
def qpopSem : Meaning where
  check c s :=
    let k := stageOf s c.gr
    sqCheck c (k ≠ 0 && recSqen (s.recOf c.gr) (k - 1)) (sqUse c s (k - 1) c.f.d true)
  uses c s := [sqUse c s (stageOf s c.gr - 1) c.f.d true]
  act c s :=
    let k := stageOf s c.gr - 1
    let (id, s) := s.fresh
    ((modSq (addPend s c.g { newPend c id s with addrs := (lanesOf c.lanes).map fun l => (l, 0) }) c.gr.launch k fun q =>
      { q with pops := q.pops ++ [(c.g, id)] }).wire (.stageQueuePush c.gr.launch k), true)

/-- A QPOP is complete: its records are written, and pE tells the lanes that have one. -/
def finishPop (s : State) (g : Nat) (p : Pend) : State :=
  finishPend (s.modGroup g fun gr =>
    let gr := p.put gr p.res
    (lanesOf (p.lanes &&& p.entry)).foldl (fun (gr : Group) l => gr.wrP p.f.e.toNat l (p.vals.any fun e => e.1 == l) false) gr) g p.id

/-- The QPUSH whose records enter next: the first whose group's earlier accesses are performed (R366), with those behind it. -/
def nextPush (s : State) (q : StageQ) : List (Nat × Nat × List (List Word)) :=
  match q.pushes.find? fun x => ((s.group x.1).findPend x.2.1).all fun p => (s.group x.1).afterOk p with
  | none => []
  | some x => x :: q.pushes.erase x
/-- One move in a stage queue: a waiting record enters it while it has room, or its oldest QPOP takes a record or ends. The answer is false
when nothing moves. -/
def sqMove (s : State) (l k : Nat) : State × Bool :=
  let q := getSq s l k
  let r := (s.launch l).record
  let fill := match nextPush s q with
    | (g, id, x :: rest) :: ps => if q.recs.length < sqDepth r k then
        let s := s.modGroup g fun gr => { gr with idleSince := s.now }
        some (if rest.isEmpty then finishPend (modSq s l k fun q => { q with recs := q.recs ++ [x], pushes := ps }) g id
          else modSq s l k fun q => { q with recs := q.recs ++ [x], pushes := (g, id, rest) :: ps }) else none
    | (g, id, []) :: ps => some (finishPend (modSq s l k fun q => { q with pushes := ps }) g id)
    | [] => none
  match fill with
  | some s => (s, true)
  | none =>
    match q.pops with
    | [] => (s, false)
    | (g, id) :: ps =>
      match (s.group g).findPend id with
      | none => (modSq s l k fun q => { q with pops := ps }, true)
      | some p =>
        match p.addrs, q.recs with
        | [], _ => (finishPop (modSq s l k fun q => { q with pops := ps }) g p, true)
        | (lane, _) :: ls, x :: rest =>
          let regs := s.regsOf (s.group g)
          let ws := (List.range x.length).map fun j =>
            ({ isS := false, n := vNum regs (p.f.d.toNat + j), lane := lane, val := (x.getD j 0).setWidth 64, poison := false } : RegWrite)
          ((modSq s l k fun q => { q with recs := rest }).modPend g id fun p =>
            { p with addrs := ls, res := p.res ++ ws, vals := p.vals ++ [(lane, 1)] }, true)
        | _, [] =>
          if q.closed && q.pushes.isEmpty then (finishPop (modSq s l k fun q => { q with pops := ps }) g p, true) else (s, false)

/-- Moves in a stage queue until nothing moves. -/
def sqRun (s : State) (l k : Nat) : Nat → State
  | 0 => s
  | n + 1 => match sqMove s l k with
    | (s, true) => sqRun s l k n
    | (s, false) => s

/-- Waiting records enter a queue with room, and waiting QPOPs take them (R366). -/
def evStageQueuePush (l k : Nat) (s : State) : State :=
  let q := getSq s l k
  sqRun s l k (2 * q.pushes.foldl (fun n x => n + x.2.2.length + 1) 0 + q.recs.length +
    2 * q.pops.foldl (fun n x => n + (match (s.group x.1).findPend x.2 with
      | some p => p.addrs.length
      | none => 0) + 2) 0 + 2)

/-! ### Spawning (R367, R368) -/

/-- SPAWN. -/
def spawnSem : Meaning where
  check c _ :=
    let a := sOp c c.f.a
    (if a % 4 ≠ 0 then groupCause c 3 0 a else []) ++ if noncanon a then groupCause c 8 1 a else []
  stall c s := 64 ≤ (s.core c.gr.core).spawn.length
  act c s :=
    let (id, s) := s.fresh
    let e : SpawnEnt :=
      { g := c.g, op := id, block := c.gr.block, launch := c.gr.launch, pc := c.gr.getS c.f.a.toNat, arg := c.gr.getS c.f.b.toNat
        width := c.f.e.toNat, subtree := c.gr.subtree, stage := stageOf s c.gr, base := (s.block c.gr.block).base }
    let s := (addPend s c.g { newPend c id s with after := earlier c.gr }).modCore c.gr.core fun k => { k with spawn := k.spawn ++ [e] }
    (s.wireOnce (.spawnPlace c.gr.core), true)

/-! ### Subtrees and cancellation (R369 to R372) -/

/-- The ids from x up to the root. -/
def subChain (subs : Sp Subtree) (x : Nat) : Nat → List Nat
  | 0 => [x]
  | n + 1 => if x == 0 then [0] else x :: subChain subs (tget { parent := 0, cancelled := false } subs x).parent n
/-- The live ids of a launch, the root among them (R369). -/
def liveIds (s : State) (l : Nat) : List Nat :=
  let subs := (s.launch l).subs
  let carried := ((s.groups.filter fun e => e.2.launch == l && !e.2.ended).map (·.2.subtree)) ++
    (s.cores.flatMap fun e => (e.2.spawn.filter fun x => x.launch == l).map (·.subtree)) ++
    (s.cores.flatMap fun e => (e.2.relay.filter fun x => (s.block x.block).launch == l).map (·.subtree)) ++
    (s.clusters.flatMap fun e => (e.2.baton.filter fun x => x.2.bound && x.2.launch == l).map (·.2.subtree))
  dedup (0 :: carried.flatMap fun x => subChain subs x subs.length)

/-- SUBTREE. -/
def subtreeSem : Meaning where
  act c s :=
    if 4096 ≤ (liveIds s c.gr.launch).length then (s.modGroup c.g fun gr => gr.wrS c.f.d.toNat 0xFFFFFFFF false, false)
    else
      let la := s.launch c.gr.launch
      let id := la.nextSub
      let s := s.setLaunch c.gr.launch { la with
        subs := tput la.subs id { parent := c.gr.subtree, cancelled := subCancelled s c.gr.launch c.gr.subtree }, nextSub := id + 1 }
      (s.modGroup c.g fun gr => ({ gr with subtree := id }).wrS c.f.d.toNat (BitVec.ofNat 64 id) false, false)

/-- Lanes of the passes of a re-sliced group's run but the current one, taken as that of its lowest lane, since the passes of a run advance together in this
model (11 R251, R252; DESIGN CHOICE, log 106). -/
def otherPasses (gr : Group) (r : Run) : Lanes :=
  match lanesOf (r.lanes &&& ~~~ gr.exited) with
  | [] => 0
  | l :: ls => (ls.filter fun x => x / gr.phys ≠ l / gr.phys).foldl (fun m x => m ||| oneLane x) 0
/-- The pushes of a group that wait for room in a stage queue are dropped, with the QPUSHes that made them (R366). -/
def dropPushes (s : State) (g : Nat) : State :=
  let l := (s.group g).launch
  let ids := (s.launch l).stageQ.flatMap fun e => (e.2.pushes.filter fun w => w.1 == g).map (·.2.1)
  let s := s.modLaunch l fun x => { x with stageQ := x.stageQ.map fun e => (e.1, { e.2 with pushes := e.2.pushes.filter fun w => w.1 ≠ g }) }
  ids.foldl (fun s id => cancelPend s g id) s
/-- A group of a cancelled set retires: at once, where it stands at an instruction that waits too, or at the end of its run's current pass (R370). The
pushes of one that has ended before are dropped. -/
def retireGroup (s : State) (g : Nat) : State :=
  let gr := s.group g
  if gr.ended then dropPushes s g
  else match gr.run with
  | some r => if r.issued && !gr.saved && gr.stoodAt.isNone then s.modGroup g fun gr => { gr with exited := gr.exited ||| otherPasses gr r } else endGroup s g
  | none => endGroup s g

/-- A baton queue whose LEAFCFG group was cancelled: its tasks are abandoned, its futures fail, its slots that have not fired are EMPTY, and
it is unbound (12 R303); a group outside the cancelled set that waits to bind it anew binds it then (R300). -/
def cancelBaton (s : State) (c q : Nat) : State :=
  let b := getBaton s c q
  let s := ((s.core b.core).tsch.filter fun o => match o.baton with
    | some k => k.1 == c && k.2.1 == q
    | none => false).foldl (fun s o => cancelOp s b.core o) s
  let s := b.batches.foldl (fun s x =>
    let s := if x.entry.isNone then
        match tilePhys (s.block b.block) (bcSlot b.cfg + x.half) with
        | some p => kickTsch (slotEmpty s b.core p) b.core
        | none => s
      else s
    batchFail s (c, q, x.id) 2 (0, 0, 0)) s
  let binds : Bool := b.unbinding.getLast?.any fun k => !(s.group k.1).ended && !cancelled s (s.group k.1)
  batonUnbound (if binds then s else modBaton s c q fun b => { b with ncfg := none }) c q

/-- A copy of a cancelled set: one that has not started, or has no request on its way, is dropped; another stops after the frame on its way (05
R108). -/
def cancelCopy (s : State) (core : Nat) (b : BceCmd) : State :=
  if b.started && (getEng s b.id).any fun e => !e.out.isEmpty then s.wireOnce (.bcePart core b.id) else bceCancel s core b
/-- A query of a cancelled set: one that has not started is dropped, and a parked one abandoned (13 R315, 12 R278); another runs to its end. -/
def cancelQuery (s : State) (c : Nat) (q : Query) : State :=
  if q.parked then unpark s (.query c q.id) true else if q.started then s else queryGone s c q

/-- The commands of a cancelled set's groups: copies stop and count on nothing, tile work is abandoned, queries not started are dropped, baton
queues unbind, spawn entries and relay buckets go (R370; 05 R108, 12 R290, R303, 13 R315, 11 R269). -/
def cancelWork (s : State) (l : Nat) (dead : Nat → Bool) : State :=
  let mine (g : Nat) : Bool := (s.group g).launch == l && dead (s.group g).subtree
  let spawned := s.cores.flatMap fun e => e.2.spawn.filter fun x => x.launch == l && dead x.subtree
  let s := s.cores.foldl (fun s e =>
    let s := (e.2.tsch.filter fun o => o.baton.isNone && o.launch == l && dead o.subtree).foldl (fun s o => cancelOp s e.1 o) s
    let s := (e.2.bce.filter fun x => mine x.g).foldl (fun s x => cancelCopy s e.1 x) s
    s.modCore e.1 fun k => { k with
      spawn := k.spawn.filter fun x => !(x.launch == l && dead x.subtree)
      relay := k.relay.filter fun x => !((s.block x.block).launch == l && dead x.subtree) }) s
  let s := spawned.foldl (fun s x => finishPend s x.g x.op) s
  s.clusters.foldl (fun s e =>
    let s := (e.2.baton.filter fun x => x.2.bound && x.2.launch == l && dead x.2.subtree).foldl (fun s x => cancelBaton s e.1 x.1) s
    (e.2.cqe.filter fun x => mine x.g).foldl (fun s x => cancelQuery s e.1 x) s) s

/-- Cancels subtree id of a launch (R370). -/
def cancelSubtree (s : State) (l id : Nat) : State :=
  let subs := (s.launch l).subs
  let dead (x : Nat) : Bool := (subChain subs x subs.length).contains id
  let subs' := (id :: (tkeys subs).filter dead).foldl (fun t x =>
    tput t x { tget { parent := 0, cancelled := false } t x with cancelled := true }) subs
  let s := s.modLaunch l fun x => { x with subs := subs', nextBlock := if id == 0 then recNblk x.record else x.nextBlock }
  let s := cancelWork s l dead
  let s := (s.groups.filter fun e => e.2.launch == l && dead e.2.subtree).foldl (fun s e => retireGroup s e.1) s
  if id == 0 then s.wireOnce (.launchComplete l) else s

/-- Groups of a cancelled set that still live, and copies, tile work and queries of the set that have not stopped. -/
def cancelOpen (s : State) (l id : Nat) : Bool :=
  let subs := (s.launch l).subs
  let dead (x : Nat) : Bool := (subChain subs x subs.length).contains id
  s.groups.any (fun e => e.2.launch == l && !e.2.ended && dead e.2.subtree) ||
  s.clusters.any (fun e => e.2.cqe.any fun q => (s.group q.g).launch == l && dead (s.group q.g).subtree) ||
  s.cores.any fun e => e.2.bce.any (fun x => (s.group x.g).launch == l && dead (s.group x.g).subtree) ||
    e.2.tsch.any fun o => o.launch == l && opDead s o && dead o.subtree

/-- CANCEL. -/
def cancelSem : Meaning where
  check c _ := if 2 ^ 32 ≤ sOp c c.f.a then groupCause c 1 2 0 else []
  act c s :=
    let id := sOp c c.f.a
    if !(liveIds s c.gr.launch).contains id then (s, false)
    else
      let s := cancelSubtree (s.modGroup c.g fun gr => { gr with stoodAt := none }) c.gr.launch id
      let s := if id == 0 then s.modLaunch c.gr.launch fun x => if x.status == 0 then { x with status := 2 } else x else s
      let (n, s) := s.fresh
      ((addPend s c.g { newPend c n s with vals := [(0, id)] }).wire (.instrComplete c.g n), true)

/-- CANCEL completes when its set has been dealt with. -/
def cancelStep (s : State) (g : Nat) (p : Pend) : State :=
  if cancelOpen s (s.group g).launch (tget 0 p.vals 0) then s.wire (.instrComplete g p.id) else finishPend s g p.id

/-- TIME has reached DEADLINE.AT: subtree 0 is cancelled (R372). -/
def evDeadlineExpiry (l : Nat) (s : State) : State :=
  let la := s.launch l
  if la.done || la.status ≠ 0 || la.heldAt.isSome || (tfind s.launches l).isNone || s.now < la.deadline.toNat then s
  else cancelSubtree (s.modLaunch l fun x => { x with status := 1 }) l 0

/-- The steps of a BESTMAX over its lanes' scores and data, in ascending order (R373). -/
def bestSteps (la : Launch) (xs : List (Nat × Nat)) : Launch :=
  xs.foldl (fun la x =>
    let score := BitVec.ofNat 32 x.1
    if la.bestScore.slt score then { la with bestScore := score, bestData := BitVec.ofNat 32 x.2 } else la) la
/-- A step of BESTMAX comes too late: its group is cancelled, or the deadline has expired (R372, R373). -/
def bestLate (s : State) (gr : Group) : Bool := cancelled s gr || (s.launch gr.launch).deadline.toNat ≤ s.now
/-- BESTMAX (R373): its lanes' steps, once the group's earlier accesses are performed. -/
def bestmaxSem : Meaning where
  check c _ := onLanes (laneSet (resPois c) (lanesOf c.lanes)) 10 0
  act c s :=
    let xs := (lanesOf c.lanes).map fun l => (opA c false l, opB c false l)
    let p := { newPend c s.nextId s with addrs := xs, after := earlier c.gr }
    if p.after.isEmpty && drainOk s c.g p then (if bestLate s c.gr then s else s.modLaunch c.gr.launch fun la => bestSteps la xs, false)
    else
      let (id, s) := s.fresh
      ((addPend s c.g p).wire (.instrComplete c.g id), true)
/-- BESTMAX goes on; the steps of a cancelled group are dropped (R373). -/
def bestStep (s : State) (g : Nat) (p : Pend) : State :=
  let gr := s.group g
  if !gr.afterOk p then s
  else if !drainOk s g p then (drainMark s g p).wire (.instrComplete g p.id)
  else finishPend (if bestLate s gr then s else s.modLaunch gr.launch fun la => bestSteps la p.addrs) g p.id

def execBarrierArrival (g : Nat) (bar : BarRef) (s : State) : Host.Outcome State Fault Refusal := .next (evBarrierArrival g bar s)
def execPhasePass (g : Nat) (bar : BarRef) (s : State) : Host.Outcome State Fault Refusal := .next (evPhasePass g bar s)
def execSemvAdd (b k : Nat) (s : State) : Host.Outcome State Fault Refusal := .next (evSemvAdd b k s)
def execStageQueuePush (l k : Nat) (s : State) : Host.Outcome State Fault Refusal := .next (evStageQueuePush l k s)
def execDeadlineExpiry (l : Nat) (s : State) : Host.Outcome State Fault Refusal := .next (evDeadlineExpiry l s)

/-! ### The instructions -/

/-- BR_B (R355). -/
def execBrB (f : BForm) (s : State) : Host.Outcome State Fault Refusal := issueB 0x300 f brSem s
/-- BR_E (R355). -/
def execBrE (f : EForm) (s : State) : Host.Outcome State Fault Refusal := issue 0x300 f brSem s
/-- CALL_B (R355). -/
def execCallB (f : BForm) (s : State) : Host.Outcome State Fault Refusal := issueB 0x301 f callSem s
/-- CALL_E (R355). -/
def execCallE (f : EForm) (s : State) : Host.Outcome State Fault Refusal := issue 0x301 f callSem s
/-- RET_B (R355). -/
def execRetB (f : BForm) (s : State) : Host.Outcome State Fault Refusal := issueB 0x302 f retSem s
/-- RET_E (R355). -/
def execRetE (f : EForm) (s : State) : Host.Outcome State Fault Refusal := issue 0x302 f retSem s
/-- EXIT_B (R355). -/
def execExitB (f : BForm) (s : State) : Host.Outcome State Fault Refusal := issueB 0x303 f exitSem s
/-- EXIT_E (R355). -/
def execExitE (f : EForm) (s : State) : Host.Outcome State Fault Refusal := issue 0x303 f exitSem s
/-- BRX_B (R355). -/
def execBrxB (f : BForm) (s : State) : Host.Outcome State Fault Refusal := issueB 0x304 f brxSem s
/-- BRX_E (R355). -/
def execBrxE (f : EForm) (s : State) : Host.Outcome State Fault Refusal := issue 0x304 f brxSem s
/-- NOP_B (R374). -/
def execNopB (f : BForm) (s : State) : Host.Outcome State Fault Refusal := issueB 0x305 f nopSem s
/-- NOP_E (R374). -/
def execNopE (f : EForm) (s : State) : Host.Outcome State Fault Refusal := issue 0x305 f nopSem s
/-- YIELD_B (R374). -/
def execYieldB (f : BForm) (s : State) : Host.Outcome State Fault Refusal := issueB 0x306 f yieldSem s
/-- YIELD_E (R374). -/
def execYieldE (f : EForm) (s : State) : Host.Outcome State Fault Refusal := issue 0x306 f yieldSem s
/-- BENROL (R357). -/
def execBenrol (f : EForm) (s : State) : Host.Outcome State Fault Refusal := issue 0x340 f benrolSem s
/-- BJOIN (R357). -/
def execBjoin (f : EForm) (s : State) : Host.Outcome State Fault Refusal := issue 0x341 f bjoinSem s
/-- BAR (R361). -/
def execBar (f : EForm) (s : State) : Host.Outcome State Fault Refusal := issue 0x342 f barSem s
/-- GUARD (R363). -/
def execGuard (f : EForm) (s : State) : Host.Outcome State Fault Refusal := issue 0x343 f guardSem s
/-- SEMP (R364). -/
def execSemp (f : EForm) (s : State) : Host.Outcome State Fault Refusal := issue 0x344 f sempSem s
/-- SEMV (R364). -/
def execSemv (f : EForm) (s : State) : Host.Outcome State Fault Refusal := issue 0x345 f semvSem s
/-- SPAWN (R367). -/
def execSpawn (f : EForm) (s : State) : Host.Outcome State Fault Refusal := issue 0x346 f spawnSem s
/-- SUBTREE (R369). -/
def execSubtree (f : EForm) (s : State) : Host.Outcome State Fault Refusal := issue 0x347 f subtreeSem s
/-- CANCEL (R370). -/
def execCancel (f : EForm) (s : State) : Host.Outcome State Fault Refusal := issue 0x348 f cancelSem s
/-- BESTMAX (R373). -/
def execBestmax (f : EForm) (s : State) : Host.Outcome State Fault Refusal := issue 0x349 f bestmaxSem s
/-- QPUSH (R366). -/
def execQpush (f : EForm) (s : State) : Host.Outcome State Fault Refusal := issue 0x34A f qpushSem s
/-- QPOP (R366). -/
def execQpop (f : EForm) (s : State) : Host.Outcome State Fault Refusal := issue 0x34B f qpopSem s

end Sys2Proof.Machine
end

