-- ==== Sys2Proof/Machine/CrossLane.lean ====
section
/-!
DEFINITION. Width grants and the cross-lane instructions (11): SETW, shuffles, broadcast, votes, queries, matches, reductions, scans,
compaction, REGROUP and the relay table.
-/

namespace Sys2Proof.Machine

open Sys2Proof

/-! ### SETW (R253 to R255) -/

/-- The request. -/
def setwReq (c : Ctx) : Nat := if c.f.sb then sOp c c.f.b else c.f.b.toNat

/-- The causes of SETW: in handler mode it ends the group with WIDTH (17 R409). -/
def setwCheck (c : Ctx) (_ : State) : List LaneCause :=
  let at' (l : Nat) (cause sub : Nat) : List LaneCause := [{ lane := l, cause := cause, sub := sub, addr := 0 }]
  let l := (lanesOf c.entry).headD 0
  let below := lanesBelow c.gr.w
  if c.gr.hm then at' l 17 0
  else
    (if c.f.sb && c.gr.poisS c.f.b.toNat then at' 0 10 0 else []) ++
    (if !c.gr.entries.isEmpty || !c.gr.held.isEmpty || c.lanes ≠ below &&& ~~~ c.gr.exited then at' l 17 1
      else if c.gr.exited &&& below ≠ 0 then at' l 17 2
      else if c.gr.jb.any (fun b => b.m ≠ 0) then at' l 17 3
      else if setwReq c == 0 || 64 < setwReq c then at' l 17 4 else [])

/-- The largest width from W up to r, in steps of 4, that the core can bind with the group's own slices counted free. -/
def setwGrow (s : State) (c : Ctx) (lp : Nat) : Nat → Nat → Nat
  | r, 0 => r
  | r, n + 1 =>
    if r ≤ c.gr.w then c.gr.w
    else if (freeSlices s c.gr.core c.g (r / 4) c.regs).isSome && lpHeld s c.gr.core c.g + lp * r ≤ lpRoom s c.gr.core then r
    else setwGrow s c lp (r - 4) n

/-- The entries of a lane's row copied to another lane, in a table keyed by stride n + lane or lane alone. -/
def copyLane {α : Type} (stride : Nat) (src dst : Nat) (t : Sp α) : Sp α :=
  t.foldl (fun u e => if e.1 % stride == src then tput u (e.1 / stride * stride + dst) e.2 else u) t
/-- Lane bytes copied from one lane to another. -/
def copyLp (src dst : Nat) (t : Sp Byte) : Sp Byte :=
  t.foldl (fun u e => if e.1 / 2048 == src then tput u (2048 * dst + e.1 % 2048) e.2 else u) t
/-- Bit dst of every mask of a table becomes bit src. -/
def copyBit (src dst : Nat) (t : Sp Lanes) : Sp Lanes :=
  t.map fun e => (e.1, setLane e.2 dst (hasLane e.2 src))

/-- A new lane takes the registers, poison, PC and lane-private bytes of lane src, and the waits that the run has given it; it is live (R254). -/
def growLane (gr : Group) (src dst : Nat) : Group :=
  { gr with
    v := copyLane 64 src dst gr.v, p := copyBit src dst gr.p, vPois := copyBit src dst gr.vPois, pPois := copyBit src dst gr.pPois
    vUe := copyBit src dst gr.vUe, pUe := copyBit src dst gr.pUe, lp := copyLp src dst gr.lp
    exited := setLane gr.exited dst false
    run := gr.run.map fun r => { r with waits := r.waits.map fun w => (w.1, setLane w.2 dst (hasLane w.2 src)), retire := setLane r.retire dst false }
    region := tput gr.region dst (tget 0 gr.region src), regionHdr := tput gr.regionHdr dst (tget 0 gr.regionHdr src) }

/-- Lanes from n up retire: registers and lane-private bytes are gone. A pending load or QPOP is over for them, and no pending instruction
writes a register of theirs any more (06 R139); futures stay as they are (R254). -/
def shrinkTo (gr : Group) (n : Nat) : Group :=
  let keep := lanesBelow n
  let cut (t : Sp Lanes) : Sp Lanes := (t.map fun e => (e.1, e.2 &&& keep)).filter fun e => e.2 ≠ 0
  { gr with
    v := gr.v.filter fun e => e.1 % 64 < n
    p := cut gr.p, vPois := cut gr.vPois, pPois := cut gr.pPois, vUe := cut gr.vUe, pUe := cut gr.pUe
    lp := gr.lp.filter fun e => e.1 / 2048 < n
    exited := gr.exited &&& keep, run := gr.run.map fun r => { r with retire := r.retire &&& keep }
    region := gr.region.filter fun e => e.1 < n
    regionHdr := gr.regionHdr.filter fun e => e.1 < n
    pend := gr.pend.map fun p => { p with
      entry := p.entry &&& keep, pieces := if reads p then p.pieces.filter fun x => x.lane < n else p.pieces
      addrs := if reads p then p.addrs.filter fun x => x.1 < n else p.addrs } }
where
  reads (p : Pend) : Bool := (isLoad p.op && !isAtomic p.op) || p.op == 0x34B

/-- The binding of a group whose width has become g: PHYS = g where the slices allow it. -/
def rebind (s : State) (c : Ctx) (g : Nat) : State :=
  match freeSlices s c.gr.core c.g (g / 4) c.regs with
  | some sl => (s.modCore c.gr.core fun k => { k with binds := tput k.binds c.g (sl, c.regs) }).modGroup c.g fun gr => { gr with phys := g }
  | none =>
    let phys := min c.gr.phys g
    (s.modCore c.gr.core fun k => { k with binds := tmod ([], 0) k.binds c.g fun b =>
      (b.1.take (phys / 4), (g + phys - 1) / phys * c.regs) }).modGroup c.g fun gr => { gr with phys := phys }

/-- SETW. -/
def setwSem : Meaning where
  always := true
  check := setwCheck
  act c s :=
    let r := min (4 * ((setwReq c + 3) / 4)) (recWmax (s.recOf c.gr))
    let w := c.gr.w
    let g := if r ≤ w then r else setwGrow s c (recLpR (s.recOf c.gr)) r 16
    let s := s.modGroup c.g fun gr =>
      let gr := if g < w then shrinkTo gr g else (List.range (g - w)).foldl (fun gr i => growLane gr ((w + i) % w) (w + i)) gr
      { gr with w := g, run := gr.run.map fun r => { r with lanes := lanesBelow g, next := r.next.filter fun e => e.1 < g } }
    let s := rebind s c g
    let s := s.modGroup c.g fun gr => gr.wrS c.f.d.toNat (BitVec.ofNat 64 g) false
    if g < w then
      let pops := c.gr.pend.any fun p => p.op == 0x34B
      let s := roomFreed s c.gr.core
      (if pops then s.wire (.stageQueuePush c.gr.launch (stageOf s c.gr - 1)) else s, false)
    else (s, false)

/-! ### Shuffles and broadcast (R258, R259) -/

/-- Value and poison of v[A] in any lane, 32 or 64 bits by TYPE. -/
def laneVal (c : Ctx) (l : Nat) : Nat := regBits c.gr c.regs false c.f.a.toNat (is64 c.f.type.toNat) l
def lanePois (c : Ctx) (l : Nat) : Bool :=
  c.gr.poisV (vNum c.regs c.f.a.toNat) l || (is64 c.f.type.toNat && c.gr.poisV (vNum c.regs (c.f.a.toNat + 1)) l)
/-- n of a shuffle in a lane, as an unsigned 32-bit integer, and its poison. -/
def shflN (c : Ctx) (l : Nat) : Nat × Bool :=
  if c.f.modBit 1 then (c.f.b.toNat, false)
  else if c.f.sb then (sOp c c.f.b % 2 ^ 32, c.gr.poisS c.f.b.toNat)
  else ((c.gr.getV (vNum c.regs c.f.b.toNat) l).toNat, c.gr.poisV (vNum c.regs c.f.b.toNat) l)

/-- A shuffle whose source lane is given by lane, n and W. -/
def shflSem (src : Ctx → Nat → Nat → Nat → Nat) : Meaning where
  act := onGroup fun c s =>
    let wide := is64 c.f.type.toNat
    let tmp := (lanesOf c.lanes).map fun l =>
      let (n, np) := shflN c l
      let x := src c l n c.gr.w
      (l, laneVal c x, lanePois c x || np)
    tmp.foldl (fun gr t => wrVec gr c.regs c.f.d.toNat wide t.1 t.2.1 t.2.2) (s.group c.g)

/-- SHFL.IDX. -/
def shflIdxSem : Meaning := shflSem fun _ _ n w => n % w
/-- SHFL.UP. -/
def shflUpSem : Meaning := shflSem fun c l n w => if c.f.modBit 0 && l < n then l else (((l : Int) - n) % (w : Int)).toNat
/-- SHFL.DOWN. -/
def shflDownSem : Meaning := shflSem fun c l n w => if c.f.modBit 0 && w ≤ l + n then l else (l + n) % w
/-- SHFL.XOR. -/
def shflXorSem : Meaning := shflSem fun _ l n w => (l ^^^ n) % w

/-- BCAST. -/
def bcastSem : Meaning where
  act := onGroup fun c s =>
    let n := if c.f.modBit 1 then c.f.b.toNat else sOp c c.f.b
    let np := !c.f.modBit 1 && c.gr.poisS c.f.b.toNat
    let x := n % c.gr.w
    let v := laneVal c x
    let p := lanePois c x || np
    let wide := is64 c.f.type.toNat
    if c.f.modBit 5 then
      (s.group c.g).wrS c.f.d.toNat (BitVec.ofNat 64 (if wide then v else extendTo64 (c.f.type == 0) 32 v)) p
    else (lanesOf c.lanes).foldl (fun gr l => wrVec gr c.regs c.f.d.toNat wide l v p) (s.group c.g)

/-! ### Votes, queries and matches (R260) -/

/-- VOTE. -/
def voteSem : Meaning where
  act := onGroup fun c s =>
    let ls := lanesOf c.lanes
    let q (l : Nat) : Bool := c.gr.getP c.f.a.toNat l != c.f.modBit 2
    let p := ls.any fun l => c.gr.poisP c.f.a.toNat l
    let m := c.f.modBits 1 0
    let gr := s.group c.g
    if m == 3 then gr.wrS c.f.d.toNat (laneSet q ls) p
    else
      let r := match m with
        | 0 => ls.all q
        | 1 => ls.any q
        | _ => ls.all q || !ls.any q
      ls.foldl (fun gr l => gr.wrP c.f.d.toNat l r p) gr

/-- LANEQ. -/
def laneqSem : Meaning where
  act := onGroup fun c s =>
    let ls := lanesOf c.lanes
    let k := c.f.c.toNat
    let m := ls.filter fun l => c.gr.getP k l
    let p := ls.any fun l => c.gr.poisP k l
    let gr := s.group c.g
    let tos := c.f.modBit 5
    if c.f.modBits 1 0 == 0 then
      ls.foldl (fun gr l => wrVec gr c.regs c.f.d.toNat false l (m.filter (· < l)).length p) gr
    else
      let r := match c.f.modBits 1 0 with
        | 1 => m.length
        | 2 => m.headD (if tos then 2 ^ 64 - 1 else 2 ^ 32 - 1)
        | _ => (laneSet (fun _ => true) m).toNat
      if tos then gr.wrS c.f.d.toNat (BitVec.ofNat 64 r) p
      else ls.foldl (fun gr l => wrVec gr c.regs c.f.d.toNat false l r p) gr

/-- MATCH. -/
def matchSem : Meaning where
  act := onGroup fun c s =>
    let ls := lanesOf c.lanes
    let p := ls.any (lanePois c)
    ls.foldl (fun gr l =>
      let peers := ls.filter fun m => laneVal c m == laneVal c l
      let lead := peers.headD l
      let mask := (laneSet (fun _ => true) peers).toNat
      let (lo, hi) := if c.f.modBit 0 then (peers.length, lead) else (mask % 2 ^ 32, mask / 2 ^ 32)
      let gr := wrVec gr c.regs c.f.d.toNat true l (lo + 2 ^ 32 * hi) p
      gr.wrP c.f.e.toNat l (l == lead) p) (s.group c.g)

/-! ### Reductions and scans (R261 to R263) -/

/-- An element of a fold: its bits, its poison, and the lane from which it came. -/
structure RedEl where
  x : Nat
  pois : Bool
  lane : Nat
  deriving DecidableEq, Repr

/-- f(x, y) of the operation. -/
def redCombine (c : Ctx) (a b : RedEl) : RedEl :=
  let ty := c.f.type.toNat
  let w := if is64 ty then 64 else 32
  let sg := ty == 0 || ty == 12
  let r := match c.f.modBits 3 0 with
    | 0 => (a.x + b.x) % 2 ^ w
    | 1 => if valOf sg w a.x ≤ valOf sg w b.x then a.x else b.x
    | 2 => if valOf sg w b.x ≤ valOf sg w a.x then a.x else b.x
    | 3 => a.x &&& b.x
    | 4 => a.x ||| b.x
    | 5 => a.x ^^^ b.x
    | 8 => sumResult fp32 fp32 c.rnd false a.lane c.pc.toNat [] [] [a.x, b.x] false
    | 9 => fpick false fp32 a.x b.x
    | _ => fpick true fp32 a.x b.x
  { x := r, pois := a.pois || b.pois, lane := a.lane }
/-- The identity of the operation. -/
def redIdentity (c : Ctx) : Nat :=
  let ty := c.f.type.toNat
  let w := if is64 ty then 64 else 32
  let sg := ty == 0 || ty == 12
  match c.f.modBits 3 0 with
  | 1 => wrap w (maxOf sg w)
  | 2 => wrap w (minOf sg w)
  | 3 => 2 ^ w - 1
  | 8 => 0x80000000
  | 9 => 0x7F800000
  | 10 => 0xFF800000
  | _ => 0
/-- A lane's input. -/
def redIn (c : Ctx) (l : Nat) : RedEl := { x := laneVal c l, pois := lanePois c l, lane := l }
/-- The fold in lane order. -/
def redLin (c : Ctx) : List Nat → Option RedEl
  | [] => none
  | l :: ls => some (ls.foldl (fun a m => redCombine c a (redIn c m)) (redIn c l))
/-- One halving of the tree. -/
def redHalf (c : Ctx) (h : Nat) (t : List (Option RedEl)) : List (Option RedEl) :=
  (List.range h).map fun i => match t.getD i none, t.getD (i + h) none with
    | some a, some b => some (redCombine c a b)
    | some a, none => some a
    | none, b => b
/-- The tree from a list of h elements down. -/
def redTree (c : Ctx) : Nat → Nat → List (Option RedEl) → List (Option RedEl)
  | _, 0, t => t
  | h, n + 1, t => if h ≤ 1 then t else redTree c (h / 2) n (redHalf c (h / 2) t)

/-- The NaN that FMIN and FMAX of several lanes return, in both orders: that of the lowest active lane, made quiet. The rule's loop for .TREE would give
another where lanes 1 and 2 hold one; the model follows the sentence that says it of both orders (DESIGN CHOICE, log 101). -/
def redNan (c : Ctx) (ls : List Nat) : Option Nat :=
  if (c.f.modBits 3 0 == 9 || c.f.modBits 3 0 == 10) && 1 < ls.length then ((ls.map (laneVal c)).find? fp32.isNan).map (quiet fp32) else none
/-- REDUCE. -/
def reduceSem : Meaning where
  act := onGroup fun c s =>
    let ls := lanesOf c.lanes
    let p2 := if c.gr.w ≤ 4 then 4 else if c.gr.w ≤ 8 then 8 else if c.gr.w ≤ 16 then 16 else if c.gr.w ≤ 32 then 32 else 64
    let r := if c.f.modBit 4 then redLin c ls
      else ((redTree c p2 7 ((List.range p2).map fun i => if hasLane c.lanes i then some (redIn c i) else none)).headD none)
    let x := ((redNan c ls).orElse fun _ => r.map (·.x)).getD 0
    let p := ls.any (lanePois c)
    let ty := c.f.type.toNat
    let w := if is64 ty then 64 else 32
    let signed := (ty == 0 || ty == 12) && c.f.modBits 3 0 < 8
    if c.f.modBit 5 then (s.group c.g).wrS c.f.d.toNat (BitVec.ofNat 64 (extendTo64 signed w x)) p
    else ls.foldl (fun gr l => wrVec gr c.regs c.f.d.toNat (w == 64) l x p) (s.group c.g)

/-- SCAN. -/
def scanSem : Meaning where
  act := onGroup fun c s =>
    let ls := lanesOf c.lanes
    ls.foldl (fun gr l =>
      let upTo := ls.filter fun m => if c.f.modBit 4 then m < l else m ≤ l
      let r := (redLin c upTo).getD { x := redIdentity c, pois := false, lane := l }
      wrVec gr c.regs c.f.d.toNat (is64 c.f.type.toNat) l r.x r.pois) (s.group c.g)

/-! ### Compaction (R264) -/

/-- COMPACT. -/
def compactSem : Meaning where
  act := onGroup fun c s =>
    let ls := lanesOf c.lanes
    let k := c.f.c.toNat
    let g := ls.filter fun l => c.gr.getP k l
    let p := ls.any fun l => c.gr.poisP k l
    let gr := (g.zip ls).foldl (fun gr x =>
      wrVec gr c.regs c.f.d.toNat (is64 c.f.type.toNat) x.2 (laneVal c x.1) (lanePois c x.1)) (s.group c.g)
    gr.wrS c.f.e.toNat (BitVec.ofNat 64 g.length) p

/-! ### The relay table (R265 to R269) -/

/-- A record joins the open bucket of its key, or opens one; none when the table has no free bucket. Ids of new buckets rise from n. -/
def relayPut (now cap n : Nat) (key : Bucket) (t : List Bucket) (r : List (Word × Bool)) : Option (List Bucket) :=
  let same (b : Bucket) : Bool := !b.full && b.block == key.block && b.pc == key.pc && b.arg == key.arg && b.subtree == key.subtree &&
    b.first == key.first && b.len == key.len
  if t.any same then
    some (t.map fun b => if same b then { b with recs := b.recs ++ [r], full := cap ≤ b.recs.length + 1 } else b)
  else if 16 ≤ t.length then none
  else some (t ++ [{ key with id := n + t.length, recs := [r], since := now, full := cap ≤ 1 }])

/-- Every record of a REGROUP, or none when the table cannot accept it whole (R266). -/
def relayAccept (c : Ctx) (s : State) (n : Nat) : Option (List Bucket) :=
  let len := c.f.modBits 2 0 + 1
  let key : Bucket :=
    { id := 0, block := c.gr.block, pc := c.gr.getS c.f.b.toNat, arg := c.gr.getS c.f.c.toNat, subtree := c.gr.subtree
      first := c.f.a.toNat, len := len, recs := [], since := 0, full := false }
  let cap := recWmax (s.recOf c.gr) / 4 * 4
  let recOf (l : Nat) : List (Word × Bool) := (List.range len).map fun j =>
    let r := vNum c.regs (c.f.a.toNat + j)
    (c.gr.getV r l, c.gr.poisV r l)
  (lanesOf c.lanes).foldl (fun t l => t.bind fun t => relayPut s.now cap n key t (recOf l)) (some (s.core c.gr.core).relay)

/-- REGROUP: its records enter the table, and its lanes retire at the end of the run. -/
def regroupSem : Meaning where
  check c _ := if c.gr.poisS c.f.b.toNat || c.gr.poisS c.f.c.toNat then groupCause c 10 0 0 else []
  stall c s := (relayAccept c s s.nextId).isNone
  act c s :=
    match relayAccept c s s.nextId with
    | none => (s, false)
    | some t =>
      let s := { s with nextId := s.nextId + 32 }
      let s := s.modCore c.gr.core fun k => { k with relay := t }
      let s := (t.filter (·.full)).foldl (fun s b => s.wireOnce (.relayGroupPlace c.gr.core b.id)) s
      (modRun s c.g fun r => { r with retire := r.retire ||| c.lanes }, false)

/-- Fires a bucket (R267). -/
def fireBucket (s : State) (core id : Nat) : State :=
  (s.modCore core fun k => { k with relay := k.relay.map fun b => if b.id == id then { b with full := true } else b }).wireOnce
    (.relayGroupPlace core id)

/-- REGROUP.FLUSH (R268). -/
def regroupFlushSem : Meaning where
  act c s :=
    (((s.core c.gr.core).relay.filter fun b => !b.full && b.block == c.gr.block &&
      (c.f.b == 63 || (b.pc == c.gr.getS c.f.b.toNat && b.subtree == c.gr.subtree))).foldl (fun s b => fireBucket s c.gr.core b.id) s, false)

/-- Every group of a block has exited or is at a blocking point. -/
def blockIdle (s : State) (b : Nat) : Bool := (s.groupsOf b).all fun g => (s.group g).saved || atBlocking s g
/-- 2 µs after its first record, or when its block idles, a bucket fires. -/
def evRelayTimeout (core id : Nat) (s : State) : State :=
  match (s.core core).relay.find? fun b => b.id == id && !b.full with
  | none => s
  | some b => if b.since + 2000 ≤ s.now || blockIdle s b.block then fireBucket s core id else s

def execRelayTimeout (core id : Nat) (s : State) : Host.Outcome State Fault Refusal := .next (evRelayTimeout core id s)

/-! ### The instructions -/

/-- SHFL_IDX_B (R258). -/
def execShflIdxB (f : BForm) (s : State) : Host.Outcome State Fault Refusal := issueB 0x308 f shflIdxSem s
/-- SHFL_IDX_E (R258). -/
def execShflIdxE (f : EForm) (s : State) : Host.Outcome State Fault Refusal := issue 0x308 f shflIdxSem s
/-- SHFL_UP_B (R258). -/
def execShflUpB (f : BForm) (s : State) : Host.Outcome State Fault Refusal := issueB 0x309 f shflUpSem s
/-- SHFL_UP_E (R258). -/
def execShflUpE (f : EForm) (s : State) : Host.Outcome State Fault Refusal := issue 0x309 f shflUpSem s
/-- SHFL_DOWN_B (R258). -/
def execShflDownB (f : BForm) (s : State) : Host.Outcome State Fault Refusal := issueB 0x30A f shflDownSem s
/-- SHFL_DOWN_E (R258). -/
def execShflDownE (f : EForm) (s : State) : Host.Outcome State Fault Refusal := issue 0x30A f shflDownSem s
/-- SHFL_XOR_B (R258). -/
def execShflXorB (f : BForm) (s : State) : Host.Outcome State Fault Refusal := issueB 0x30B f shflXorSem s
/-- SHFL_XOR_E (R258). -/
def execShflXorE (f : EForm) (s : State) : Host.Outcome State Fault Refusal := issue 0x30B f shflXorSem s
/-- BCAST_B (R259). -/
def execBcastB (f : BForm) (s : State) : Host.Outcome State Fault Refusal := issueB 0x30C f bcastSem s
/-- BCAST_E (R259). -/
def execBcastE (f : EForm) (s : State) : Host.Outcome State Fault Refusal := issue 0x30C f bcastSem s
/-- VOTE (R260). -/
def execVote (f : EForm) (s : State) : Host.Outcome State Fault Refusal := issue 0x30D f voteSem s
/-- LANEQ (R260). -/
def execLaneq (f : EForm) (s : State) : Host.Outcome State Fault Refusal := issue 0x30E f laneqSem s
/-- MATCH (R260). -/
def execMatch (f : EForm) (s : State) : Host.Outcome State Fault Refusal := issue 0x353 f matchSem s
/-- SETW (R254). -/
def execSetw (f : EForm) (s : State) : Host.Outcome State Fault Refusal := issue 0x350 f setwSem s
/-- REDUCE (R262). -/
def execReduce (f : EForm) (s : State) : Host.Outcome State Fault Refusal := issue 0x351 f reduceSem s
/-- SCAN (R263). -/
def execScan (f : EForm) (s : State) : Host.Outcome State Fault Refusal := issue 0x352 f scanSem s
/-- COMPACT (R264). -/
def execCompact (f : EForm) (s : State) : Host.Outcome State Fault Refusal := issue 0x354 f compactSem s
/-- REGROUP (R266). -/
def execRegroup (f : EForm) (s : State) : Host.Outcome State Fault Refusal := issue 0x355 f regroupSem s
/-- REGROUP_FLUSH (R268). -/
def execRegroupFlush (f : EForm) (s : State) : Host.Outcome State Fault Refusal := issue 0x356 f regroupFlushSem s

end Sys2Proof.Machine
end

