-- ==== Sys2Proof/Machine/System.lean ====
section
/-!
DEFINITION. Control registers (06 R118 to R120, 17 R416, R417), TRAP, BKPT, ERET, TLBI with the invalidations that it and the host start (02
R39, R40), ASIDSW, CARVE, HALT and TRACE, and the completion of long-latency instructions (06 R135).
-/

namespace Sys2Proof.Machine

open Sys2Proof

/-! ### Control registers -/

/-- The number an encoding names. -/
def csrNum (c : Ctx) : Nat := c.f.b.toNat + 256 * c.f.c.toNat
/-- Registers that exist. -/
def csrList : List Nat :=
  [0, 1, 2, 3, 4, 5, 6, 7, 0x10, 0x11, 0x12, 0x13, 0x20, 0x21, 0x30, 0x31, 0x32, 0x40, 0x41, 0x42, 0x43, 0x44,
    0x100, 0x101, 0x102, 0x103, 0x104, 0x105, 0x106, 0x107, 0x108]
/-- The group has handler or system privilege (R415). -/
def anyPriv (s : State) (gr : Group) : Bool := gr.hm || ctxPriv s (s.ctxOf gr)
/-- The causes a control register's number raises. -/
def csrCheck (c : Ctx) (s : State) : List LaneCause :=
  let n := csrNum c
  (if csrList.contains n then [] else groupCause c 1 0x0D 0) ++
  if 0x100 ≤ n && n ≤ 0x1FF && !anyPriv s c.gr then groupCause c 2 0 0 else []

/-- SHARE of a block (05 R91). -/
def shareReg (s : State) (bl : Block) : Nat :=
  match bl.share with
  | none => 0
  | some (r, slot) =>
    let rec' := tget { launch := 0, key := 0, slots := [] } (s.cluster (clusterOf bl.core)).shares r
    rec'.key * 256 + (rec'.slots.foldl (fun m e => if e.2.held then m + 2 ^ e.1 else m) 0) * 16 + 4 + slot

/-- Energy is counted up to a read (18 R438): the group's and its launch's counters rise by a free amount. -/
def countEnergy (s : State) (g : Nat) : State :=
  let d := (Config.freeEnergy s.free).toNat
  let up (x : DWord) : DWord := BitVec.ofNat 64 (satAdd 64 x.toNat d)
  let s := { s with free := s.free + 1 }
  let s := s.modGroup g fun gr => { gr with nrg := up gr.nrg }
  s.modLaunch (s.group g).launch fun l => { l with nrg := up l.nrg }

/-- What a read of a control register returns, for one lane. -/
def csrVal (s : State) (g n lane : Nat) : Nat :=
  let gr := s.group g
  let bl := s.block gr.block
  let la := s.launch gr.launch
  let ctx := s.ctxOf gr
  match n with
  | 0x000 => lane
  | 0x001 => gr.w
  | 0x002 => gr.phys + if gr.phys < gr.w then 256 else 0
  | 0x003 => gr.index * 2 ^ 24 + gr.num
  | 0x004 => bl.num
  | 0x005 => bl.stage
  | 0x006 => gr.subtree
  | 0x007 => recRace la.record * 2 + if recChecked la.record then 1 else 0
  | 0x010 => s.now
  | 0x011 => la.deadline.toNat
  | 0x012 => la.bestScore.toNat
  | 0x013 => (gr.best.getD la.bestData).toNat
  | 0x020 => la.nrg.toNat
  | 0x021 => gr.nrg.toNat
  | 0x030 => 0x1000
  | 0x031 => gr.capsel.toNat
  | 0x032 => capDword gr.capsel.toNat
  | 0x040 => bl.spSize
  | 0x041 => la.xSize
  | 0x042 => recLpR la.record
  | 0x043 => bl.accs.length * 2 ^ 32 + bl.tiles.length
  | 0x044 => shareReg s bl
  | 0x100 => (if ctxPriv s ctx then 2 else 0) + if gr.hm then 1 else 0
  | 0x101 => (gr.trap.map (·.frame)).getD (tframe s gr)
  | 0x102 => ctxDw s ctx 1
  | 0x103 => ctxDw s ctx 2
  | 0x104 => ctxDw s ctx 0
  | 0x105 => ctxDw s ctx 3
  | 0x106 => gr.dasid
  | 0x107 => gr.rgncnt.toNat
  | 0x108 => gr.core * 256 + gr.slot
  | _ => 0

/-- CSRR. -/
def csrrSem : Meaning where
  check := csrCheck
  act c s :=
    let n := csrNum c
    let s := if n == 0x20 || n == 0x21 then countEnergy s c.g else s
    let s := if n == 0x12 then s.modGroup c.g fun gr => { gr with best := some (s.launch gr.launch).bestData } else s
    (s.modGroup c.g fun gr =>
      if c.f.modBit 0 then
        (lanesOf c.lanes).foldl (fun gr l => wrVec gr c.regs c.f.d.toNat false l (csrVal s c.g n l % 2 ^ 32) false) gr
      else gr.wrS c.f.d.toNat (BitVec.ofNat 64 (csrVal s c.g n ((lanesOf c.lanes).headD 0))) false, false)

/-- Implemented bits of TVEC and TFBASE (R414). -/
def tvecMask : Nat := 2 ^ 56 - 3
def tfbaseMask : Nat := 2 ^ 56 - 2 ^ 13

/-- CSRW: fields that are read-only are left alone. -/
def csrwSem : Meaning where
  check c s :=
    let n := csrNum c
    csrCheck c s ++
    (if (n == 0x102 || n == 0x103) && !ctxPriv s (s.ctxOf c.gr) then groupCause c 2 0 0 else []) ++
    if c.gr.poisS c.f.a.toNat then groupCause c 10 0 0 else []
  act c s :=
    let x := sOp c c.f.a
    match csrNum c with
    | 0x011 =>
      let s := s.modLaunch c.gr.launch fun l => { l with deadline := BitVec.ofNat 64 (min l.deadline.toNat x) }
      (if (s.launch c.gr.launch).deadline.toNat ≤ s.now then s.wireOnce (.deadlineExpiry c.gr.launch) else s, false)
    | 0x031 => (s.modGroup c.g fun gr => { gr with capsel := BitVec.ofNat 13 x }, false)
    | 0x102 => (winSet s (ctxOfs (s.ctxOf c.gr) 1) (x &&& tvecMask), false)
    | 0x103 => (winSet s (ctxOfs (s.ctxOf c.gr) 2) (x &&& tfbaseMask), false)
    | _ => (s, false)

/-! ### TRAP, BKPT, ERET (R419, R420) -/

/-- TRAP. -/
def trapSem : Meaning where
  check c _ := onLanes c.lanes 19 c.f.b.toNat
  act _ s := (s, false)
/-- BKPT stops the group for an attached agent where BKDBG is set. -/
def bkdbg (c : Ctx) (s : State) : Bool := bitOf (ctxDw s (s.ctxOf c.gr) 3) 61 && s.dev.agent
/-- BKPT. -/
def bkptSem : Meaning where
  check c s := if bkdbg c s then [] else onLanes c.lanes 20 c.f.b.toNat
  halts := bkdbg
  act _ s := (s, false)
/-- ERET: the lanes stand at it; the return is taken at the end of the run once every handler lane does. -/
def eretSem : Meaning where
  check c _ := if c.gr.hm then [] else onLanes c.lanes 1 0x1C
  act c s := (modRun s c.g fun r => { r with waits := r.waits ++ [(.eret, c.lanes)] }, false)

/-! ### Invalidation (02 R39, 17 R422) -/

/-- The invalidation removes a translation of [va, va + n). -/
def Inval.takes (v : Inval) (asid : Nat) (g : Bool) (va n : Nat) : Bool :=
  match v.scope with
  | 0 => v.asid == asid && !g && va < v.hi && v.lo < va + n
  | 1 => v.asid == asid && !g
  | 2 => !g
  | _ => true
/-- A buffered translation is removed. -/
def Inval.tlb (v : Inval) (t : Tlb) : Bool := v.takes t.asid t.g t.va (2 ^ t.log)
/-- A buffered table pointer is removed: any of an address space in scope. -/
def Inval.ptr (v : Inval) (t : TPtr) : Bool := 2 ≤ v.scope || v.asid == t.asid

/-- A cache slot in the scope. -/
def Inval.slot (v : Inval) (k : CSlot) : Bool := k.vt && v.takes k.asid k.g (512 * k.vframe) 512
/-- A walk whose result the scope would match. -/
def Inval.walk (v : Inval) (w : Walk) : Bool := v.takes w.asid false (2 ^ 21 * w.region) (2 ^ 21)
/-- Removes every matching entry from every buffer, fills under way that would install by one, and every block whose virtual tag lies in the scope, but for frozen replicas, which stay
under their back-tag (R40); walks that the scope would match restart, and code read ahead is read again. -/
def invalRemove (s : State) (v : Inval) : State :=
  let s := s.clusters.foldl (fun s e => maintain s e.1 (fun k => if v.slot k then BitVec.allOnes 32 else 0) fun x => x ≠ 0 && x ≠ 3) s
  let s := s.clusters.foldl (fun s e => s.modCluster e.1 fun c =>
    { c with slots := c.slots.map fun x => if v.slot x.2 then (x.1, { x.2 with vt := false }) else x
             fills := c.fills.filter fun f => !v.tlb f.t, tlb := c.tlb.filter fun t => !v.tlb t, tptr := c.tptr.filter fun t => !v.ptr t }) s
  let s := s.cores.foldl (fun s e => s.modCore e.1 fun c =>
    { c with bceTlb := c.bceTlb.filter fun t => !v.tlb t, meTlb := c.meTlb.map fun x => (x.1, x.2.filter fun t => !v.tlb t) }) s
  let s := { s with groups := s.groups.map fun (e : Nat × Group) => (e.1, { e.2 with pre := none, ferr := [] }) }
  s.clusters.foldl (fun s e => walkRestart s e.1 v.walk) s

/-- Accesses under way that used a translation in the scope; range maintenance and FREEZE under way used those of their ranges. -/
def invalUsed (s : State) (v : Inval) : List (Nat × Nat) :=
  s.groups.flatMap fun e => (e.2.pend.filter fun p =>
    (spaceOf p.op == some 0 && p.pieces.any fun x => v.tlb x.t) ||
    (0x240 ≤ p.op && p.op ≤ 0x243 && p.aux == 0 && (!p.addrs.isEmpty || (tfind p.vals 3).isSome) && v.takes p.asid false (tget 0 p.vals 0) (tget 0 p.vals 1)) ||
    s.clusters.any fun c => c.2.storeQ.any fun q => q.g == e.1 && q.op == p.id && v.tlb q.t).map fun p => (e.1, p.id)
/-- Requests of engines under way that did. -/
def invalEngs (s : State) (v : Inval) : List (Nat × Nat) :=
  s.dev.engs.flatMap fun (e : Nat × EngAcc) => if e.2.port = .phys then []
    else (e.2.out.filter fun o => v.takes e.2.asid false o.2.1.va o.2.1.len).map fun o => (e.1, o.1)
/-- Some of these requests is not answered. -/
def engsLeft (s : State) (l : List (Nat × Nat)) : Bool := l.any fun x => (getEng s x.1).any fun e => e.out.any fun o => o.1 == x.2
/-- A store of the scope waits in a cluster. -/
def invalStores (s : State) (v : Inval) : Bool := s.clusters.any fun e => e.2.storeQ.any fun q => v.tlb q.t
/-- Some of these accesses is not complete. -/
def someLeft (s : State) (l : List (Nat × Nat)) : Bool := l.any fun x => ((s.group x.1).findPend x.2).isSome

/-- Starts an invalidation for a waiter, behind its issuer's earlier accesses. -/
def startInval (s : State) (scope asid lo hi : Nat) (before : List (Nat × Nat)) (w : FzWait) : State :=
  let (id, s) := s.fresh
  let v : Inval :=
    { id := id, scope := scope, asid := asid, lo := lo / 4096 * 4096, hi := roundUp hi 4096, before := before, removed := false, used := []
      engs := [], waiter := w }
  ({ s with dev := { s.dev with invals := s.dev.invals ++ [v] } }).wire (.invalidationComplete id)

/-- A TLBI is a release: queued stores that its group can have read go before it (R39; 14 R330). -/
def invalDrains (s : State) (v : Inval) : Bool := match v.waiter with
  | .instr g op => match (s.group g).findPend op with
    | some p => !drainOk s g p
    | none => false
  | _ => false
/-- An invalidation goes on: the issuer's earlier stores, the removals, the accesses that used what was removed; then its flag or status. -/
def evInvalidationComplete (id : Nat) (s : State) : State :=
  match s.dev.invals.find? fun v => v.id == id with
  | none => s
  | some v =>
    let again (s : State) : State := s.wire (.invalidationComplete id)
    let put (s : State) (v : Inval) : State := { s with dev := { s.dev with invals := s.dev.invals.map fun x => if x.id == id then v else x } }
    if someLeft s v.before then again s
    else if !v.removed && invalDrains s v then again (match v.waiter with
      | .instr g op => match (s.group g).findPend op with
        | some p => drainMark s g p
        | none => s
      | _ => s)
    else if !v.removed then
      let used := invalUsed s v
      let engs := invalEngs s v
      let s := s.clusters.foldl (fun s e => if e.2.storeQ.any fun q => q.wc && !q.out && v.tlb q.t then evWcFlush e.1 s else s) s
      again (put (invalRemove s v) { v with removed := true, used := used, engs := engs })
    else if someLeft s v.used || engsLeft s v.engs || invalStores s v then again s
    else
      let s := { s with dev := { s.dev with invals := s.dev.invals.filter fun x => x.id ≠ id } }
      match v.waiter with
      | .instr g op => finishPend s g op
      | .counter core k => decCounter s core k
      | .host seq => s.wire (.hcmdComplete seq 0)

/-- TLBI. -/
def tlbiSem : Meaning where
  check c s :=
    let m := c.f.modBits 1 0
    let asid := sOp c c.f.c
    let sys := ctxPriv s (s.ctxOf c.gr)
    let a := sOp c c.f.a
    let n := sOp c c.f.b
    (if m ≤ 1 && 2 ^ 16 ≤ asid then groupCause c 1 2 0 else []) ++
    (if sys || (c.gr.hm && m ≤ 1 && asid == c.gr.dasid) then [] else groupCause c 2 0 0) ++
    if m == 0 && n ≠ 0 && (noncanon a || 2 ^ 56 < a + n) then groupCause c 8 1 a else []
  act c s :=
    let m := c.f.modBits 1 0
    let a := sOp c c.f.a
    let n := sOp c c.f.b
    if m == 0 && n == 0 then (s, false)
    else
      let (id, s) := s.fresh
      let before := (c.gr.pend.filter fun p => p.isAccess).map fun p => (c.g, p.id)
      (startInval (addPend s c.g (newPend c id s)) m (sOp c c.f.c) a (a + n) before (.instr c.g id), true)

/-! ### ASIDSW, CARVE, HALT, TRACE -/

/-- ASIDSW (R423). -/
def asidswSem : Meaning where
  check c s :=
    let x := sOp c c.f.a
    if 2 ^ 16 ≤ x then groupCause c 1 2 0 else if !ctxEn s x then groupCause c 1 0x1D 0 else []
  act c s :=
    (s.modGroup c.g fun gr =>
      ({ gr with dasid := sOp c c.f.a }).wrS c.f.d.toNat (BitVec.ofNat 64 gr.dasid) false, false)

/-- CARVE (R424): refused at issue, or under way until its write-backs are done. -/
def carveSem : Meaning where
  check c _ := if 4 < sOp c c.f.a then groupCause c 1 2 0 else []
  act c s :=
    let k := s.core c.gr.core
    let n := sOp c c.f.a
    if k.carving.isSome then pendReady c s [sWrite c.f.d 2]
    else if n * 65536 < lpHeld s c.gr.core 0 then pendReady c s [sWrite c.f.d 1]
    else
      let (id, s) := s.fresh
      ((addPend (s.setCore c.gr.core { k with carving := some n }) c.g { newPend c id s with vals := [(0, n)] }).wire (.instrComplete c.g id), true)

/-- A CARVE hands over its ways: what the cache held in those it loses is written back and removed. -/
def carveStep (s : State) (g : Nat) (p : Pend) : State :=
  let core := (s.group g).core
  let c := clusterOf core
  let n := tget 0 p.vals 0
  let keys := (tkeys (s.cluster c).slots).filter fun k => k / 2048 == core % 4 && 16 - n ≤ k % 16
  let s := keys.foldl (fun s k =>
    let s := cleanSlot s c k (BitVec.allOnes 32)
    dropFrom s c k (BitVec.allOnes 32)) s
  let s := s.modCore core fun k => { k with carve := n, carving := none }
  let s := s.modGroup g fun gr => applyRes gr [sWrite p.f.d 0]
  roomFreed (finishPend s g p.id) core

/-- HALT (R425). -/
def haltSem : Meaning where
  act c s := (modRun s c.g fun r => { r with waits := r.waits ++ [(.halt, c.entry)] }, false)

/-- TRACE (18 R440). -/
def traceSem : Meaning where
  act c s := (leuth s 6 (0x80 + c.f.b.toNat) (sOp c c.f.a) c.gr.core c.gr.num c.gr.seq.toNat c.pc.toNat false false, false)

/-! ### Completion (06 R135) -/

/-- A counted long-latency instruction goes on toward its completion, by what it is. -/
def evInstrComplete (g op : Nat) (s : State) : State :=
  let gr := s.group g
  match gr.findPend op with
  | none => s
  | some p =>
    match spaceOf p.op with
    | some 0 => if isGsc p.op then gscStep s g p else lsuStep s g op none
    | some k =>
      if k == 4 && (s.core gr.core).carving.isSome then s.wire (.instrComplete g op)
      else if !gr.afterOk p then s
      else if drainOk s g p then performSpace s g p else (drainMark s g p).wire (.instrComplete g op)
    | none =>
      if p.ready then finishPend (s.modGroup g fun gr => p.put gr p.res) g op
      else match p.op with
      | 0x240 | 0x241 | 0x242 => maintStep s g op none
      | 0x243 => freezeStep s g op none
      | 0x276 | 0x277 | 0x278 => haccStep s g op
      | 0x27B => allocStep s g p
      | 0x27C => freeStep s g p
      | 0x360 | 0x361 => fenceStep s g p
      | 0x346 => s.wireOnce (.spawnPlace gr.core)
      | 0x348 => cancelStep s g p
      | 0x349 => bestStep s g p
      | 0x34A => s.wireOnce (.stageQueuePush gr.launch (stageOf s gr))
      | 0x374 => carveStep s g p
      | _ => s

def execInstrComplete (g op : Nat) (s : State) : Host.Outcome State Fault Refusal := .next (evInstrComplete g op s)
def execInvalidationComplete (id : Nat) (s : State) : Host.Outcome State Fault Refusal := .next (evInvalidationComplete id s)

/-! ### The instructions -/

/-- CSRR_B (R417). -/
def execCsrrB (f : BForm) (s : State) : Host.Outcome State Fault Refusal := issueB 0x310 f csrrSem s
/-- CSRR_E (R417). -/
def execCsrrE (f : EForm) (s : State) : Host.Outcome State Fault Refusal := issue 0x310 f csrrSem s
/-- CSRW_B (R417). -/
def execCsrwB (f : BForm) (s : State) : Host.Outcome State Fault Refusal := issueB 0x311 f csrwSem s
/-- CSRW_E (R417). -/
def execCsrwE (f : EForm) (s : State) : Host.Outcome State Fault Refusal := issue 0x311 f csrwSem s
/-- TRAP (R419). -/
def execTrap (f : EForm) (s : State) : Host.Outcome State Fault Refusal := issue 0x370 f trapSem s
/-- ERET (R420). -/
def execEret (f : EForm) (s : State) : Host.Outcome State Fault Refusal := issue 0x371 f eretSem s
/-- TLBI (R422). -/
def execTlbi (f : EForm) (s : State) : Host.Outcome State Fault Refusal := issue 0x372 f tlbiSem s
/-- ASIDSW (R423). -/
def execAsidsw (f : EForm) (s : State) : Host.Outcome State Fault Refusal := issue 0x373 f asidswSem s
/-- CARVE (R424). -/
def execCarve (f : EForm) (s : State) : Host.Outcome State Fault Refusal := issue 0x374 f carveSem s
/-- BKPT (R419). -/
def execBkpt (f : EForm) (s : State) : Host.Outcome State Fault Refusal := issue 0x375 f bkptSem s
/-- HALT (R425). -/
def execHalt (f : EForm) (s : State) : Host.Outcome State Fault Refusal := issue 0x376 f haltSem s
/-- TRACE (R440). -/
def execTrace (f : EForm) (s : State) : Host.Outcome State Fault Refusal := issue 0x377 f traceSem s

end Sys2Proof.Machine
end

