-- ==== Sys2Proof/Machine/Launch.lean ====
section
/-!
DEFINITION. Launches (16): the queue watcher, the checks of a launch record, launch counters, admission, placement, the end of blocks and
launches with their completion records; and the saving and restoring of groups, the watchdog, aging and the time slice (16 R387, R395, 17
R410 to R413).
-/

namespace Sys2Proof.Machine

open Sys2Proof

/-! ### Queues (R377 to R379) -/

/-- Window offset of a queue's registers. -/
def qOfs (q : Nat) : Nat := 0x100000 + 0x40 * q
def qEn (s : State) (q : Nat) : Bool := bitOf (winNat s (qOfs q + 0x18)) 63
def qCtx (s : State) (q : Nat) : Nat := bits (winNat s (qOfs q + 0x18)) 59 44
def qRlog (s : State) (q : Nat) : Nat := bits (winNat s (qOfs q + 0x18)) 43 40
def qClog (s : State) (q : Nat) : Nat := bits (winNat s (qOfs q + 0x18)) 39 36
def qHead (s : State) (q : Nat) : Nat := bits (winNat s (qOfs q + 0x20)) 15 0
def qChead (s : State) (q : Nat) : Nat := bits (winNat s (qOfs q + 0x20)) 47 32
def qCtail (s : State) (q : Nat) : Nat := bits (winNat s (qOfs q + 0x20)) 63 48
/-- Records due: (TAIL − HEAD) mod 2^16. -/
def qDue (s : State) (q : Nat) : Nat := (tget 0 s.dev.tail q + 65536 - qHead s q) % 65536

/-- Some launch is accepted and incomplete. -/
def anyLaunch (s : State) : Bool := s.launches.any fun e => !e.2.done
/-- Launches of a class that are accepted and incomplete. -/
def classBusy (s : State) (c : Nat) : Bool := s.launches.any fun e => !e.2.done && recLclass e.2.record == c

/-! ### The record's checks (R381) -/

/-- Start of stage k, and one past its last block. -/
def stageLo (r : BitVec 1024) (k : Nat) : Nat := if k == 0 then 0 else recSfirst r k
def stageHi (r : BitVec 1024) (k : Nat) : Nat := if k == 7 then recNblk r else recSfirst r (k + 1)
/-- The stage of a launch block: the highest whose start is at most it. -/
def stageOfBlock (r : BitVec 1024) (b : Nat) : Nat := ((List.range 8).filter fun k => stageLo r k ≤ b).getLastD 0

/-- Reserved fields are 0 (R380). -/
def recReservedOk (r : BitVec 1024) : Bool :=
  [(1023, 624), (511, 511), (393, 384), (334, 320), (262, 256), (194, 192), (128, 128), (127, 120), (63, 56)].all fun x => recF r x.1 x.2 == 0
/-- A width is a multiple of 4 from 4 to 64. -/
def widthOk (w : Nat) : Bool := w % 4 == 0 && 4 ≤ w && w ≤ 64
/-- BAD_RECORD (R381). -/
def recBad (r : BitVec 1024) : Bool :=
  !recReservedOk r || recNblk r == 0 || recGpb r == 0 || 32 < recGpb r || !widthOk (recWreq r) || !widthOk (recWmax r) ||
  recWmax r < recWreq r || (4 ≤ recLclass r && recLclass r ≤ 6) || recRace r == 3 || recRegsF r == 0 || 2048 < recLp r || 64 < recTiles r ||
  768 < recAcc r || 3145728 < recScratch r || 67108864 < recXscratch r || recGpb r ≤ recProducer r || 4 < recCplace r ||
  8 < recNcbar r || (recNcbar r ≠ 0 && recCplace r == 0) || 8 < recNgbar r ||
  (List.range 7).any (fun k => recNblk r < recSfirst r (k + 1) || (k ≠ 0 && recSfirst r (k + 1) < recSfirst r k)) ||
  (List.range 7).any (fun k => !recSqen r k && recSq r k ≠ 0) || recEntry r % 4 ≠ 0
/-- BAD_CTX (R381), for a record read from queue q. -/
def recBadCtx (s : State) (r : BitVec 1024) (q : Nat) : Bool :=
  recCtx r ≠ qCtx s q || !qEn s (recCrq r) || qCtx s (recCrq r) ≠ recCtx r

/-! ### Completion records (R390, R391) -/

/-- A completion record before it is written: all but TEND and PH. -/
def complRecord (nrg status reason fgroup : Nat) (bd bs : Word) (ctag rix queue : Nat) : BitVec 256 :=
  BitVec.ofNat 256 (min (2 ^ 32 - 1) nrg * 2 ^ 224 + status * 2 ^ 222 + reason % 64 * 2 ^ 216 + fgroup % 2 ^ 24 * 2 ^ 192 + bd.toNat * 2 ^ 96 +
    bs.toNat * 2 ^ 64 + ctag * 2 ^ 32 + rix % 65536 * 2 ^ 16 + queue * 2 ^ 10)

/-- The completion ring has room. -/
def ringRoom (s : State) (q : Nat) : Bool := (qCtail s q + 65536 - qChead s q) % 65536 ≠ 2 ^ qClog s q
/-- An access of a unit that presents as agent 96 or as that of its port, by physical address (03 R43). -/
def unitAccess (write : Bool) (segs : List EngSeg) (cont : Msg) (agent : Nat := 96) : EngAcc :=
  EngAcc.new .phys agent 0 { g := 0, pc := 0, seq := 0, core := 0 } write segs cont
/-- The access of such a unit that goes on by a step, and its key. -/
def unitEng (s : State) (cont : Msg) : Option (Nat × EngAcc) := s.dev.engs.find? fun e => e.2.cont == cont && e.2.port == .phys
/-- The slot at CTAIL. -/
def recordAt (s : State) (q : Nat) : Nat := bits (winNat s (qOfs q + 0x10)) 51 5 * 32 + 32 * (qCtail s q % 2 ^ qClog s q)
/-- A record's bytes at CTAIL, with TEND and PH. -/
def recordBytes (s : State) (q : Nat) (r : BitVec 256) : List Byte :=
  leBytes (r.toNat + s.now * 2 ^ 128 + (1 - qCtail s q / 2 ^ qClog s q % 2)) 32
/-- Records that wait for a ring. -/
def ringWaiting (s : State) (q : Nat) : Nat := (s.dev.waiting.filter fun x => x.ring == q && x.eng.isNone).length

/-! ### Launch counters (R382) -/

/-- Pending launches whose counters are all 0 go on, in ascending queue number, then in ring order. -/
def counterZero (s : State) (c : Nat) : Bool := bits (winNat s (0x200000 + 8 * c)) 15 0 == 0
/-- One decrement. -/
def decLaunchCounter (s : State) (c : Nat) : State :=
  let o := 0x200000 + 8 * c
  let v := bits (winNat s o) 15 0
  if v == 0 then winSet s o (winNat s o ||| 2 ^ 16) else winField s o 15 0 (v - 1)
/-- Signals of a completed launch, in order. -/
def signalAll (s : State) (cs : List Nat) : State := cs.foldl decLaunchCounter s

/-- A record may be written: its ring has room, and no other record is on its way there. -/
def recordReady (s : State) (x : PendRec) : Bool :=
  x.eng.isNone && ringRoom s x.ring && !s.dev.waiting.any fun y => y.ring == x.ring && y.eng.isSome
/-- Records that wait are written to rings that have room, in completion order, one to a ring at a time. -/
def drainRings (s : State) : Nat → State
  | 0 => s
  | n + 1 =>
    match s.dev.waiting.find? (recordReady s) with
    | none => s
    | some x =>
      let (id, s) := s.fresh
      let s := { s with dev := { s.dev with waiting := s.dev.waiting.map fun y => if y == x then { x with eng := some id } else y } }
      drainRings (engBegin s id (unitAccess true (writeSegs (recordAt s x.ring) (recordBytes s x.ring x.record) []) (.recordDone id))) n
/-- Of two records, the first is taken before the second: by completion, and in the same ns by queue (R396). -/
def recordBefore (a b : PendRec) : Bool :=
  b.eng.isNone && (a.since < b.since || (a.since == b.since && bits a.record.toNat 15 10 < bits b.record.toNat 15 10))
/-- A completion record takes its place: it is written once its ring has room, and waits in the ring's buffer of 64 records, or held outside it, until
then. -/
def deliver (s : State) (q : Nat) (r : BitVec 256) (sigs : List Nat) : State :=
  let x : PendRec := { ring := q, record := r, signals := sigs, eng := none, since := s.now }
  ({ s with dev := { s.dev with waiting := insertBy recordBefore x s.dev.waiting } }).wireOnce (.recordDone 0)

/-- The ring that takes a record's completion: CRQ's, if enabled and of the record's context, else its own queue's (R381). -/
def complRing (s : State) (r : BitVec 1024) (q : Nat) : Nat :=
  if qEn s (recCrq r) && qCtx s (recCrq r) == recCtx r then recCrq r else q
/-- A refusal (R381), whose SC counters decrement as for any completion (R396). -/
def refuse (s : State) (r : BitVec 1024) (q rix code : Nat) : State :=
  deliver s (complRing s r q) (complRecord 0 3 code 0xFFFFFF 0 0x80000000 (recCtag r) rix q) (recSc r)

/-! ### Fitting (R384 to R386) -/

/-- What blocks hold on a core: groups, scratchpad, tile slots, accumulator tiles by context, lane-private bytes.
    The entry 64 + k of a map of loads holds the cluster barriers in use on cluster k, and nothing else. -/
structure Load where
  groups : Nat
  sp : Nat
  tiles : Nat
  acc : Sp Nat
  lp : Nat
  bars : Nat
  deriving DecidableEq, Repr

def Load.zero : Load := { groups := 0, sp := 0, tiles := 0, acc := [], lp := 0, bars := 0 }
/-- A launch block more. -/
def Load.add (x : Load) (r : BitVec 1024) : Load :=
  { x with
    groups := x.groups + recGpb r, sp := x.sp + roundUp (recScratch r) 4096, tiles := x.tiles + recTiles r
    acc := tmod 0 x.acc (recCtx r) (· + recAcc r), lp := x.lp + recLpR r * recWreq r * recGpb r }
/-- The conditions of R384 on a core. -/
def Load.fits (x : Load) (s : State) (core : Nat) : Bool :=
  x.groups ≤ 32 && x.sp ≤ 3145728 && x.tiles ≤ 64 && x.acc.all (fun e => e.2 ≤ 768) && x.lp ≤ lpRoom s core

/-- What the blocks placed on a core hold now: live groups, and allocations of blocks that have not ended. -/
def coreLoad (s : State) (core : Nat) : Load :=
  s.blocks.foldl (fun x e =>
    if e.2.ended || e.2.core ≠ core then x
    else
      let r := (s.launch e.2.launch).record
      let n := (s.groupsOf e.1).length
      { x with
        groups := x.groups + n, sp := x.sp + e.2.spSize, tiles := x.tiles + e.2.tiles.length
        acc := tmod 0 x.acc (recCtx r) (· + e.2.accs.length), lp := x.lp + recLpR r * recWreq r * n }) Load.zero

/-- The lowest core of a list on which a launch block fits beside a load. -/
def fitCore (s : State) (r : BitVec 1024) (ld : Sp Load) (cores : List Nat) : Option Nat :=
  cores.find? fun c => ((tget Load.zero ld c).add r).fits s c
/-- Places n blocks on a list of cores, each on the lowest that fits it. -/
def fitMany (s : State) (r : BitVec 1024) (cores : List Nat) : Nat → Sp Load → Option (Sp Load × List Nat)
  | 0, ld => some (ld, [])
  | n + 1, ld => match fitCore s r ld cores with
    | none => none
    | some c => (fitMany s r cores n (tmod Load.zero ld c fun x => x.add r)).map fun y => (y.1, c :: y.2)
/-- Cluster barriers that placed sets of incomplete launches hold, in the entries of their clusters (01 R12: a cluster has 8; 15 R359). -/
def barLoads (s : State) : Sp Load :=
  let sets := dedup ((s.blocks.filter fun e => !e.2.single && !(s.launch e.2.launch).done && (s.launch e.2.launch).heldAt.isNone).map fun e =>
    (e.2.launch, e.2.place, clusterOf e.2.core))
  sets.foldl (fun (ld : Sp Load) x =>
    let n := recNcbar (s.launch x.1).record
    if n == 0 then ld else tmod Load.zero ld (64 + x.2.2) fun y => { y with bars := y.bars + n }) []
/-- Loads of a pool's cores, and the cluster barriers in use. -/
def poolLoads (s : State) (pool : List Nat) : Sp Load :=
  pool.foldl (fun ld c => tput ld c (coreLoad s c)) (barLoads s)
/-- Places the next set of blocks, from block b on: one block, or a set on one cluster with its cluster barriers free. -/
def fitSet (s : State) (r : BitVec 1024) (pool : List Nat) (b : Nat) (ld : Sp Load) : Option (Sp Load × List Nat) :=
  if recCplace r == 0 then fitMany s r pool 1 ld
  else
    let n := min (recCplace r) (recNblk r - b)
    (List.range 16).findSome? fun k =>
      if 8 < (tget Load.zero ld (64 + k)).bars + recNcbar r then none
      else (fitMany s r (pool.filter fun c => clusterOf c == k) n ld).map fun y =>
        (tmod Load.zero y.1 (64 + k) fun x => { x with bars := x.bars + recNcbar r }, y.2)
/-- Places every block from b on, or none; fuel bounds the sets. -/
def fitAll (s : State) (r : BitVec 1024) (pool : List Nat) : Nat → Nat → Sp Load → Option (Sp Load × List Nat)
  | b, 0, ld => if recNblk r ≤ b then some (ld, []) else none
  | b, n + 1, ld =>
    if recNblk r ≤ b then some (ld, [])
    else match fitSet s r pool b ld with
      | none => none
      | some (ld, cs) => (fitAll s r pool (b + cs.length) n ld).map fun y => (y.1, cs ++ y.2)

/-! ### The chip scratchpad and the grid barriers (03 R57, 01 R12) -/

/-- Bytes of the layout's regions below the grids' remainder. -/
def chipCarved (s : State) : Nat := carveBase s + bits (winNat s 0x520040) 19 16 * 0x100000
/-- Bytes a launch takes: its rounded XSCRATCH and its stage queues. -/
def chipNeed (r : BitVec 1024) : Nat :=
  roundUp (recXscratch r) 4096 + ((List.range 7).filter (recSqen r)).foldl (fun n k => n + roundUp (4 * sqWords r k * sqDepth r k) 4096) 0
/-- Launches that hold chip scratchpad and grid barriers: accepted, incomplete, and with their room taken. -/
def holders (s : State) : List Launch := (s.launches.filter fun e => !e.2.done && e.2.xAlloc ≠ 0).map (·.2)
/-- The remainder has room. -/
def chipRoom (s : State) (need : Nat) : Bool :=
  chipCarved s + (holders s).foldl (fun n l => n + (l.xAlloc - 1)) 0 + need ≤ 0x4000000
/-- Grid barriers are free for a launch: the device has 8 (01 R12). -/
def barRoom (s : State) (r : BitVec 1024) : Bool :=
  (holders s).foldl (fun n l => n + recNgbar l.record) (recNgbar r) ≤ 8
/-- The lowest base of n free bytes above `from`, beside intervals (base, length). -/
def findGap (lo n : Nat) (used : List (Nat × Nat)) : Nat → Nat
  | 0 => lo
  | k + 1 => match used.find? fun u => u.1 < lo + n && lo < u.1 + u.2 with
    | none => lo
    | some u => findGap (u.1 + u.2) n used k
/-- A launch takes its chip scratchpad, filled with zeros, and its grid barriers. `xAlloc` counts one more than the bytes. -/
def takeChip (s : State) (l : Nat) : State :=
  let la := s.launch l
  let need := chipNeed la.record
  let used := (holders s).map fun x => (x.xBase, x.xAlloc - 1)
  let base := findGap (chipCarved s) need used (used.length + 1)
  let inside (a : Nat) : Bool := base ≤ a && a < base + need
  let s := { s with chip := { s.chip with
    bytes := s.chip.bytes.filter fun e => !inside e.1
    ue := s.chip.ue.filter fun e => !inside (16 * e.1)
    shadow := s.chip.shadow.filter fun e => !inside (16 * e.1) } }
  s.setLaunch l { la with xBase := base, xAlloc := need + 1, xSize := roundUp (recXscratch la.record) 4096 }
/-- The launch holds its room. -/
def Launch.hasRoom (l : Launch) : Bool := l.xAlloc ≠ 0

/-! ### Admission (R385) -/

/-- Groups that live in a block beside those of its launch (15 R347). -/
def childrenIn (s : State) (b : Nat) : Nat :=
  let r := (s.launch (s.block b).launch).record
  ((s.groupsOf b).filter fun g => recNblk r * recGpb r ≤ (s.group g).num).length
/-- Loads of a class's cores with every accepted, incomplete launch of the class holding all of its blocks, placed or not, ended or not, beside the
children that live in them and in blocks of their own (R384). -/
def classLoads (s : State) (cls : Nat) : Option (Sp Load) :=
  let las := s.launches.filter fun e => !e.2.done && recLclass e.2.record == cls
  let placed := s.blocks.foldl (fun (ld : Sp Load) e =>
    if las.any (fun x => x.1 == e.2.launch) && !e.2.single then tmod Load.zero ld e.2.core fun y => y.add (s.launch e.2.launch).record
    else ld) (barLoads s)
  let ext := s.blocks.foldl (fun (ld : Sp Load) e =>
    let r := (s.launch e.2.launch).record
    let n := childrenIn s e.1
    if las.any (fun x => x.1 == e.2.launch) && n ≠ 0 then
      tmod Load.zero ld e.2.core fun y => { y with groups := y.groups + n, lp := y.lp + recLpR r * recWreq r * n }
    else ld) placed
  las.foldl (fun (ld : Option (Sp Load)) e => ld.bind fun ld =>
    (fitAll s e.2.record (poolOf s cls) e.2.nextBlock (recNblk e.2.record) ld).map (·.1)) (some ext)

/-- The outcome of admission: a reason, or acceptance. -/
def admitTest (s : State) (r : BitVec 1024) : Option Nat :=
  let cls := recLclass r
  let pool := poolOf s cls
  if cls < 4 then
    if recDeadline r ≠ 0 && recDeadline r < winNat s (0x300008 + 0x10 * cls) % 2 ^ 32 then some 4
    else match classLoads s cls with
      | none => some 3
      | some ld => if (fitAll s r pool 0 (recNblk r) ld).isSome && barRoom s r && chipRoom s (chipNeed r) then none else some 3
  else if recNgbar r ≠ 0 then
    (if (fitAll s r pool 0 (recNblk r) []).isSome then none else some 3)
  else if recCplace r ≠ 0 then (if (fitSet s r pool 0 []).isSome then none else some 3)
  else if (fitMany s r pool 1 []).isSome then none else some 3

/-- A launch is accepted (R385, 15 R372, R373). -/
def accept (s : State) (r : BitVec 1024) (q rix : Nat) : State :=
  let (l, s) := s.fresh
  let dl := if recDeadline r == 0 then 2 ^ 64 - 1 else min (2 ^ 64 - 1) (s.now + recDeadline r)
  let sq : Sp StageQ := ((List.range 7).filter (recSqen r)).map fun k =>
    (k, { StageQ.reset with closed := stageLo r k == stageHi r k })
  let s := s.setLaunch l { Launch.reset with
    record := r, queue := q, rix := BitVec.ofNat 16 rix, order := l, deadline := BitVec.ofNat 64 dl, stageQ := sq }
  let s := if recLclass r < 4 || (barRoom s r && chipRoom s (chipNeed r)) then takeChip s l else s
  s.wire (.blockPlace l)

/-- A record goes to admission. -/
def admitLaunch (s : State) (r : BitVec 1024) (q rix : Nat) : State :=
  match admitTest s r with
  | some code => refuse s r q rix code
  | none => accept s r q rix

/-- A record that waits for no counter, and whose class's mask is in effect, may be admitted. -/
def launchReady (s : State) (r : BitVec 1024) : Bool :=
  (recWc r).all (counterZero s) && (4 ≤ recLclass r || tget 0 s.dev.resv (recLclass r) == winGet s (0x300000 + 0x10 * recLclass r))

/-- Queues with due records are read. -/
def kickQueues (s : State) : State :=
  (tkeys s.dev.tail).foldl (fun s q => if qEn s q && qDue s q ≠ 0 then s.wireOnce (.launchRecordRead q) else s) s
/-- Pending launches that have become ready go to admission, in ascending queue number, then in ring order; queues that the full pool stopped are read
again. -/
def examine (s : State) : Nat → State
  | 0 => s
  | n + 1 =>
    match minBy (fun (a b : PendLaunch) => a.queue < b.queue || (a.queue == b.queue && a.order < b.order))
      (s.dev.pending.filter fun p => launchReady s p.record) with
    | none => s
    | some p =>
      let s := { s with dev := { s.dev with pending := s.dev.pending.erase p } }
      let s := admitLaunch s p.record p.queue p.rix.toNat
      examine (kickQueues s) n
/-- The same for every pending launch. -/
def examineAll (s : State) : State := examine s (s.dev.pending.length + 1)

/-! ### The queue watcher -/

/-- Some launch pending, or accepted and incomplete, names a ring. -/
def namesRing (s : State) (q ring : Nat) : Bool :=
  s.dev.pending.any (fun p => p.queue == q && recCrq p.record == ring) ||
  s.launches.any fun e => !e.2.done && e.2.queue == q && recCrq e.2.record == ring
/-- A full completion buffer stops the reading of a queue (R390). -/
def readStopped (s : State) (q : Nat) : Bool :=
  (dedup (s.dev.waiting.map (·.ring))).any fun ring => 64 ≤ ringWaiting s ring && namesRing s q ring
/-- The part runs launches (22 R479). -/
def powered (s : State) : Bool := s.dev.power == .active || s.dev.power == .idle

/-- A unit's access is over; one that was answered with a fault is dropped, and the agent is told (R44). -/
def unitDone (s : State) (x : Nat × EngAcc) : State :=
  let s := dropEng s x.1
  if x.2.err.isSome then dbgEvt s 3 else s
/-- The line that holds a queue's tail. -/
def tailLine (s : State) (q : Nat) : Nat := bits (winNat s (qOfs q + 8)) 51 6 * 64
/-- The watcher forgets a disabled queue, with its reads on their way. -/
def dropQueue (s : State) (q : Nat) : State :=
  { s with dev := { s.dev with
      tail := tdel s.dev.tail q, reread := s.dev.reread.filter (· ≠ q)
      engs := s.dev.engs.filter fun e => !(e.2.cont == .tailLineReread q || e.2.cont == .launchRecordRead q) } }
/-- The watcher reads a queue's tail line, again after each write to it. -/
def evTailLineReread (q : Nat) (s : State) : State :=
  let start (s : State) : State :=
    let s := { s with dev := { s.dev with reread := s.dev.reread.filter (· ≠ q) } }
    if !qEn s q || !powered s then s
    else
      let (id, s) := s.fresh
      engBegin s id (unitAccess false (readSegs (tailLine s q) 64) (.tailLineReread q))
  match unitEng s (.tailLineReread q) with
  | none => start s
  | some x =>
    if !x.2.finished then s
    else
      let s := unitDone s x
      let s := if x.2.err.isSome || !qEn s q then s
        else { s with dev := { s.dev with tail := tput s.dev.tail q (leNat ((x.2.read (tailLine s q) 2).bytes)) } }
      let s := if (tfind s.dev.tail q).isNone || qDue s q == 0 then s else s.wireOnce (.launchRecordRead q)
      if s.dev.reread.contains q then start s else s

/-- The slot of the next due record. -/
def launchSlot (s : State) (q : Nat) : Nat := bits (winNat s (qOfs q)) 51 7 * 128 + 128 * (qHead s q % 2 ^ qRlog s q)
/-- A record that has been read is refused, pends, or goes to admission (R379). -/
def takeRecord (s : State) (q : Nat) (r : BitVec 1024) : State :=
  let rix := qHead s q
  let s := winField s (qOfs q + 0x20) 15 0 ((rix + 1) % 65536)
  let s := { s with dev := { s.dev with power := .active, reads := s.dev.reads + 1 } }
  let s :=
    if recBad r then refuse s r q rix 1
    else if recBadCtx s r q then refuse s r q rix 2
    else if !launchReady s r then
      { s with dev := { s.dev with pending := s.dev.pending ++
        [{ record := r, queue := q, rix := BitVec.ofNat 16 rix, order := s.dev.reads }] } }
    else admitLaunch s r q rix
  let s := examineAll s
  if qDue s q == 0 then s else s.wireOnce (.launchRecordRead q)
/-- The next due record of a queue is read, by one read of its 128 bytes (R379). -/
def evLaunchRecordRead (q : Nat) (s : State) : State :=
  match unitEng s (.launchRecordRead q) with
  | some x =>
    if !x.2.finished then s
    else if x.2.err.isSome || !qEn s q then unitDone s x
    else takeRecord (unitDone s x) q (BitVec.ofNat 1024 (leNat (x.2.read (launchSlot s q) 128).bytes))
  | none =>
  if !qEn s q || !powered s || qDue s q == 0 || (tfind s.dev.tail q).isNone then s
  else if 2 ^ qRlog s q < qDue s q then
    let s := dropQueue (winField s (qOfs q + 0x18) 63 63 0) q
    deliver s q (complRecord 0 3 5 0xFFFFFF 0 0x80000000 0 (qHead s q) q) []
  else if 256 ≤ s.dev.pending.length || 16 ≤ (s.dev.pending.filter fun p => p.queue == q).length || readStopped s q then s
  else
    let (id, s) := s.fresh
    engBegin s id (unitAccess false (readSegs (launchSlot s q) 128) (.launchRecordRead q))

/-! ### Placement (R386) -/

/-- The effective priority of a launch while it waits for room. -/
def launchPrio (s : State) (la : Launch) : Nat := max (recPrioQ s la.record la.queue) (inheritedOf s la.record)
/-- A best-effort launch with grid barriers waits for room, and holds this one back. -/
def heldBack (s : State) (la : Launch) : Bool :=
  recLclass la.record == 7 && s.launches.any fun e =>
    let x := e.2
    !x.done && recLclass x.record == 7 && recNgbar x.record ≠ 0 && x.nextBlock == 0 && x.order < la.order &&
      launchPrio s la ≤ launchPrio s x

/-- Places one block of a launch on a core: its allocations, zeroed, and its groups. -/
def placeBlock (s : State) (l b core : Nat) : State :=
  let r := (s.launch l).record
  let sp := roundUp (recScratch r) 4096
  let here := s.blocks.filter fun e => !e.2.ended && e.2.core == core
  let base := findGap 0 sp (here.map fun e => (e.2.spBase, e.2.spSize)) (here.length + 1)
  let usedT := here.flatMap fun e => e.2.tiles
  let usedA := (here.filter fun e => recCtx (s.launch e.2.launch).record == recCtx r).flatMap fun e => e.2.accs
  let tiles := ((List.range 64).filter fun t => !usedT.contains t).take (recTiles r)
  let accs := ((List.range 768).filter fun t => !usedA.contains t).take (recAcc r)
  let (k, s) := s.fresh
  let prio := recPrioQ s r (s.launch l).queue
  let s := s.setBlock k { Block.reset with
    launch := l, num := b, core := core, stage := stageOfBlock r b, spBase := base, spSize := sp, tiles := tiles, accs := accs, base := prio
    place := if recCplace r == 0 then 0 else b / recCplace r }
  let inside (a : Nat) : Bool := base ≤ a && a < base + sp
  let s := s.modCore core fun c => { c with
    sp := c.sp.filter fun e => !inside e.1
    spUe := c.spUe.filter fun e => !inside (16 * e.1)
    shadow := c.shadow.filter fun e => !inside (16 * e.1)
    tiles := c.tiles.filter fun e => !tiles.contains e.1 }
  let s := (List.range (recGpb r)).foldl (fun s j =>
    (startGroup s { launch := l, block := k, num := b * recGpb r + j, index := j, core := core, w := recWreq r, subtree := 0, base := prio
                    pc := BitVec.ofNat 64 (recEntry r), arg := BitVec.ofNat 64 (recArg r), lanes := recWreq r }).1) s
  bindWaiters s core

/-- Places blocks of a launch in ascending number as far as they fit. -/
def placeSome (s : State) (l : Nat) : Nat → State
  | 0 => s
  | n + 1 =>
    let la := s.launch l
    let r := la.record
    if recNblk r ≤ la.nextBlock then s
    else
      let pool := poolOf s (recLclass r)
      let ld := poolLoads s pool
      match fitSet s r pool la.nextBlock ld with
      | none => s
      | some (_, cs) =>
        let s := (cs.zip (List.range cs.length)).foldl (fun s x => placeBlock s l (la.nextBlock + x.2) x.1) s
        placeSome (s.modLaunch l fun x => { x with nextBlock := la.nextBlock + cs.length }) l n

/-- Waiting blocks of a launch are placed once they fit: whole, for a best-effort launch with grid barriers. -/
def evBlockPlace (l : Nat) (s : State) : State :=
  match tfind s.launches l with
  | none => s
  | some la =>
    let r := la.record
    if la.done || recNblk r ≤ la.nextBlock || subCancelled s l 0 || heldBack s la then s
    else
      let s := if !la.hasRoom && barRoom s r && chipRoom s (chipNeed r) then takeChip s l else s
      if !(s.launch l).hasRoom then s
      else if recLclass r == 7 && recNgbar r ≠ 0 then
        let pool := poolOf s 7
        if (fitAll s r pool 0 (recNblk r) (poolLoads s pool)).isSome then placeSome s l (recNblk r) else s
      else placeSome s l (recNblk r)

/-! ### The end of a block (15 R348) -/

/-- Every launch block of stage k of a launch has ended, and no singleton block of the stage lives. -/
def stageOver (s : State) (l k : Nat) : Bool :=
  let la := s.launch l
  let lo := stageLo la.record k
  let hi := stageHi la.record k
  (la.endedBlocks.filter fun b => lo ≤ b && b < hi).length == hi - lo &&
    !s.blocks.any fun e => e.2.launch == l && !e.2.ended && e.2.stage == k

/-- Queues whose stage is over close. -/
def closeQueues (s : State) (l : Nat) : State :=
  (List.range 7).foldl (fun s k =>
    if recSqen (s.launch l).record k && !(getSq s l k).closed && stageOver s l k then
      (modSq s l k fun q => { q with closed := true }).wire (.stageQueuePush l k)
    else s) s

/-- The block's accumulator operations, copies or accesses are not yet done. -/
def blockBusy (s : State) (b : Nat) : Bool :=
  let bl := s.block b
  let core := s.core bl.core
  core.tsch.any (fun o => o.block == b) || core.bce.any (fun x => x.block == b) || core.relay.any (fun x => x.block == b) ||
  core.act.any (fun t => t.2.loads.any fun x => (s.group x.1).block == b) ||
  s.groups.any fun e => e.2.block == b && e.2.pend.any fun p => p.isAccess && spaceOf p.op ≠ some 0

/-- The end of a block: its window is withdrawn, its baton queues unbind, and its allocations are released. -/
def evBlockEnd (b : Nat) (s : State) : State :=
  match tfind s.blocks b with
  | none => s
  | some bl =>
    if bl.ended || blockLive s b then s
    else
      let c := clusterOf bl.core
      let again (s : State) : State := s.wire (.blockEnd b)
      let s := shareRevoke s b
      let bound := (s.cluster c).baton.filter fun x => x.2.bound && x.2.block == b
      if !bound.isEmpty then
        again (bound.foldl (fun s x => if x.2.closing then s else batonClose (modBaton s c x.1 fun q => { q with ncfg := none }) c x.1) s)
      else if blockBusy s b || windowBusy s b then again s
      else
        let s := shareFree s b
        let ctx := recCtx (s.launch bl.launch).record
        let s := s.modCore bl.core fun k =>
          let mine := bl.accs.filter fun p =>
            let a := tget AccSt.reset k.accSt p
            a.ownv && a.owner == ctx
          { k with
            tiles := k.tiles.filter fun e => !bl.tiles.contains e.1
            acc := k.acc.filter fun e => !mine.contains (e.1 / 1024)
            accSt := k.accSt.filter fun e => !mine.contains e.1 }
        let s := s.setBlock b { bl with ended := true, share := none }
        let s := if bl.single then s else s.modLaunch bl.launch fun l => { l with endedBlocks := l.endedBlocks ++ [bl.num] }
        let s := closeQueues s bl.launch
        let s := roomFreed s bl.core
        s.wireOnce (.launchComplete bl.launch)

/-! ### The end of a launch (R390) -/

/-- Some block of the launch is still to be placed or to end. -/
def blocksLeft (s : State) (l : Nat) : Bool :=
  (s.launch l).nextBlock < recNblk (s.launch l).record || s.blocks.any (fun e => e.2.launch == l && !e.2.ended)
/-- Some block, child, command or write of the launch is not done. -/
def launchBusy (s : State) (l : Nat) : Bool :=
  blocksLeft s l ||
  s.groups.any (fun e => e.2.launch == l && (!e.2.ended || !e.2.pend.isEmpty)) ||
  s.cores.any (fun e => e.2.spawn.any (fun x => x.launch == l) || e.2.tsch.any (fun o => o.launch == l) ||
    e.2.bce.any fun x => (s.group x.g).launch == l) ||
  s.clusters.any (fun e => e.2.cqe.any (fun x => (s.group x.g).launch == l) || e.2.storeQ.any (fun x => (s.group x.g).launch == l) ||
    e.2.hacc.queue.any fun x => (s.group x.1).launch == l) ||
  s.dev.engs.any fun e => e.2.port ≠ .phys && (s.group e.2.g).launch == l
/-- A launch has ended: its chip scratchpad and grid barriers are free, and its HACC unbinds (13 R316). -/
def launchEnds (s : State) (l : Nat) : State :=
  (s.modLaunch l fun x => { x with xAlloc := 0 }).clusters.foldl (fun s e => match e.2.hacc.bound with
    | some k => if k.1 == l then s.modCluster e.1 fun c => { c with hacc := { Hacc.reset with queue := c.hacc.queue } } else s
    | none => s) (s.modLaunch l fun x => { x with xAlloc := 0 })
/-- The record of a launch is held outside the buffer of its ring, which is full (R390). -/
def recordHeld (s : State) (la : Launch) : Bool :=
  ((s.dev.waiting.filter fun x => x.ring == recCrq la.record && x.eng.isNone).drop 64).any fun x =>
    bits x.record.toNat 15 10 == la.queue && bits x.record.toNat 31 16 == la.rix.toNat && some x.since == la.heldAt
/-- Launches whose records have entered their buffers are complete. -/
def settleHeld (s : State) : State :=
  s.launches.foldl (fun s e =>
    if e.2.done || e.2.heldAt.isNone || recordHeld s e.2 then s
    else
      let s := s.modLaunch e.1 fun x => { x with done := true }
      let s := { s with dev := { s.dev with quietSince := s.now } }
      if recLclass e.2.record < 4 then s.wire (.resvTakeEffect (recLclass e.2.record)) else s) s

/-- A finished launch: its room is released and its record made. While its ring's buffer is full the record is held, and the launch counts as
incomplete. -/
def evLaunchComplete (l : Nat) (s : State) : State :=
  match tfind s.launches l with
  | none => s
  | some la =>
    if la.done || la.heldAt.isSome || blocksLeft s l then s
    else if launchBusy s l then s.wireOnce (.launchComplete l)
    else
      let s := launchEnds s l
      let d := (Config.freeEnergy s.free).toNat
      let nrg := satAdd 64 la.nrg.toNat d
      let s := { s with free := s.free + 1 }
      let s := s.modLaunch l fun x => { x with heldAt := some s.now, nrg := BitVec.ofNat 64 nrg }
      let s := deliver s (recCrq la.record)
        (complRecord nrg la.status la.reason la.fgroup la.bestData la.bestScore (recCtag la.record) la.rix.toNat la.queue) (recSc la.record)
      replace (examineAll (settleHeld s))

/-- A completion record has been written: CTAIL passes it, and then its counters are signalled (R390). A record whose write was answered with
a fault is dropped, and its counters are not signalled (R44; log 82). Then, and with no record named, records that wait go on. -/
def evRecordDone (id : Nat) (s : State) : State :=
  match getEng s id, s.dev.waiting.find? fun x => x.eng == some id with
  | some e, some x =>
    if !e.finished then s
    else
      let s := unitDone s (id, e)
      let s := { s with dev := { s.dev with waiting := s.dev.waiting.filter fun y => y.eng ≠ some id } }
      let s := if e.err.isSome then s
        else signalAll (winField s (qOfs x.ring + 0x20) 63 48 ((qCtail s x.ring + 1) % 65536)) x.signals
      kickQueues (replace (examineAll (settleHeld (drainRings s s.dev.waiting.length))))
  | _, _ => settleHeld (drainRings s s.dev.waiting.length)

/-- A rewritten class mask takes effect once the class has no incomplete launch (R383). -/
def evResvTakeEffect (c : Nat) (s : State) : State :=
  if 4 ≤ c || classBusy s c then s
  else
    let s := { s with dev := { s.dev with resv := tput s.dev.resv c (winGet s (0x300000 + 0x10 * c)) } }
    replace (examineAll s)

/-! ### Saving and restoring (17 R410 to R412) -/

/-- Bytes of a saved record. -/
def saveBytes (s : State) (gr : Group) : Nat :=
  let r := s.recOf gr
  roundUp (4096 + 4 * recRegs r * gr.w + recLpR r * gr.w) 4096
/-- A pending register write other than a load from host or peer memory holds back the saving. -/
def savePending (gr : Group) : Bool :=
  gr.pend.any fun p => writesReg p.op p.f && !(p.op == 0x200 && p.pieces.any fun x => isHost x.pa)
/-- YIELD's wait ends. -/
def unyield (s : State) (g : Nat) : State :=
  settle (s.modGroup g fun gr => { gr.unwait (fun w => w == .yielded) with stalled := false }) g

/-- A group with a pending pre-emption, at a blocking point, is saved if the pool can hold its record; otherwise the pre-emption is withdrawn. The
record goes to the lowest free place of the pool, with bytes that the spec does not give (log 88), by writes at the L2 as agent 96 (03 R43 names
no unit for it; DESIGN CHOICE, log 108); the group is not restored before they are performed. -/
def evGroupSave (g : Nat) (s : State) : State :=
  match unitEng s (.groupSave g) with
  | some x => if x.2.finished then unitDone s x else s
  | none =>
  let gr := s.group g
  if gr.ended || gr.saved || !gr.preempt || gr.hm || gr.dfault.isSome || savePending gr || !atBlocking s g then s
  else
    let n := saveBytes s gr
    let size := bits (winNat s 0x300088) 35 12 * 4096
    let pool := bits (winNat s 0x300080) 51 12 * 4096
    let at' := findGap 0 n (s.dev.savedBytes.map (·.2)) (s.dev.savedBytes.length + 1)
    if size == 0 || size < at' + n || (frozenSub s (pool + at') n).isSome then unyield (s.modGroup g fun gr => { gr with preempt := false }) g
    else
      let s := s.modGroup g fun gr => { gr with saved := true, savedAt := s.now, woken := false, preempt := false, stalled := false }
      let s := s.modCore gr.core fun c => { c with binds := tdel c.binds g }
      let b := (List.range (n / 8)).flatMap fun i => leBytes (Config.freeValue (s.free + i)).toNat 8
      let (id, s) := ({ evCount s 0x0E (some gr.core) 1 with free := s.free + n / 8 } : State).fresh
      let s := engBegin s id (unitAccess true (writeSegs (pool + at') b []) (.groupSave g))
      let s := { s with dev := { s.dev with savedBytes := tput s.dev.savedBytes g (at', n) } }
      roomFreed s gr.core

/-- The stalled instruction of a saved run may go on. -/
def stallOver (s : State) (g : Nat) (r : Run) : Bool :=
  let gr := s.group g
  match decodeWords (r.words.drop r.ofs) with
  | .ok (i, _) => match i.parts with
    | some (0x273, f) => (lanesOf (r.lanes &&& ~~~ gr.exited)).all fun l =>
        !guardOf gr f l || (tget Fut.reset gr.fut (64 * f.a.toNat + l)).st ≠ .pending
    | some (0x279, f) => !(tget Spike.reset s.dev.spikes f.c.toNat).evs.isEmpty
    | some (0x355, f) => (issueCtx { s with cur := g } 0x355 f).any fun c => (relayAccept c s s.nextId).isSome
    | _ => true
  | .error _ => true
/-- The wake condition of an entry that stands at a run header, or at a YIELD, holds. -/
def entryWakes (s : State) (g : Nat) (e : Entry) : Bool :=
  if !e.waits.isEmpty then e.waits.all fun w => w == .yielded
  else
    let gr := s.group g
    let f := fetchFor s gr e.hdr
    f.miss.isNone && (f.bad.isSome || match resumeOfs e f.words f.h.len.toNat with
      | none => true
      | some ofs => (e.pc == e.hdr && (dueEFault s gr f.h.wait).isSome) || !runSoft s g f.h f.words (e.pc ≠ e.hdr) ofs)
/-- The wake condition of some entry holds (R410); a group stopped for the debug agent stands at HALT until it is resumed. -/
def wakeOk (s : State) (g : Nat) : Bool :=
  let gr := s.group g
  !gr.stopReq && (gr.woken || match gr.run with
  | some r => stallOver s g r
  | none => gr.entries.any (entryWakes s g))

/-- The widest physical binding of a restored group (11 R252). -/
def restoreBind (s : State) (g : Nat) : Option (Nat × List Nat × Nat × Nat) :=
  let gr := s.group g
  let regs := s.regsOf gr
  let lp := recLpR (s.recOf gr)
  (List.range (gr.w / 4)).findSome? fun i =>
    let phys := gr.w - 4 * i
    (bindAt s gr.core g gr.w phys regs lp).map fun b => (phys, b)
/-- A saved group is restored, once its record is written; its run takes an issue slot of the core. -/
def restoreGroup (s : State) (g : Nat) : Option State :=
  match (if (unitEng s (.groupSave g)).isSome then none else restoreBind s g) with
  | none => none
  | some (phys, b) =>
    let core := (s.group g).core
    let s := s.modGroup g fun gr => { gr with
      saved := false, woken := false, run := gr.run.map fun r => { r with slot := freeIssueSlot s core, won := nextWon s core } }
    let s := { s with dev := { s.dev with savedBytes := tdel s.dev.savedBytes g } }
    some (unyield (setBind s g (s.group g).core phys b) g)
/-- The saved group that its core restores first. -/
def firstSaved (s : State) (core : Nat) : Option Nat :=
  (minBy (fun (a b : Nat × Group) =>
      let pa := effPrio s a.2
      let pb := effPrio s b.2
      if pa ≠ pb then pb < pa else a.2.savedAt < b.2.savedAt)
    (s.groups.filter fun e => e.2.saved && !e.2.ended && e.2.core == core && wakeOk s e.1)).map (·.1)

/-- A saved group whose wake condition holds is restored, in the order of R412. -/
def evGroupRestore (g : Nat) (s : State) : State :=
  let gr := s.group g
  if !gr.saved || gr.ended || !(firstSaved s gr.core == some g) || (gr.run.isSome && 4 ≤ slotsBusy s gr.core) then s
  else match restoreGroup s g with
    | some s => s
    | none => preemptFor s gr.core gr.w (s.regsOf gr) (recLpR (s.recOf gr)) (effPrio s gr)

/-- The time slice of a core expires (17 R411). -/
def evTsliceExpiry (core : Nat) (s : State) : State :=
  let ts := winNat s 0x300090 % 2 ^ 32
  if ts == 0 || s.now < (s.core core).sliceAt + ts then s
  else
    let s := s.modCore core fun c => { c with sliceAt := s.now }
    match minBy (fun (a b : Nat × Group) => a.2.residentAt < b.2.residentAt) (boundOn s core) with
    | none => s
    | some x =>
      let ctx := s.ctxOf x.2
      if s.groups.any fun e => (e.2.saved && !e.2.ended && e.2.core == core && s.ctxOf e.2 ≠ ctx && wakeOk s e.1 : Bool) then
        (boundOn s core).foldl (fun s e =>
          if s.ctxOf e.2 == ctx then (s.modGroup e.1 fun gr => { gr with preempt := true }).wireOnce (.groupSave e.1) else s) s
      else s

/-- An eligible group that has not issued for 4096 aclk, and again for each further 4096, rises by one level (R387). -/
def evPriorityAging (g : Nat) (s : State) : State :=
  let gr := s.group g
  if gr.ended || gr.saved || gr.run.isSome || (tfind (s.core gr.core).binds g).isNone || (pickEntry s g).isNone || aclkOf s (s.now - gr.lastIssue) < 4096 * (gr.aging + 1) then s
  else s.modGroup g fun gr => { gr with aging := gr.aging + 1 }

/-- A pending register write that a WATCHDOG waits for (17 R405): all but that of a QPOP, whose records may never come (log 81). -/
def watchdogPends (gr : Group) : Bool :=
  gr.pend.any fun p => p.op ≠ 0x34B && (p.entry &&& gr.live) ≠ 0 && writesReg p.op p.f
/-- The time since which a group has been ineligible, or its run in progress has stood at an instruction that waits. -/
def idleFrom (s : State) (gr : Group) : Nat :=
  match gr.run with
  | some _ => gr.stoodAt.getD s.now
  | none => gr.idleSince
/-- Where a group's live lanes are: PC and run header of each. -/
def lanesAt (gr : Group) : Sp (DWord × DWord) :=
  let t := gr.entries.foldl (fun t e => (lanesOf e.mask).foldl (fun t l => tput t l (e.pc, e.hdr)) t) []
  let t := gr.held.foldl (fun t x => tput t x.lane (x.pc, x.hdr)) t
  match gr.run with
  | some r => (lanesOf (r.lanes &&& ~~~ gr.exited)).foldl (fun t l => tput t l (r.pc + BitVec.ofNat 64 (4 + 4 * r.ofs), r.pc)) t
  | none => t

/-- The group is about to go on: an entry can be taken, or its deferred fault, which waits for nothing more. -/
def goesOn (s : State) (g : Nat) : Bool :=
  let gr := s.group g
  gr.run.isNone && match gr.dfault with
    | some d => !gr.regPending d.lanes
    | none => (pickEntry s g).isSome
/-- A push of an ended group has found no room for WDOG ns: nothing else may end its wait (00 R3; DESIGN CHOICE, log 107). -/
def pushStarved (s : State) (gr : Group) : Bool :=
  let wd := winNat s 0x300040 % 2 ^ 48
  gr.ended && wd ≠ 0 && gr.idleSince + wd ≤ s.now && gr.pend.any fun p => p.op == 0x34A

/-- A group each of whose entries has been ineligible for WDOG ns, or whose run has stood so long, takes WATCHDOG (R395, 00 R3); a saved one asks for
room first. Waits that its lanes hold come back with them at ERET, and a deferred fault that waits for a register is taken after that. -/
def evGroupWatchdog (g : Nat) (s : State) : State :=
  let gr := s.group g
  let wd := winNat s 0x300040 % 2 ^ 48
  if pushStarved s gr then
    let s := faultRecord s gr.core gr.num gr.seq.toNat 0 21 0 true
    dropPushes (dbgEvt (causeTrigger (launchFault s gr.launch 21 gr.num) 21) 3) g
  else if gr.ended || wd == 0 || gr.stopReq || s.now < idleFrom s gr + wd || goesOn s g || watchdogPends gr || gr.live == 0 then s
  else
    match (if gr.saved then restoreGroup s g else some s) with
    | none => preemptFor s gr.core gr.w (s.regsOf gr) (recLpR (s.recOf gr)) (effPrio s gr)
    | some s =>
      let gr := s.group g
      let at' := lanesAt gr
      let lanes := gr.live
      let waits := (gr.entries.flatMap fun e => e.waits.map fun w => (w, e.mask)) ++
        gr.held.flatMap fun x => x.waits.map fun w => (w, oneLane x.lane)
      let s := s.modGroup g fun gr =>
        { gr with
          idleSince := s.now, dfault := none, dlater := gr.dfault.toList ++ gr.dlater
          owed := if waits.isEmpty then gr.owed
            else gr.owed ++ [{ hdr := (gr.run.map (·.pc)).getD 0, waits := waits, retire := 0, yield := false }] }
      takeTrap s g {
        lanes := lanes, active := lanes, ipc := (tget (0, 0) at' ((lanesOf lanes).headD 0)).1, kind := 3
        causes := onLanes lanes 21 0
        resume := at'.map fun e => (e.1, e.2.1)
        hdr := at'.map fun e => (e.1, e.2.2)
        efault := none
        runPc := (gr.run.map (·.pc)).getD 0
        stand := (match gr.run with
          | some r => if r.issued then countedFrom r.pc r.h (r.words.drop r.ofs) r.ofs r.left else []
          | none => [])
        atile := none }

def execTailLineReread (q : Nat) (s : State) : Host.Outcome State Fault Refusal := .next (evTailLineReread q s)
def execLaunchRecordRead (q : Nat) (s : State) : Host.Outcome State Fault Refusal := .next (evLaunchRecordRead q s)
def execBlockPlace (l : Nat) (s : State) : Host.Outcome State Fault Refusal := .next (evBlockPlace l s)
def execBlockEnd (b : Nat) (s : State) : Host.Outcome State Fault Refusal := .next (evBlockEnd b s)
def execLaunchComplete (l : Nat) (s : State) : Host.Outcome State Fault Refusal := .next (evLaunchComplete l s)
def execResvTakeEffect (c : Nat) (s : State) : Host.Outcome State Fault Refusal := .next (evResvTakeEffect c s)
def execGroupSave (g : Nat) (s : State) : Host.Outcome State Fault Refusal := .next (evGroupSave g s)
def execGroupRestore (g : Nat) (s : State) : Host.Outcome State Fault Refusal := .next (evGroupRestore g s)
def execTsliceExpiry (core : Nat) (s : State) : Host.Outcome State Fault Refusal := .next (evTsliceExpiry core s)
def execPriorityAging (g : Nat) (s : State) : Host.Outcome State Fault Refusal := .next (evPriorityAging g s)
def execGroupWatchdog (g : Nat) (s : State) : Host.Outcome State Fault Refusal := .next (evGroupWatchdog g s)

end Sys2Proof.Machine
end

