-- ==== Sys2Proof/Machine/Host.lean ====
section
/-!
DEFINITION. The outside world (22): the register window written by the host or through UC mappings, host commands, CSI-2 ports, I3C,
boot and resets, soft errors, power; and the debug agent's stop and resume (18 R428).
-/

namespace Sys2Proof.Machine

open Sys2Proof

/-! ### The window by its access rules (00 R6) -/

/-- The bits of x that the mask of a register's writable fields takes from v. -/
def maskIn (old v mask : Nat) : Nat := (v &&& mask) + (old - (old &&& mask))
/-- A register whose fields `mask` are RW and the rest read-only or reserved. -/
def storeRw (s : State) (ofs v mask : Nat) : State := winSet s ofs (maskIn (winNat s ofs) v mask)
/-- In RECOVERY, CXL.io presents configuration space only (22 R476). -/
def windowed (s : State) (f : State → State) : State := if s.dev.power == .recovery then s else f s
/-- The mask of bits [hi:lo]. -/
def fieldMask (hi lo : Nat) : Nat := 2 ^ (hi + 1) - 2 ^ lo

/-! ### Power (22 R479) -/

/-- No Casvon queue is enabled. -/
def noQueue (s : State) : Bool := (List.range 64).all fun q => !qEn s q
/-- No launch is accepted, and none pending. -/
def noLaunch (s : State) : Bool := !anyLaunch s && s.dev.pending.isEmpty
/-- RETAIN is entered: RECOV bit 1 is set, no queue is enabled and nothing runs. -/
def tryRetain (s : State) : State :=
  if powered s && s.dev.recov.getLsbD 1 && noQueue s && noLaunch s then { s with dev := { s.dev with power := .retain } } else s

/-- 50 µs after RECOV bit 1 clears, the part leaves RETAIN; its queue watcher reads the lines of enabled queues. -/
def evRetainExit (s : State) : State :=
  if s.dev.power == .retain && !s.dev.recov.getLsbD 1 && s.dev.quietSince + 50000 ≤ s.now then
    ((List.range 64).filter (qEn s)).foldl (fun s q => s.wireOnce (.tailLineReread q)) { s with dev := { s.dev with power := .idle } }
  else s

/-- IDLE is entered after 100 µs without a launch. -/
def evIdleEntry (s : State) : State :=
  if s.dev.power == .active && noLaunch s && s.dev.quietSince + 100000 ≤ s.now then { s with dev := { s.dev with power := .idle } } else s

/-- THROT: held by PLIM, held by temperature, at the floor clock (22 R474). -/
def throttle (d : Device) : Device :=
  { d with throt := BitVec.ofNat 16 ((if 8 * d.plim.toNat < d.pwr.toNat then 1 else 0) + (if 760 < d.tj.toInt then 2 else 0) +
      (if d.aclk ≤ 36 then 4 else 0)) }
/-- The governor steps the clock by 25 MHz between 0.9 and 1.2 GHz: up only while power and temperature allow it. -/
def evGovernorStep (up : Bool) (tj pwr : BitVec 16) (s : State) : State :=
  let d := { s.dev with tj := tj, pwr := pwr }
  if d.power ≠ .active then { s with dev := d }
  else
    let ok : Bool := pwr.toNat ≤ 8 * d.plim.toNat && tj.toInt ≤ 760
    let a := if up then (if ok then min 48 (d.aclk + 1) else d.aclk) else max 36 (d.aclk - 1)
    { s with dev := throttle { d with aclk := a } }

/-- A junction at 105 °C sets ALERT bit 0. -/
def evThermalAlert (tj : BitVec 16) (s : State) : State :=
  let s := { s with dev := { s.dev with tj := tj } }
  if 840 ≤ tj.toInt then alertSet s 0 else s

/-! ### Boot and resets (22 R476) -/

/-- THE MACHINE AFTER A RESET: everything as after power-on but memory, flash and what lies outside; the boot ROM has verified the
stored image, and a failure, or RECOV bit 0, leaves the part in RECOVERY. -/
def evReset (img : BootImage) (s : State) : State :=
  let ok : Bool := img.magicOk && img.sigOk && Config.minver.toNat ≤ img.version.toNat
  let d := { Device.reset with
    agent := s.dev.agent, flash := s.dev.flash, version := img.version, tj := s.dev.tj, pwr := s.dev.pwr,
    power := if ok && !s.dev.recov.getLsbD 0 then .active else .recovery }
  let s' := { State.reset with mem := s.mem, memUe := s.memUe, dev := d, agenda := s.agenda, free := s.free }
  if ok then s' else alertSet s' 2

/-- RESET 0x5A01. -/
def evI3cWarmReset (img : BootImage) (s : State) : State := evReset img s
/-- RESET 0x5A02. -/
def evI3cColdReset (img : BootImage) (s : State) : State := evReset img s
/-- A junction at 115 °C resets the part. -/
def evThermalReset (tj : BitVec 16) (img : BootImage) (s : State) : State :=
  let s := { s with dev := { s.dev with tj := tj } }
  if 920 ≤ tj.toInt then evReset img s else s

/-- Bytes [o, o + n) of an image, little-endian. -/
def imgNat (b : List Byte) (o n : Nat) : Nat := leNat ((b.drop o).take n)
/-- Step 1: magic, a body of the stated length, and zeros after the signature. -/
def imgHeaderOk (b : List Byte) : Bool :=
  imgNat b 0 2 == 0x4B52 && b.length == 256 + imgNat b 8 8 && ((b.drop 0x94).take (0x100 - 0x94)).all (· == 0) && b.length ≤ 2 ^ 24
/-- A burst streams an image; the last one has it verified, and a good one replaces the stored one. -/
def evRdata (bytes : List (BitVec 8)) (last sigOk : Bool) (s : State) : State :=
  if s.dev.power ≠ .recovery then s
  else
    let b := s.dev.image ++ bytes
    if !last then { s with dev := { s.dev with image := b, rstat := 1 } }
    else if !(sigOk && imgHeaderOk b) then { s with dev := { s.dev with image := [], rstat := 3 } }
    else if imgNat b 4 4 < Config.minver.toNat then { s with dev := { s.dev with image := [], rstat := 4 } }
    else { s with dev := { s.dev with image := [], rstat := 2, flash := b, version := BitVec.ofNat 32 (imgNat b 4 4) } }

/-! ### The I3C target (22 R474) -/

/-- PLIM, clamped to 180 to 320. -/
def evI3cPlimWrite (v : BitVec 16) (s : State) : State :=
  { s with dev := { s.dev with plim := BitVec.ofNat 16 (min 320 (max 180 v.toNat)) } }
/-- RECOV. -/
def evI3cRecovWrite (v : BitVec 16) (s : State) : State :=
  let left : Bool := s.dev.power == .retain && s.dev.recov.getLsbD 1 && !v.getLsbD 1
  tryRetain { s with dev := { s.dev with recov := v &&& 3, quietSince := if left then s.now else s.dev.quietSince } }
/-- ALERT is W1C. -/
def evAlertClear (v : BitVec 16) (s : State) : State := { s with dev := { s.dev with alert := s.dev.alert &&& ~~~ v } }
/-- The target answers at its dynamic address from now on. -/
def evDynamicAddressAssign (a : BitVec 7) (s : State) : State := { s with dev := { s.dev with dyn := some a } }

/-! ### Queues, counters, classes, save pool, contexts -/

/-- Waiting completion records, launches that a full ring holds, pending launches and due records go on. -/
def resumeLaunches (s : State) : State :=
  let s := drainRings s (s.dev.waiting.length + 1)
  let s := settleHeld (s.launches.foldl (fun s e => if e.2.done || blocksLeft s e.1 then s else s.wireOnce (.launchComplete e.1)) s)
  kickQueues (examineAll s)
/-- A base names neither the window nor a reserved region. -/
def baseOk (pa : Nat) : Bool := !isReserved pa && !isWindow pa

/-- QCFG (16 R377). -/
def evQcfgWrite (q : Nat) (v : BitVec 64) (s : State) : State := windowed s fun s =>
  let o := qOfs q + 0x18
  let x := v.toNat
  if qEn s q then
    let s := winField s o 62 60 (bits x 62 60)
    if bitOf x 63 then s
    else
      tryRetain (dropQueue (winField s o 63 63 0) q)
  else
    let s := storeRw s o x (fieldMask 62 36)
    if bitOf x 63 && baseOk (bits (winNat s (qOfs q)) 51 7 * 128) && baseOk (bits (winNat s (qOfs q + 8)) 51 6 * 64) &&
        baseOk (bits (winNat s (qOfs q + 0x10)) 51 5 * 32) && qRlog s q ≠ 0 && qClog s q ≠ 0 then
      evTailLineReread q (resumeLaunches (winSet (winField s o 63 63 1) (qOfs q + 0x20) 0))
    else s

/-- QPTR: CHEAD is written, and records that wait enter the ring. -/
def evQptrWrite (q : Nat) (v : BitVec 64) (s : State) : State := windowed s fun s =>
  resumeLaunches (winField s (qOfs q + 0x20) 47 32 (bits v.toNat 47 32))

/-- A launch counter (16 R382): VALUE is stored, UNDER clears on 1. -/
def evLaunchCounterWrite (c : Nat) (v : BitVec 64) (s : State) : State := windowed s fun s =>
  let o := 0x200000 + 8 * c
  let under := bits (winNat s o) 16 16
  let keep := if bitOf v.toNat 16 then 0 else under
  resumeLaunches (winSet s o (keep * 2 ^ 16 + bits v.toNat 15 0))

/-- RESV (16 R383). -/
def evResvWrite (c : Nat) (v : BitVec 64) (s : State) : State := windowed s fun s =>
  (winSet s (0x300000 + 0x10 * c) v.toNat).wireOnce (.resvTakeEffect c)
/-- MINDL: a write below 4,000 stores 4,000. -/
def evMindlWrite (c : Nat) (v : BitVec 64) (s : State) : State := windowed s fun s =>
  winSet s (0x300008 + 0x10 * c) (max 4000 (bits v.toNat 31 0))

/-- SAVEBASE and SAVESIZE (17 R413), ignored while a group is saved. -/
def evSavePoolWrite (ofs : Nat) (v : BitVec 64) (s : State) : State := windowed s fun s =>
  if s.groups.any fun e => e.2.saved && !e.2.ended then s
  else if ofs == 0x300080 then storeRw s ofs v.toNat (fieldMask 51 12)
  else if ofs == 0x300088 then storeRw s ofs v.toNat (fieldMask 35 12)
  else s

/-- The context table (17 R414): ignored while the context has an accepted, incomplete launch, but for TVEC. -/
def evContextTableWrite (asid dw : Nat) (v : BitVec 64) (s : State) : State := windowed s fun s =>
  let used : Bool := s.launches.any fun e => !e.2.done && recCtx e.2.record == asid
  if 2 ^ 16 ≤ asid || (used && dw ≠ 1) then s
  else match dw with
    | 0 => winSet s (ctxOfs asid 0) (v.toNat &&& fieldMask 51 11)
    | 1 => winSet s (ctxOfs asid 1) (v.toNat &&& tvecMask)
    | 2 => winSet s (ctxOfs asid 2) (v.toNat &&& tfbaseMask)
    | 3 => winSet s (ctxOfs asid 3) (v.toNat &&& fieldMask 63 61)
    | _ => s

/-! ### CSI-2 receive ports (22 R470 to R472) -/

def rxOfs (p : Nat) : Nat := 0x500000 + 0x40 * p
def rxEn (s : State) (p : Nat) : Bool := bitOf (rxcfg s p) 63
def rxNlog (s : State) (p : Nat) : Nat := bits (winNat s (rxOfs p + 8)) 55 52
def rxFsz (s : State) (p : Nat) : Nat := bits (winNat s (rxOfs p + 8)) 63 56 * 0x10000
def rxWix (s : State) (p : Nat) : Nat := bits (winNat s (rxOfs p + 0x20)) 63 48
def rxPort (s : State) (p : Nat) : RxPort := tget RxPort.reset s.dev.rx p
def modRx (s : State) (p : Nat) (f : RxPort → RxPort) : State := { s with dev := { s.dev with rx := tmod RxPort.reset s.dev.rx p f } }
/-- Changes the open frame. -/
def modFrame (s : State) (p : Nat) (f : RxFrame → RxFrame) : State := modRx s p fun x => { x with frame := x.frame.map f }
/-- First byte of a slot. -/
def slotPa (s : State) (p slot : Nat) : Nat := bits (winNat s (rxOfs p + 8)) 51 12 * 4096 + rxFsz s p * slot

/-- CSPCFG (22 R470): ignored while a launch, an event port or the trace uses the layout; a write that takes effect empties the spike
queues. -/
def evCspcfgWrite (v : BitVec 64) (s : State) : State := windowed s fun s =>
  let tr := winNat s 0x400000
  if anyLaunch s || (bitOf tr 63 && !bitOf tr 62) || ((List.range 16).any fun p => rxEn s p && bitOf (rxcfg s p) 59) then s
  else
    let s := winSet s 0x520040 (min 8 (bits v.toNat 19 16) * 2 ^ 16 + bits v.toNat 15 0)
    { s with dev := { s.dev with spikes := s.dev.spikes.map fun e => (e.1, { e.2 with evs := [], times := [] }) } }

/-- A write into a frozen range is dropped, counted and reported, with cause ENGINE_FAULT, CSI_DROP (03 R61, 17 R397). -/
def rxDrop (s : State) (p : Nat) : State :=
  dbgEvt (leuth (winCount s (rxOfs p + 0x20) 15 0) 4 6 (256 * 6 + 18) 0 0 0 0 true false) 5
/-- Adjacent parts of a frame are one. -/
def joinParts : List (Nat × Nat) → List (Nat × Nat)
  | [] => []
  | x :: r => match joinParts r with
    | [] => [x]
    | y :: t => if x.1 + x.2 == y.1 && frameOf x.1 == frameOf y.1 then (x.1, x.2 + y.2) :: t else x :: y :: t
/-- A write of a port, from pa up, goes to the L2 as agent 96 + p (03 R43), higher addresses first, so that DONE is written last, but for the
sectors that are frozen at the port, each a write that is dropped; the answer is the bytes sent, whether some were dropped, and the key of the
access. -/
def rxSend (s : State) (p pa : Nat) (b : List Byte) : State × Nat × Bool × Nat :=
  let parts := splitAt 16 pa b.length (b.length / 16 + 2)
  let ok := parts.filter fun x => (frozenSub s x.1 x.2).isNone
  let segs := (joinParts ok).reverse.flatMap fun x => writeSegs x.1 ((b.drop (x.1 - pa)).take x.2) []
  let s := (List.range (parts.length - ok.length)).foldl (fun s _ => rxDrop s p) s
  let (id, s) := s.fresh
  (engBegin s id (unitAccess true segs (.rxDone p id) (96 + p)), ok.foldl (fun n x => n + x.2) 0, ok.length < parts.length, id)
/-- Payload goes to memory. -/
def rxWrite (s : State) (p pa : Nat) (b : List Byte) : State :=
  if b.isEmpty then s
  else
    let (s, n, dropped, id) := rxSend s p pa b
    modFrame s p fun f => { f with wrote := f.wrote + n, frz := f.frz || dropped, outs := id :: f.outs }

/-- The header of a frame (22 R472). -/
def rxHeader (f : RxFrame) (dt now : Nat) : Nat :=
  f.fseq.toNat + 2 ^ 64 + (if f.trunc then 2 ^ 66 else 0) + (if f.err then 2 ^ 67 else 0) + (if f.frz then 2 ^ 68 else 0) +
  f.vc % 16 * 2 ^ 70 + dt % 64 * 2 ^ 74 + f.fnum.toNat * 2 ^ 80 + f.wrote % 2 ^ 32 * 2 ^ 96 + f.tsof.toNat * 2 ^ 128 + now * 2 ^ 192
/-- Frames that have ended go on in order: once a frame's payload is performed its header is written, and once that is, WIX rises and the
counter of a frame that ended as it should is decremented. -/
def rxGo (s : State) (p : Nat) : Nat → State
  | 0 => s
  | n + 1 =>
    match (rxPort s p).ended with
    | [] => s
    | f :: rest =>
      if !f.outs.isEmpty then s
      else if f.hdr then
        let s := winField s (rxOfs p + 0x20) 63 48 ((rxWix s p + 1) % 65536)
        let s := modRx s p fun x => { x with ended := rest }
        rxGo (if f.counts && bitOf (rxcfg s p) 48 then resumeLaunches (decLaunchCounter s (bits (rxcfg s p) 47 40)) else s) p n
      else
        let (dt, s) := match f.dt with
          | some d => (d, s)
          | none => ((Config.freeValue s.free).toNat, { s with free := s.free + 1 })
        let (s, _, _, id) := rxSend s p (slotPa s p f.slot) (leBytes (rxHeader f dt f.teof.toNat) 64)
        modRx s p fun x => { x with ended := { f with hdr := true, outs := [id] } :: rest }
/-- The open frame ends. -/
def rxClose (s : State) (p : Nat) (trunc : Bool) : State :=
  match (rxPort s p).frame with
  | none => s
  | some f =>
    let f := { f with trunc := f.trunc || trunc, teof := s.time, counts := !trunc }
    rxGo (modRx s p fun x => { x with frame := none, ended := x.ended ++ [f] }) p 1
/-- A write of a port is answered; one that the L2 has retired is dropped (03 R44). -/
def evRxDone (p id : Nat) (s : State) : State :=
  match getEng s id with
  | none => s
  | some e =>
    if !e.finished then s
    else
      let upd (f : RxFrame) : RxFrame :=
        if f.outs.contains id then { f with outs := f.outs.erase id, frz := f.frz || e.err.isSome } else f
      let s := unitDone s (id, e)
      let s := if e.err.isSome then winCount s (rxOfs p + 0x20) 15 0 else s
      let s := modRx s p fun x => { x with frame := x.frame.map upd, ended := x.ended.map upd }
      rxGo s p (2 * (rxPort s p).ended.length + 1)

/-- RXCFG (22 R471). -/
def evRxcfgWrite (p : Nat) (v : BitVec 64) (s : State) : State := windowed s fun s =>
  let x := v.toNat
  if rxEn s p then if bitOf x 63 then s else winField (rxClose s p true) (rxOfs p) 63 63 0
  else
    let s := storeRw s (rxOfs p) x (fieldMask 62 24)
    if !bitOf x 63 || bits x 61 60 == 3 || rxNlog s p == 0 || 12 < rxNlog s p || rxFsz s p == 0 ||
        (bitOf x 59 && !bitOf (winNat s 0x520040) p) then s
    else
      let s := winSet (winField s (rxOfs p) 63 63 1) (rxOfs p + 0x20) 0
      modSpk (modRx s p fun _ => { frame := none, ended := [], fseq := 0, enAt := s.time }) p fun k =>
        { k with first := k.evs.isEmpty, lastT := s.time }

/-- A frame start. Frames that have ended and wait for their header count as if WIX had passed them (log 84). -/
def evCsiFrameStart (p vc : Nat) (fnum : BitVec 16) (s : State) : State :=
  if !rxEn s p || !powered s || bits (rxcfg s p) 52 49 ≠ vc then s
  else
    let s := rxClose s p true
    let cix := bits (winNat s (rxOfs p + 0x18)) 15 0
    let s := modRx s p fun x => { x with fseq := x.fseq + 1 }
    let wix := rxWix s p + (rxPort s p).ended.length
    if (wix + 65536 - cix) % 65536 == 2 ^ rxNlog s p then winCount s (rxOfs p + 0x20) 47 32
    else
      let f : RxFrame :=
        { slot := wix % 65536 % 2 ^ rxNlog s p, bytes := 0, wrote := 0, fnum := fnum, tsof := s.time, dt := none, vc := vc, frz := false,
          err := false, trunc := false, fseq := (rxPort s p).fseq, outs := [], teof := 0, hdr := false, counts := false }
      modRx s p fun x => { x with frame := some f }

/-- The 64-bit little-endian records of a packet. -/
def eventRecords : List Byte → List Nat
  | a :: b :: c :: d :: e :: f :: g :: h :: r => leNat [a, b, c, d, e, f, g, h] :: eventRecords r
  | _ => []
/-- One record of an event packet (13 R319, R320). -/
def spkRecord (q : Nat) (s : State) (x : Nat) : State :=
  let k := getSpk s q
  let drop (k : Spike) : Spike := { k with drops := satAdd 15 k.drops 1 }
  match bits x 63 60 with
  | 1 => modSpk s q fun k => { k with tb := BitVec.ofNat 64 (bits x 59 0) }
  | 2 =>
    if 65536 ≤ k.evs.length then modSpk s q drop
    else
      let t := k.tb + BitVec.ofNat 64 (bits x 55 32) + winGet s (rxOfs q + 0x10)
      let back : Bool := k.prevT.any fun u => t.toNat < u.toNat
      let t := if back then k.prevT.getD t else t
      let from_ := if k.first then (rxPort s q).enAt else k.prevT.getD (rxPort s q).enAt
      let early : Bool := t.toNat < from_.toNat
      let dt := if early then (Config.freeValue s.free).toNat % 2 ^ 35 else min (2 ^ 35 - 1) (t - from_).toNat
      let ev := BitVec.ofNat 64 (dt * 2 ^ 29 + q % 16 * 2 ^ 25 + bits x 24 0)
      let s := if early then { s with free := s.free + 1 } else s
      modSpk s q fun k => { k with
        evs := k.evs ++ [ev], times := k.times ++ [t], prevT := some t, first := false, reord := if back then satAdd 16 k.reord 1 else k.reord }
  | _ => modSpk s q drop

/-- A long packet: events, or payload of the open frame. -/
def evCsiLongPacket (p vc dt : Nat) (bad : Bool) (bytes : List (BitVec 8)) (s : State) : State :=
  if !rxEn s p || !powered s || bits (rxcfg s p) 52 49 ≠ vc then s
  else
    let s := if bad then winCount s (rxOfs p + 0x20) 31 16 else s
    if dt == bits (rxcfg s p) 58 53 then
      if bitOf (rxcfg s p) 59 then (eventRecords bytes).foldl (spkRecord p) s else s
    else match (rxPort s p).frame with
      | none => s
      | some f =>
        let room := rxFsz s p - 64 - f.bytes
        let b := bytes.take room
        let s := modFrame s p fun f => { f with
          err := f.err || bad, trunc := f.trunc || room < bytes.length, dt := some (f.dt.getD dt), bytes := f.bytes + b.length }
        rxWrite s p (slotPa s p f.slot + 64 + f.bytes) b

/-- A frame end. -/
def evCsiFrameEnd (p vc : Nat) (s : State) : State :=
  if !rxEn s p || !powered s || bits (rxcfg s p) 52 49 ≠ vc then s else rxClose s p false

/-! ### CSI-2 transmit ports (22 R473) -/

def txOfs (t : Nat) : Nat := 0x510000 + 0x40 * t
/-- The port has a descriptor to send. -/
def txDue (s : State) (t : Nat) : Bool :=
  bitOf (winNat s (txOfs t)) 63 && bits (winNat s (txOfs t + 0x10)) 15 0 ≠ bits (winNat s (txOfs t + 0x18)) 15 0
def txKick (s : State) (t : Nat) : State := if txDue s t then s.wireOnce (.txSendDescriptor t) else s
/-- TXTAIL. -/
def evTxtailWrite (t : Nat) (v : BitVec 64) (s : State) : State := windowed s fun s => txKick (storeRw s (txOfs t + 0x10) v.toNat 0xFFFF) t
/-- The next descriptor in the ring. -/
def txAt (s : State) (t : Nat) : Nat :=
  bits (winNat s (txOfs t + 8)) 51 4 * 16 + 16 * (bits (winNat s (txOfs t + 0x18)) 15 0 % 2 ^ bits (winNat s (txOfs t + 8)) 63 60)
/-- A descriptor may be sent: its reserved bits are 0, LINE is not, and BYTES is a multiple of it. -/
def txOk (d : Nat) : Bool := bits d 115 112 == 0 && bits d 63 52 == 0 && bits d 111 96 ≠ 0 && bits d 95 64 % bits d 111 96 == 0
/-- HEAD passes a descriptor; one that was skipped is counted. -/
def txNext (s : State) (t : Nat) (skipped : Bool) : State :=
  let s := winField s (txOfs t + 0x18) 15 0 ((bits (winNat s (txOfs t + 0x18)) 15 0 + 1) % 65536)
  let s := if skipped then winCount s (txOfs t + 0x18) 31 16 else s
  txKick { s with dev := { s.dev with tx := tdel s.dev.tx t } } t
/-- A read of a port begins. -/
def txRead (s : State) (t pa n : Nat) : State :=
  let (id, s) := s.fresh
  engBegin s id (unitAccess false (readSegs pa n) (.txSendDescriptor t) (96 + t))
/-- One descriptor is read, then its payload, both as agent 96 + t (03 R43), and its frame is sent; or it is skipped for a bad field. A
descriptor whose read the L2 has retired is skipped (03 R44). -/
def evTxSendDescriptor (t : Nat) (s : State) : State :=
  match unitEng s (.txSendDescriptor t) with
  | some x =>
    if !x.2.finished then s
    else
      let s := unitDone s x
      if x.2.err.isSome then txNext s t true
      else match tfind s.dev.tx t with
      | some d =>
        let b := (x.2.read (bits d.toNat 51 0) (bits d.toNat 95 64)).bytes
        txNext { s with dev := { s.dev with sent := (t, d, b) :: s.dev.sent } } t false
      | none =>
        let d := leNat (x.2.read (txAt s t) 16).bytes
        if !txOk d then txNext s t true
        else txRead { s with dev := { s.dev with tx := tput s.dev.tx t (BitVec.ofNat 128 d) } } t (bits d 51 0) (bits d 95 64)
  | none => if !txDue s t || !powered s then s else txRead s t (txAt s t) 16

/-! ### Trace and recorders (18 R433 to R436) -/

/-- TRCFG: setting EN clears WIX, CONS and DROPS. -/
def evTrcfgWrite (v : BitVec 64) (s : State) : State := windowed s fun s =>
  let was := bitOf (winNat s 0x400000) 63
  let s := storeRw s 0x400000 v.toNat (fieldMask 62 61 + fieldMask 54 32)
  if !bitOf v.toNat 63 then winField s 0x400000 63 63 0
  else if was then s
  else
    let tb := winNat s 0x400008
    let slog := bits tb 63 58
    let carve := bits (winNat s 0x520040) 19 16 * 0x100000
    if slog < 12 || 33 < slog || (!bitOf v.toNat 62 && carve < bits tb 51 5 * 32 + 2 ^ slog) then s
    else
      let s := match unitEng s .traceWrite with
        | some x => dropEng s x.1
        | none => s
      let s := { s with dev := { s.dev with traceQ := [] } }
      winSet (winSet (winField s 0x400000 63 63 1) 0x400010 0) 0x400018 0
/-- The trace stream writes its records to DRAM one after the other, as agent 96; WIX passes a record once it is performed, and one that
is refused or retired is dropped (R433, 03 R44). -/
def evTraceWrite (s : State) : State :=
  let start (s : State) : State := match s.dev.traceQ with
    | [] => s
    | b :: _ =>
      let (id, s) := s.fresh
      engBegin s id (unitAccess true (writeSegs (traceAt s) b []) .traceWrite)
  match unitEng s .traceWrite with
  | none => start s
  | some x =>
    if !x.2.finished then s
    else
      let s := unitDone s x
      let s := { s with dev := { s.dev with traceQ := s.dev.traceQ.drop 1 } }
      start (if x.2.err.isSome then traceDrop s else traceDone s)

/-- RFRZ: writing FROZEN = 0 resumes and clears CAUSE; writing 1 is a trigger. -/
def evRfrzWrite (v : BitVec 64) (s : State) : State := windowed s fun s =>
  let s := storeRw s 0x420400 v.toNat (fieldMask 47 40 + fieldMask 31 0)
  if bitOf v.toNat 63 then rfrzTrigger s 5 else winField (winField s 0x420400 63 63 0) 0x420400 55 48 0

/-- A link or fabric retry; more than RTHRESH of them within RWIN are a storm. -/
def evLinkRetry (s : State) : State :=
  let s := evCount s 0x23 none 1
  let r := winNat s 0x420400
  let win := max 1 (bits r 15 0) * 1000
  let l := s.now :: s.dev.retries.filter fun t => s.now < t + win
  let s := { s with dev := { s.dev with retries := l } }
  if bits r 31 16 < l.length then rfrzTrigger s 3 else s

/-- The group whose run issues on an issue slot of a core. -/
def issuing (s : State) (core slot : Nat) : Option Group := ((wonRuns s core).map (·.2)).find? fun gr => gr.run.any fun r => r.slot == slot
/-- A SAMPLE record of the next issue slot. -/
def evTraceSample (core : Nat) (s : State) : State :=
  let k := (s.core core).sample
  let ready := (s.resident core).filter fun g => (s.group g).run.isSome || (mayIssue s g && (pickEntry s g).isSome)
  let s := s.modCore core fun c => { c with sample := (k + 1) % 4 }
  let pay (st : Nat) : Nat := ready.length * 2 ^ 16 + st * 2 ^ 8 + k
  match issuing s core k with
  | some gr => leuth s 0 1 (pay (if gr.stoodAt.isSome then 2 else 0)) core gr.num gr.seq.toNat ((gr.run.map (·.pc.toNat)).getD 0) false false
  | none =>
    let x := (Config.freeValue s.free).toNat
    let y := (Config.freeValue (s.free + 1)).toNat
    leuth { s with free := s.free + 2 } 0 1 (pay 1) core (x % 2 ^ 24) (x / 2 ^ 32) y false false

/-! ### The debug agent (18 R428) -/

/-- The groups that a DBGSTOP or DBGRES names. -/
def dbgNamed (s : State) (v : Nat) : List Nat :=
  (s.groups.filter fun e =>
    let la := s.launch e.2.launch
    !e.2.ended && !la.done && la.queue == bits v 53 48 && la.rix.toNat == bits v 47 32 &&
      (bits v 23 0 == 0xFFFFFF || e.2.num == bits v 23 0)).map (·.1)
/-- DBGSTOP. -/
def evDbgstop (v : BitVec 64) (s : State) : State := windowed s fun s =>
  if bitOf v.toNat 63 then (dbgNamed s v.toNat).foldl requestStop s else s
/-- A stopped or halted group goes on. -/
def resumeGroup (s : State) (g : Nat) : State :=
  let gr := s.group g
  if gr.stopReq && gr.run.isSome then s
  else settle (s.modGroup g fun gr => { gr.unwait (· == .halt) with stopReq := false }) g
/-- DBGRES. -/
def evDbgres (v : BitVec 64) (s : State) : State := windowed s fun s =>
  if bitOf v.toNat 63 then (dbgNamed s v.toNat).foldl resumeGroup s else s

/-! ### Host commands (22 R468, R469) -/

def hcBusy (s : State) : Bool := bitOf (winNat s 0x520020) 63
/-- A command begins, unless one runs. -/
def hcmdBegin (s : State) (op : Nat) (seq : BitVec 8) (waits : Bool) : State :=
  { winField s 0x520020 63 63 1 with dev := { s.dev with hcmd := some { op := op, seq := seq, waits := waits, data := [] } } }
/-- Runs a command whose own action is f, if none runs. -/
def hcmdRun (op : Nat) (seq : BitVec 8) (f : State → State) (s : State) : State := windowed s fun s =>
  if hcBusy s then s else f (hcmdBegin s op seq false)
/-- What comes from outside reaches the command that waits for it, or comes with the command. -/
def hcmdWith (op : Nat) (seq : BitVec 8) (f : State → State) (s : State) : State := windowed s fun s =>
  if s.dev.hcmd == some { op := op, seq := seq, waits := true, data := [] } then f (hcmdBegin s op seq false)
  else if hcBusy s then s else f (hcmdBegin s op seq false)
def hcArg (s : State) (i : Nat) : Nat := winNat s (0x520008 + 8 * i)
/-- The command ends with a result. -/
def hcmdEnd (seq : BitVec 8) (result : Nat) (s : State) : State := s.wire (.hcmdComplete seq (BitVec.ofNat 8 result))
/-- HCSTAT shows the end of the command, and vector 0 is sent. -/
def evHcmdComplete (seq result : BitVec 8) (s : State) : State :=
  match s.dev.hcmd with
  | none => s
  | some h =>
    if h.seq ≠ seq then s
    else msi { winSet s 0x520020 (seq.toNat * 2 ^ 48 + result.toNat) with dev := { s.dev with hcmd := none } } 0

/-- TLBI by the host. -/
def evHcmdTlbiRange (seq : BitVec 8) (s : State) : State :=
  hcmdRun 1 seq (fun s =>
    if hcArg s 1 == 0 then hcmdEnd seq 0 s
    else if 2 ^ 56 < hcArg s 0 + hcArg s 1 then hcmdEnd seq 1 s
    else startInval s 0 (bits (hcArg s 2) 15 0) (hcArg s 0) (hcArg s 0 + hcArg s 1) [] (.host seq)) s
def evHcmdTlbiAsid (seq : BitVec 8) (s : State) : State :=
  hcmdRun 2 seq (fun s => startInval s 1 (bits (hcArg s 2) 15 0) 0 0 [] (.host seq)) s
def evHcmdTlbiNonglobal (seq : BitVec 8) (s : State) : State := hcmdRun 3 seq (fun s => startInval s 2 0 0 0 [] (.host seq)) s
def evHcmdTlbiAll (seq : BitVec 8) (s : State) : State := hcmdRun 4 seq (fun s => startInval s 3 0 0 0 [] (.host seq)) s

/-- FRZKILL. -/
def evFrzkill (seq : BitVec 8) (s : State) : State :=
  hcmdRun 0x10 seq (fun s =>
    let h := hcArg s 0
    let e := getFz s h
    if 256 ≤ h || e.st == .free then hcmdEnd seq 2 s
    else if e.st == .frozen || (e.st == .recalling && e.count ≠ 0) then thawAccept (setFz s h { e with count := 1 }) h [.host seq]
    else setFz s h { e with twait := e.twait ++ [.host seq] }) s

/-- [pa, pa + n) lies in DRAM or host memory. -/
def bufferOk (pa n : Nat) : Bool := pa + n ≤ 2 ^ 52 && baseOk pa && baseOk (pa + n - 1)
/-- n bytes of a list, zeros after its end. -/
def padTo (n : Nat) (b : List Byte) : List Byte := (b ++ List.replicate n 0).take n
/-- A command keeps what came from outside. -/
def hcmdKeep (s : State) (b : List Byte) : State := { s with dev := { s.dev with hcmd := s.dev.hcmd.map fun h => { h with data := b } } }
/-- A command's access begins, as agent 96 (log 85). -/
def hcmdAccess (seq : BitVec 8) (write : Bool) (segs : List EngSeg) (s : State) : State :=
  let (id, s) := s.fresh
  engBegin s id (unitAccess write segs (.hcmdGo seq))
/-- A command writes its buffer: bad argument, refused on a frozen range, or under way. -/
def hcmdWrite (seq : BitVec 8) (pa : Nat) (b : List Byte) (s : State) : State :=
  if !bufferOk pa b.length then hcmdEnd seq 1 s
  else if (frozenSub s pa b.length).isSome then hcmdEnd seq 4 s
  else hcmdAccess seq true (writeSegs pa b []) s

/-- One I3C private transfer, as the sensor answers it: a read fills the buffer, a write is sent from it. -/
def evHcmdI3cTransfer (seq : BitVec 8) (nack : Bool) (bytes : List (BitVec 8)) (s : State) : State :=
  hcmdWith 0x20 seq (fun s =>
    let pa := hcArg s 0
    let a := hcArg s 1
    let n := bits a 31 16
    if n == 0 || 4096 < n || !bufferOk pa n then hcmdEnd seq 1 s
    else if nack then hcmdEnd seq 3 s
    else if bitOf a 8 then hcmdWrite seq pa (bytes.take n) s
    else hcmdAccess seq false (readSegs pa n) s) s

/-- The attestation report of a nonce but for its signature (22 R477). -/
def attestBody (s : State) (nonce : List Byte) : List Byte :=
  leBytes (capDword 1) 8 ++ leBytes (s.dev.version.toNat * 2 ^ 32 + Config.minver.toNat) 8 ++
  leBytes (Config.imageHash s.dev.flash).toNat 64 ++ nonce ++ leBytes s.now 8 ++ List.replicate 104 0
/-- ATTEST, with the signature the fused key gives. -/
def evAttest (seq : BitVec 8) (sig : List (BitVec 8)) (s : State) : State :=
  hcmdWith 0x30 seq (fun s =>
    if !bufferOk (hcArg s 0) 64 || !bufferOk (hcArg s 1) 512 then hcmdEnd seq 1 s
    else hcmdAccess seq false (readSegs (hcArg s 0) 64) (hcmdKeep s (padTo 132 sig))) s
/-- IDCERT. -/
def evIdcert (seq : BitVec 8) (cert : List (BitVec 8)) (s : State) : State :=
  hcmdWith 0x31 seq (fun s => hcmdWrite seq (hcArg s 0) (padTo 4096 cert) s) s
/-- An access of the command is done: a write ends it; what an I3C write read is sent, and the report of the nonce that was read is written. A
command whose access the L2 has retired is refused (log 85). -/
def evHcmdGo (seq : BitVec 8) (s : State) : State :=
  match unitEng s (.hcmdGo seq), s.dev.hcmd with
  | some x, some h =>
    if !x.2.finished then s
    else
      let s := unitDone s x
      if x.2.err.isSome then hcmdEnd seq 4 s
      else if x.2.write then hcmdEnd seq 0 s
      else if h.op == 0x20 then
        let a := hcArg s 1
        let b := (x.2.read (hcArg s 0) (bits a 31 16)).bytes
        hcmdEnd seq 0 { s with dev := { s.dev with i3c := (BitVec.ofNat 7 a, b) :: s.dev.i3c } }
      else hcmdWrite seq (hcArg s 1) (attestBody s (x.2.read (hcArg s 0) 64).bytes ++ h.data ++ List.replicate 124 0) s
  | _, _ => s
/-- An OP that R469 does not list. -/
def evHcmdBadOp (op seq : BitVec 8) (s : State) : State := hcmdRun op.toNat seq (hcmdEnd seq 1) s

/-- A write of HCMD. -/
def hcmdStore (v : Nat) (s : State) : State :=
  let seq := BitVec.ofNat 8 (bits v 55 48)
  let op := bits v 7 0
  if !bitOf v 63 then s
  else match op with
    | 1 => evHcmdTlbiRange seq s
    | 2 => evHcmdTlbiAsid seq s
    | 3 => evHcmdTlbiNonglobal seq s
    | 4 => evHcmdTlbiAll seq s
    | 0x10 => evFrzkill seq s
    | 0x20 | 0x30 | 0x31 => windowed s fun s => if hcBusy s then s else hcmdBegin s op seq true
    | _ => evHcmdBadOp (BitVec.ofNat 8 op) seq s

/-! ### Any write of the window -/

/-- A write of a register that only holds its value, or whose fields are W1C. -/
def plainStore (ofs v : Nat) (s : State) : State :=
  let q := (ofs - 0x100000) / 0x40
  let p := (ofs - 0x500000) / 0x40
  let t := (ofs - 0x510000) / 0x40
  let lo := ofs % 0x40
  if 0x100000 ≤ ofs && ofs < 0x101000 then
    if qEn s q then s
    else if lo == 0 then storeRw s ofs v (fieldMask 51 7)
    else if lo == 8 then storeRw s ofs v (fieldMask 51 6)
    else if lo == 0x10 then storeRw s ofs v (fieldMask 51 5)
    else s
  else if ofs == 0x300040 then storeRw s ofs v (fieldMask 47 0)
  else if ofs == 0x300090 then storeRw s ofs v (fieldMask 31 0)
  else if ofs == 0x400008 then storeRw s ofs v (fieldMask 63 58 + fieldMask 51 5)
  else if ofs == 0x400018 then storeRw s ofs v (fieldMask 31 0)
  else if (0x410000 ≤ ofs && ofs < 0x411000) || (0x420000 ≤ ofs && ofs < 0x420200) then
    storeRw s ofs v (if ofs % 0x10 == 0 then fieldMask 11 0 else fieldMask 63 0)
  else if 0x430000 ≤ ofs && ofs < 0x431000 then
    if ofs % 0x20 == 0 then storeRw s ofs v (fieldMask 55 0)
    else if ofs % 0x20 == 8 then storeRw s ofs v (fieldMask 39 0)
    else if ofs % 0x20 == 0x10 then storeRw s ofs v (fieldMask 31 16 + 0x3B)
    else s
  else if ofs == 0x440010 then winSet s ofs (winNat s ofs - (winNat s ofs &&& v))
  else if 0x500000 ≤ ofs && ofs < 0x500400 then
    if lo == 0x18 then storeRw s ofs v 0xFFFF
    else if rxEn s p then s
    else if lo == 8 then storeRw s ofs v (fieldMask 63 12)
    else if lo == 0x10 then storeRw s ofs v (fieldMask 63 0)
    else s
  else if 0x510000 ≤ ofs && ofs < 0x510100 then
    if lo == 0 then txKick (storeRw s ofs v (fieldMask 63 60)) t
    else if lo == 8 then storeRw s ofs v (fieldMask 63 60 + fieldMask 51 4)
    else s
  else if 0x520008 ≤ ofs && ofs < 0x520020 then storeRw s ofs v (fieldMask 63 0)
  else if (0x530000 ≤ ofs && ofs < 0x530038) || (0x530100 ≤ ofs && ofs < 0x5301C0) then storeRw s ofs v (fieldMask 63 0)
  else s

/-- A 64-bit write of a window register, by the host or by a store through a UC mapping. -/
def winStore (ofs : Nat) (v : DWord) (s : State) : State :=
  let o := ofs / 8 * 8
  if 0x100000 ≤ o && o < 0x101000 && o % 0x40 == 0x18 then evQcfgWrite ((o - 0x100000) / 0x40) v s
  else if 0x100000 ≤ o && o < 0x101000 && o % 0x40 == 0x20 then evQptrWrite ((o - 0x100000) / 0x40) v s
  else if 0x200000 ≤ o && o < 0x200800 then evLaunchCounterWrite ((o - 0x200000) / 8) v s
  else if 0x300000 ≤ o && o < 0x300040 then
    if o % 0x10 == 0 then evResvWrite ((o - 0x300000) / 0x10) v s else evMindlWrite ((o - 0x300000) / 0x10) v s
  else if o == 0x300080 || o == 0x300088 then evSavePoolWrite o v s
  else if o == 0x400000 then evTrcfgWrite v s
  else if o == 0x420400 then evRfrzWrite v s
  else if o == 0x440000 then evDbgstop v s
  else if o == 0x440008 then evDbgres v s
  else if 0x500000 ≤ o && o < 0x500400 && o % 0x40 == 0 then evRxcfgWrite ((o - 0x500000) / 0x40) v s
  else if 0x510000 ≤ o && o < 0x510100 && o % 0x40 == 0x10 then evTxtailWrite ((o - 0x510000) / 0x40) v s
  else if o == 0x520000 then hcmdStore v.toNat s
  else if o == 0x520040 then evCspcfgWrite v s
  else if 0x1000000 ≤ o && o < 0x1400000 then evContextTableWrite ((o - 0x1000000) / 64) (o / 8 % 8) v s
  else windowed s (plainStore o v.toNat)

/-- A host write of a register (00 R6). -/
def evRegWrite (ofs : Nat) (v : BitVec 64) (s : State) : State := winStore ofs v s

/-- The bits of a register that are W1C (16 R382, 22 R467). -/
def w1cMask (o : Nat) : Nat := if 0x200000 ≤ o && o < 0x200800 then 2 ^ 16 else if o == 0x440010 then 0x3F else 0
/-- A store into the window: a half-register store leaves the other half as it is (00 R6); the access of a group that made it goes on. -/
def evWinWrite (ofs : Nat) (v : DWord) (half g op : Nat) (s : State) : State :=
  let old := winNat s ofs - (winNat s ofs &&& w1cMask ofs)
  let x := match half with
    | 1 => old / 2 ^ 32 * 2 ^ 32 + v.toNat % 2 ^ 32
    | 2 => v.toNat / 2 ^ 32 * 2 ^ 32 + old % 2 ^ 32
    | _ => v.toNat
  let s := winStore ofs (BitVec.ofNat 64 x) s
  if op == 0 then s else winDone s g op

/-! ### Soft errors (22 R478) -/

/-- An error in a v, s or p register: idx is 2^22 group + 2^20 file + 64 register + lane, files v, s, p. -/
def registerUe (s : State) (idx : Nat) : State :=
  s.modGroup (idx / 2 ^ 22) fun gr =>
    let n := idx / 64 % 256
    let l := idx % 64
    match idx / 2 ^ 20 % 4 with
    | 0 => { gr with vUe := tupd 0 gr.vUe n (setLane (tget 0 gr.vUe n) l true) }
    | 1 => if n < 63 then { gr with sUe := setLane gr.sUe n true } else gr
    | 2 => if n < 15 then { gr with pUe := tupd 0 gr.pUe n (setLane (tget 0 gr.pUe n) l true) } else gr
    | _ => gr
/-- An error in a sector of a cluster cache (04 R79): idx is 2^20 cluster + 32 slot + sector. A D sector keeps its error; any other is
dropped and fetched again. -/
def cacheError (s : State) (idx : Nat) (e : ErrKind) : State :=
  let c := idx / 2 ^ 20
  let key := idx / 32 % 2 ^ 15
  let i := idx % 32
  match tfind (s.cluster c).slots key with
  | none => s
  | some k =>
    if k.st i == 0 then s
    else if k.st i ≠ 2 then countError (dropFrom s c key (spanMask i i)) 3 (some (4 * c)) false
    else if e == .uncorrectable then
      countError (s.modCluster c fun cl => { cl with slots := tput cl.slots key { k with ue := k.ue ||| spanMask i i } }) 3 (some (4 * c)) true
    else countError s 3 (some (4 * c)) false
/-- Every copy of a frame is poisoned: in memory and the L2, in the cluster caches and in the instruction caches. -/
def poisonFrame (s : State) (frame : Nat) : State :=
  let s := (List.range 8).foldl (fun s j => setUe s (512 * frame + 64 * j) true) s
  let slot (x : Nat × CSlot) : Nat × CSlot := if x.2.pback == frame then (x.1, { x.2 with ue := x.2.ue ||| x.2.present }) else x
  let s := s.clusters.foldl (fun s e => s.modCluster e.1 fun cl => { cl with slots := cl.slots.map slot }) s
  s.cores.foldl (fun s e => s.modCore e.1 fun k =>
    { k with icache := k.icache.map fun x => if x.sec / 32 == frame then { x with ue := true } else x }) s

/-- SRAM scrubbing reads a word of a class. -/
def evSramScrub (cls idx : Nat) (e : ErrKind) (s : State) : State :=
  match e with
  | .none => s
  | _ =>
    let ue : Bool := e == .uncorrectable
    match cls with
    | 0 => countError (if ue then registerUe s idx else s) 0 (some (s.group (idx / 2 ^ 22)).core) ue
    | 1 => countError (if ue then s.modCore (idx / 196608) fun c => { c with spUe := tput c.spUe (idx % 196608) true } else s)
        1 (some (idx / 196608)) ue
    | 2 => countError (if ue then s.modCore (idx / 768) fun c => { c with accSt := tmod AccSt.reset c.accSt (idx % 768) fun a =>
        { a with pois := true } } else s) 2 (some (idx / 768)) ue
    | 3 => cacheError s idx e
    | 4 => countError (if !ue then s else if idx % 2 == 0 then setUe s (idx / 2 * 64) true else poisonFrame s (idx / 16)) 4 none ue
    | 5 => countError (if ue then { s with chip := { s.chip with ue := tput s.chip.ue idx true } } else s) 5 none ue
    | 6 => evDramScrub idx e s
    | _ => s

/-! ### The rows of the table -/

def execQcfgWrite (q : Nat) (v : BitVec 64) (s : State) : Host.Outcome State Fault Refusal := .next (evQcfgWrite q v s)
def execQptrWrite (q : Nat) (v : BitVec 64) (s : State) : Host.Outcome State Fault Refusal := .next (evQptrWrite q v s)
def execLaunchCounterWrite (c : Nat) (v : BitVec 64) (s : State) : Host.Outcome State Fault Refusal := .next (evLaunchCounterWrite c v s)
def execResvWrite (c : Nat) (v : BitVec 64) (s : State) : Host.Outcome State Fault Refusal := .next (evResvWrite c v s)
def execMindlWrite (c : Nat) (v : BitVec 64) (s : State) : Host.Outcome State Fault Refusal := .next (evMindlWrite c v s)
def execSavePoolWrite (ofs : Nat) (v : BitVec 64) (s : State) : Host.Outcome State Fault Refusal := .next (evSavePoolWrite ofs v s)
def execContextTableWrite (asid dw : Nat) (v : BitVec 64) (s : State) : Host.Outcome State Fault Refusal :=
  .next (evContextTableWrite asid dw v s)
def execCspcfgWrite (v : BitVec 64) (s : State) : Host.Outcome State Fault Refusal := .next (evCspcfgWrite v s)
def execRxcfgWrite (p : Nat) (v : BitVec 64) (s : State) : Host.Outcome State Fault Refusal := .next (evRxcfgWrite p v s)
def execTxtailWrite (t : Nat) (v : BitVec 64) (s : State) : Host.Outcome State Fault Refusal := .next (evTxtailWrite t v s)
def execTxSendDescriptor (t : Nat) (s : State) : Host.Outcome State Fault Refusal := .next (evTxSendDescriptor t s)
def execTrcfgWrite (v : BitVec 64) (s : State) : Host.Outcome State Fault Refusal := .next (evTrcfgWrite v s)
def execRfrzWrite (v : BitVec 64) (s : State) : Host.Outcome State Fault Refusal := .next (evRfrzWrite v s)
def execDbgstop (v : BitVec 64) (s : State) : Host.Outcome State Fault Refusal := .next (evDbgstop v s)
def execDbgres (v : BitVec 64) (s : State) : Host.Outcome State Fault Refusal := .next (evDbgres v s)
def execRegWrite (ofs : Nat) (v : BitVec 64) (s : State) : Host.Outcome State Fault Refusal := .next (evRegWrite ofs v s)
def execHcmdTlbiRange (seq : BitVec 8) (s : State) : Host.Outcome State Fault Refusal := .next (evHcmdTlbiRange seq s)
def execHcmdTlbiAsid (seq : BitVec 8) (s : State) : Host.Outcome State Fault Refusal := .next (evHcmdTlbiAsid seq s)
def execHcmdTlbiNonglobal (seq : BitVec 8) (s : State) : Host.Outcome State Fault Refusal := .next (evHcmdTlbiNonglobal seq s)
def execHcmdTlbiAll (seq : BitVec 8) (s : State) : Host.Outcome State Fault Refusal := .next (evHcmdTlbiAll seq s)
def execFrzkill (seq : BitVec 8) (s : State) : Host.Outcome State Fault Refusal := .next (evFrzkill seq s)
def execHcmdI3cTransfer (seq : BitVec 8) (nack : Bool) (bytes : List (BitVec 8)) (s : State) : Host.Outcome State Fault Refusal :=
  .next (evHcmdI3cTransfer seq nack bytes s)
def execAttest (seq : BitVec 8) (sig : List (BitVec 8)) (s : State) : Host.Outcome State Fault Refusal := .next (evAttest seq sig s)
def execIdcert (seq : BitVec 8) (cert : List (BitVec 8)) (s : State) : Host.Outcome State Fault Refusal := .next (evIdcert seq cert s)
def execHcmdComplete (seq result : BitVec 8) (s : State) : Host.Outcome State Fault Refusal := .next (evHcmdComplete seq result s)
def execHcmdBadOp (op seq : BitVec 8) (s : State) : Host.Outcome State Fault Refusal := .next (evHcmdBadOp op seq s)
def execCsiFrameStart (p vc : Nat) (fnum : BitVec 16) (s : State) : Host.Outcome State Fault Refusal := .next (evCsiFrameStart p vc fnum s)
def execCsiLongPacket (p vc dt : Nat) (bad : Bool) (bytes : List (BitVec 8)) (s : State) : Host.Outcome State Fault Refusal :=
  .next (evCsiLongPacket p vc dt bad bytes s)
def execCsiFrameEnd (p vc : Nat) (s : State) : Host.Outcome State Fault Refusal := .next (evCsiFrameEnd p vc s)
def execLinkRetry (s : State) : Host.Outcome State Fault Refusal := .next (evLinkRetry s)
def execTraceSample (core : Nat) (s : State) : Host.Outcome State Fault Refusal := .next (evTraceSample core s)
def execI3cPlimWrite (v : BitVec 16) (s : State) : Host.Outcome State Fault Refusal := .next (evI3cPlimWrite v s)
def execI3cWarmReset (img : BootImage) (s : State) : Host.Outcome State Fault Refusal := .next (evI3cWarmReset img s)
def execI3cColdReset (img : BootImage) (s : State) : Host.Outcome State Fault Refusal := .next (evI3cColdReset img s)
def execI3cRecovWrite (v : BitVec 16) (s : State) : Host.Outcome State Fault Refusal := .next (evI3cRecovWrite v s)
def execRdata (bytes : List (BitVec 8)) (last sigOk : Bool) (s : State) : Host.Outcome State Fault Refusal := .next (evRdata bytes last sigOk s)
def execReset (img : BootImage) (s : State) : Host.Outcome State Fault Refusal := .next (evReset img s)
def execThermalAlert (tj : BitVec 16) (s : State) : Host.Outcome State Fault Refusal := .next (evThermalAlert tj s)
def execThermalReset (tj : BitVec 16) (img : BootImage) (s : State) : Host.Outcome State Fault Refusal := .next (evThermalReset tj img s)
def execGovernorStep (up : Bool) (tj pwr : BitVec 16) (s : State) : Host.Outcome State Fault Refusal := .next (evGovernorStep up tj pwr s)
def execIdleEntry (s : State) : Host.Outcome State Fault Refusal := .next (evIdleEntry s)
def execRetainExit (s : State) : Host.Outcome State Fault Refusal := .next (evRetainExit s)
def execSramScrub (cls idx : Nat) (e : ErrKind) (s : State) : Host.Outcome State Fault Refusal := .next (evSramScrub cls idx e s)
def execAlertClear (v : BitVec 16) (s : State) : Host.Outcome State Fault Refusal := .next (evAlertClear v s)
def execDynamicAddressAssign (a : BitVec 7) (s : State) : Host.Outcome State Fault Refusal := .next (evDynamicAddressAssign a s)

end Sys2Proof.Machine
end

