-- ==== Sys2Proof/Machine/Replies.lean ====
section
/-!
DEFINITION. What reaches the agents that asked: the answers of the directory (03 R47, R51, R44), and of page walks (02 R34), each handed to the
unit that waits for it.
-/

namespace Sys2Proof.Machine

open Sys2Proof

/-! ### Fetches (06 R158) -/

/-- A fetch of a page has faulted; the header or the run that needs it takes the fault (06 R131). -/
def fetchFault (s : State) (g va cause sub : Nat) : State :=
  s.modGroup g fun gr => { gr with ferr := (va / 4096, cause, sub) :: gr.ferr, fetching := gr.fetching.erase (va / 16) }
/-- Sectors come for a fetch: those without a race tag enter the cluster's cache, frozen ones as replicas, and the wanted one the core's
instruction cache, unless the translation is gone meanwhile (02 R39). -/
def fetchData (core g va : Nat) (r : Req) (gr : Grant) (race ue : BitVec 32) (s : State) : State :=
  let c := clusterOf core
  let done (s : State) : State := s.modGroup g fun gr => { gr with fetching := gr.fetching.erase (va / 16) }
  match findFill s c r.who r.frame r.smask with
  | none => done s
  | some f =>
    let pa := f.t.phys va
    let s := takeFill s c r.who r.frame r.smask race ue (if gr == Grant.f then 3 else 1)
    if !hasSec r.smask (sectorOf pa) then s
    else done (if hasSec race (sectorOf pa) then s else icPut s core pa (hasSec ue (sectorOf pa)))

/-! ### Walks -/

/-- A walk's answer reaches one of its waiters. -/
def giveVerdict (v : Verdict) (s : State) (w : WalkWait) : State :=
  match w.who with
  | .lsu g op => match (s.group g).findPend op with
    | none => s
    | some p =>
      if p.op == 0x243 then freezeStep s g op (some v)
      else if 0x240 ≤ p.op && p.op ≤ 0x242 then maintStep s g op (some v)
      else if isGsc p.op then gscTake (s.group g).core (some v) s
      else lsuStep s g op (some v)
  | .pfg g op => lsuStep s g op (some v)
  | .eng id _ => engAdvance s id (some v)
  | .fetch _ g va => match xlook [] v.asid va 2 (some v) with
    | some (.fault c u) => fetchFault s g va c u
    | _ => fetchStart s g va
  | _ => s
/-- A step of the walkers, with what it answers. -/
def walkGive (r : State × Option (Verdict × List WalkWait)) : State :=
  match r.2 with
  | none => r.1
  | some (v, ws) => ws.foldl (giveVerdict v) r.1
/-- A free walker takes up a walk (R35). -/
def evWalkStart (c : Nat) (s : State) : State := walkGive (walkBegin s c)
/-- A walk goes on or is over (R34). -/
def evWalkComplete (c asid region : Nat) (s : State) : State := walkGive (walkEnd s c asid region)

/-! ### The directory's answers -/

/-- Data, or Cmp, reaches the agent that asked (R47, R51). -/
def evData (r : Req) (gr : Grant) (race ue : BitVec 32) (s : State) : State :=
  match r.who with
  | .lsu g op | .pfg g op => lsuData g op r gr race ue s
  | .store c id => queueData c id r gr ue s
  | .gsc core win => (if race == 0 then s else evCount s 0x0C (some core) (secCount race)).wire (.gscReply core win (2 * r.frame + if r.kind == ReqKind.wrU then 0 else 1) race)
  | .walk c asid region => walkGive (walkReply s c asid region r ue)
  | .eng id k => engReply s id k r gr race ue
  | .fetch core g va => fetchData core g va r gr race ue s
  | .host | .none => s
/-- A fault reaches it (R44, R61). -/
def evFlt (r : Req) (cause sub : Nat) (s : State) : State :=
  match r.who with
  | .lsu g op | .pfg g op => lsuFlt g op r cause sub s
  | .store c id => storeFlt c id r cause sub s
  | .gsc core win => gscFlt core win r cause sub s
  | .walk c asid region => walkGive (walkFlt s c asid region cause sub)
  | .eng id k => engFlt s id k cause sub
  | .fetch core g va =>
    let s := match findFill s (clusterOf core) r.who r.frame r.smask with
      | some f => endFill s (clusterOf core) f r.smask
      | none => s
    fetchFault s g va cause sub
  | .host | .none => s

def execWalkStart (c : Nat) (s : State) : Host.Outcome State Fault Refusal := .next (evWalkStart c s)
def execWalkComplete (c asid region : Nat) (s : State) : Host.Outcome State Fault Refusal := .next (evWalkComplete c asid region s)
def execData (r : Req) (gr : Grant) (race ue : BitVec 32) (s : State) : Host.Outcome State Fault Refusal := .next (evData r gr race ue s)
def execFlt (r : Req) (cause sub : Nat) (s : State) : Host.Outcome State Fault Refusal := .next (evFlt r cause sub s)

end Sys2Proof.Machine
end

