-- ==== Sys2Proof/Machine/Dispatch.lean ====
section
/-! DEFINITION. The dispatch: one arm per constructor of `Instr`, each the direct call of its meaning. -/

namespace Sys2Proof.Machine

open Sys2Proof

/-- What each instruction and each step of an agent does. -/
def exec (i : Instr) (s : State) : Host.Outcome State Fault Refusal :=
  match i with
  | .run h => Sys2Proof.Machine.execRun h s
  | .iaddB f => Sys2Proof.Machine.execIaddB f s
  | .iaddE f => Sys2Proof.Machine.execIaddE f s
  | .isubB f => Sys2Proof.Machine.execIsubB f s
  | .isubE f => Sys2Proof.Machine.execIsubE f s
  | .imulB f => Sys2Proof.Machine.execImulB f s
  | .imulE f => Sys2Proof.Machine.execImulE f s
  | .imulhB f => Sys2Proof.Machine.execImulhB f s
  | .imulhE f => Sys2Proof.Machine.execImulhE f s
  | .imadB f => Sys2Proof.Machine.execImadB f s
  | .imadE f => Sys2Proof.Machine.execImadE f s
  | .iminB f => Sys2Proof.Machine.execIminB f s
  | .iminE f => Sys2Proof.Machine.execIminE f s
  | .imaxB f => Sys2Proof.Machine.execImaxB f s
  | .imaxE f => Sys2Proof.Machine.execImaxE f s
  | .iabsB f => Sys2Proof.Machine.execIabsB f s
  | .iabsE f => Sys2Proof.Machine.execIabsE f s
  | .andB f => Sys2Proof.Machine.execAndB f s
  | .andE f => Sys2Proof.Machine.execAndE f s
  | .orB f => Sys2Proof.Machine.execOrB f s
  | .orE f => Sys2Proof.Machine.execOrE f s
  | .xorB f => Sys2Proof.Machine.execXorB f s
  | .xorE f => Sys2Proof.Machine.execXorE f s
  | .andnB f => Sys2Proof.Machine.execAndnB f s
  | .andnE f => Sys2Proof.Machine.execAndnE f s
  | .shlB f => Sys2Proof.Machine.execShlB f s
  | .shlE f => Sys2Proof.Machine.execShlE f s
  | .shrB f => Sys2Proof.Machine.execShrB f s
  | .shrE f => Sys2Proof.Machine.execShrE f s
  | .sarB f => Sys2Proof.Machine.execSarB f s
  | .sarE f => Sys2Proof.Machine.execSarE f s
  | .notB f => Sys2Proof.Machine.execNotB f s
  | .notE f => Sys2Proof.Machine.execNotE f s
  | .movB f => Sys2Proof.Machine.execMovB f s
  | .movE f => Sys2Proof.Machine.execMovE f s
  | .liB f => Sys2Proof.Machine.execLiB f s
  | .liE f => Sys2Proof.Machine.execLiE f s
  | .leaB f => Sys2Proof.Machine.execLeaB f s
  | .leaE f => Sys2Proof.Machine.execLeaE f s
  | .iaddImmB f => Sys2Proof.Machine.execIaddImmB f s
  | .iaddImmE f => Sys2Proof.Machine.execIaddImmE f s
  | .shlImmB f => Sys2Proof.Machine.execShlImmB f s
  | .shlImmE f => Sys2Proof.Machine.execShlImmE f s
  | .shrImmB f => Sys2Proof.Machine.execShrImmB f s
  | .shrImmE f => Sys2Proof.Machine.execShrImmE f s
  | .sarImmB f => Sys2Proof.Machine.execSarImmB f s
  | .sarImmE f => Sys2Proof.Machine.execSarImmE f s
  | .andImmB f => Sys2Proof.Machine.execAndImmB f s
  | .andImmE f => Sys2Proof.Machine.execAndImmE f s
  | .rot f => Sys2Proof.Machine.execRot f s
  | .bfe f => Sys2Proof.Machine.execBfe f s
  | .bfi f => Sys2Proof.Machine.execBfi f s
  | .popc f => Sys2Proof.Machine.execPopc f s
  | .clz f => Sys2Proof.Machine.execClz f s
  | .brev f => Sys2Proof.Machine.execBrev f s
  | .sel f => Sys2Proof.Machine.execSel f s
  | .icmp f => Sys2Proof.Machine.execIcmp f s
  | .plop f => Sys2Proof.Machine.execPlop f s
  | .brmh f => Sys2Proof.Machine.execBrmh f s
  | .faddB f => Sys2Proof.Machine.execFaddB f s
  | .faddE f => Sys2Proof.Machine.execFaddE f s
  | .fsubB f => Sys2Proof.Machine.execFsubB f s
  | .fsubE f => Sys2Proof.Machine.execFsubE f s
  | .fmulB f => Sys2Proof.Machine.execFmulB f s
  | .fmulE f => Sys2Proof.Machine.execFmulE f s
  | .ffmaB f => Sys2Proof.Machine.execFfmaB f s
  | .ffmaE f => Sys2Proof.Machine.execFfmaE f s
  | .fminB f => Sys2Proof.Machine.execFminB f s
  | .fminE f => Sys2Proof.Machine.execFminE f s
  | .fmaxB f => Sys2Proof.Machine.execFmaxB f s
  | .fmaxE f => Sys2Proof.Machine.execFmaxE f s
  | .fabsB f => Sys2Proof.Machine.execFabsB f s
  | .fabsE f => Sys2Proof.Machine.execFabsE f s
  | .fnegB f => Sys2Proof.Machine.execFnegB f s
  | .fnegE f => Sys2Proof.Machine.execFnegE f s
  | .rcpB f => Sys2Proof.Machine.execRcpB f s
  | .rcpE f => Sys2Proof.Machine.execRcpE f s
  | .rsqB f => Sys2Proof.Machine.execRsqB f s
  | .rsqE f => Sys2Proof.Machine.execRsqE f s
  | .sqrtB f => Sys2Proof.Machine.execSqrtB f s
  | .sqrtE f => Sys2Proof.Machine.execSqrtE f s
  | .exp2B f => Sys2Proof.Machine.execExp2B f s
  | .exp2E f => Sys2Proof.Machine.execExp2E f s
  | .log2B f => Sys2Proof.Machine.execLog2B f s
  | .log2E f => Sys2Proof.Machine.execLog2E f s
  | .tanhB f => Sys2Proof.Machine.execTanhB f s
  | .tanhE f => Sys2Proof.Machine.execTanhE f s
  | .sigmB f => Sys2Proof.Machine.execSigmB f s
  | .sigmE f => Sys2Proof.Machine.execSigmE f s
  | .fcmp f => Sys2Proof.Machine.execFcmp f s
  | .dot2 f => Sys2Proof.Machine.execDot2 f s
  | .dot4 f => Sys2Proof.Machine.execDot4 f s
  | .cvt f => Sys2Proof.Machine.execCvt f s
  | .cvtsr f => Sys2Proof.Machine.execCvtsr f s
  | .frnd f => Sys2Proof.Machine.execFrnd f s
  | .rng f => Sys2Proof.Machine.execRng f s
  | .sin f => Sys2Proof.Machine.execSin f s
  | .cos f => Sys2Proof.Machine.execCos f s
  | .gelu f => Sys2Proof.Machine.execGelu f s
  | .silu f => Sys2Proof.Machine.execSilu f s
  | .erf f => Sys2Proof.Machine.execErf f s
  | .act f => Sys2Proof.Machine.execAct f s
  | .atload f => Sys2Proof.Machine.execAtload f s
  | .atstat f => Sys2Proof.Machine.execAtstat f s
  | .ldgB f => Sys2Proof.Machine.execLdgB f s
  | .ldgE f => Sys2Proof.Machine.execLdgE f s
  | .stgB f => Sys2Proof.Machine.execStgB f s
  | .stgE f => Sys2Proof.Machine.execStgE f s
  | .ldsB f => Sys2Proof.Machine.execLdsB f s
  | .ldsE f => Sys2Proof.Machine.execLdsE f s
  | .stsB f => Sys2Proof.Machine.execStsB f s
  | .stsE f => Sys2Proof.Machine.execStsE f s
  | .ldkB f => Sys2Proof.Machine.execLdkB f s
  | .ldkE f => Sys2Proof.Machine.execLdkE f s
  | .stkB f => Sys2Proof.Machine.execStkB f s
  | .stkE f => Sys2Proof.Machine.execStkE f s
  | .ldxB f => Sys2Proof.Machine.execLdxB f s
  | .ldxE f => Sys2Proof.Machine.execLdxE f s
  | .stxB f => Sys2Proof.Machine.execStxB f s
  | .stxE f => Sys2Proof.Machine.execStxE f s
  | .ldlB f => Sys2Proof.Machine.execLdlB f s
  | .ldlE f => Sys2Proof.Machine.execLdlE f s
  | .stlB f => Sys2Proof.Machine.execStlB f s
  | .stlE f => Sys2Proof.Machine.execStlE f s
  | .ldgcB f => Sys2Proof.Machine.execLdgcB f s
  | .ldgcE f => Sys2Proof.Machine.execLdgcE f s
  | .stgcB f => Sys2Proof.Machine.execStgcB f s
  | .stgcE f => Sys2Proof.Machine.execStgcE f s
  | .pfgB f => Sys2Proof.Machine.execPfgB f s
  | .pfgE f => Sys2Proof.Machine.execPfgE f s
  | .cflush f => Sys2Proof.Machine.execCflush f s
  | .cinv f => Sys2Proof.Machine.execCinv f s
  | .cclean f => Sys2Proof.Machine.execCclean f s
  | .freeze f => Sys2Proof.Machine.execFreeze f s
  | .thaw f => Sys2Proof.Machine.execThaw f s
  | .frzq f => Sys2Proof.Machine.execFrzq f s
  | .join f => Sys2Proof.Machine.execJoin f s
  | .leave f => Sys2Proof.Machine.execLeave f s
  | .tdef f => Sys2Proof.Machine.execTdef f s
  | .tcopy f => Sys2Proof.Machine.execTcopy f s
  | .tstore f => Sys2Proof.Machine.execTstore f s
  | .tstat f => Sys2Proof.Machine.execTstat f s
  | .atomG f => Sys2Proof.Machine.execAtomG f s
  | .atomS f => Sys2Proof.Machine.execAtomS f s
  | .atomK f => Sys2Proof.Machine.execAtomK f s
  | .atomX f => Sys2Proof.Machine.execAtomX f s
  | .casG f => Sys2Proof.Machine.execCasG f s
  | .casS f => Sys2Proof.Machine.execCasS f s
  | .casK f => Sys2Proof.Machine.execCasK f s
  | .casX f => Sys2Proof.Machine.execCasX f s
  | .tmm f => Sys2Proof.Machine.execTmm f s
  | .ttask f => Sys2Proof.Machine.execTtask f s
  | .tdep f => Sys2Proof.Machine.execTdep f s
  | .azero f => Sys2Proof.Machine.execAzero f s
  | .adrain f => Sys2Proof.Machine.execAdrain f s
  | .aown f => Sys2Proof.Machine.execAown f s
  | .asave f => Sys2Proof.Machine.execAsave f s
  | .aload f => Sys2Proof.Machine.execAload f s
  | .leafcfg f => Sys2Proof.Machine.execLeafcfg f s
  | .leaf f => Sys2Proof.Machine.execLeaf f s
  | .leafFlush f => Sys2Proof.Machine.execLeafFlush f s
  | .cqray f => Sys2Proof.Machine.execCqray f s
  | .cqsph f => Sys2Proof.Machine.execCqsph f s
  | .cqbox f => Sys2Proof.Machine.execCqbox f s
  | .fwait f => Sys2Proof.Machine.execFwait f s
  | .fpoll f => Sys2Proof.Machine.execFpoll f s
  | .fdrop f => Sys2Proof.Machine.execFdrop f s
  | .hcfg f => Sys2Proof.Machine.execHcfg f s
  | .hadd f => Sys2Proof.Machine.execHadd f s
  | .hdrain f => Sys2Proof.Machine.execHdrain f s
  | .spkpop f => Sys2Proof.Machine.execSpkpop f s
  | .spkstat f => Sys2Proof.Machine.execSpkstat f s
  | .alloc f => Sys2Proof.Machine.execAlloc f s
  | .free f => Sys2Proof.Machine.execFree f s
  | .poolcfg f => Sys2Proof.Machine.execPoolcfg f s
  | .brB f => Sys2Proof.Machine.execBrB f s
  | .brE f => Sys2Proof.Machine.execBrE f s
  | .callB f => Sys2Proof.Machine.execCallB f s
  | .callE f => Sys2Proof.Machine.execCallE f s
  | .retB f => Sys2Proof.Machine.execRetB f s
  | .retE f => Sys2Proof.Machine.execRetE f s
  | .exitB f => Sys2Proof.Machine.execExitB f s
  | .exitE f => Sys2Proof.Machine.execExitE f s
  | .brxB f => Sys2Proof.Machine.execBrxB f s
  | .brxE f => Sys2Proof.Machine.execBrxE f s
  | .nopB f => Sys2Proof.Machine.execNopB f s
  | .nopE f => Sys2Proof.Machine.execNopE f s
  | .yieldB f => Sys2Proof.Machine.execYieldB f s
  | .yieldE f => Sys2Proof.Machine.execYieldE f s
  | .shflIdxB f => Sys2Proof.Machine.execShflIdxB f s
  | .shflIdxE f => Sys2Proof.Machine.execShflIdxE f s
  | .shflUpB f => Sys2Proof.Machine.execShflUpB f s
  | .shflUpE f => Sys2Proof.Machine.execShflUpE f s
  | .shflDownB f => Sys2Proof.Machine.execShflDownB f s
  | .shflDownE f => Sys2Proof.Machine.execShflDownE f s
  | .shflXorB f => Sys2Proof.Machine.execShflXorB f s
  | .shflXorE f => Sys2Proof.Machine.execShflXorE f s
  | .bcastB f => Sys2Proof.Machine.execBcastB f s
  | .bcastE f => Sys2Proof.Machine.execBcastE f s
  | .vote f => Sys2Proof.Machine.execVote f s
  | .laneq f => Sys2Proof.Machine.execLaneq f s
  | .match f => Sys2Proof.Machine.execMatch f s
  | .csrrB f => Sys2Proof.Machine.execCsrrB f s
  | .csrrE f => Sys2Proof.Machine.execCsrrE f s
  | .csrwB f => Sys2Proof.Machine.execCsrwB f s
  | .csrwE f => Sys2Proof.Machine.execCsrwE f s
  | .benrol f => Sys2Proof.Machine.execBenrol f s
  | .bjoin f => Sys2Proof.Machine.execBjoin f s
  | .bar f => Sys2Proof.Machine.execBar f s
  | .guard f => Sys2Proof.Machine.execGuard f s
  | .semp f => Sys2Proof.Machine.execSemp f s
  | .semv f => Sys2Proof.Machine.execSemv f s
  | .spawn f => Sys2Proof.Machine.execSpawn f s
  | .subtree f => Sys2Proof.Machine.execSubtree f s
  | .cancel f => Sys2Proof.Machine.execCancel f s
  | .bestmax f => Sys2Proof.Machine.execBestmax f s
  | .qpush f => Sys2Proof.Machine.execQpush f s
  | .qpop f => Sys2Proof.Machine.execQpop f s
  | .setw f => Sys2Proof.Machine.execSetw f s
  | .reduce f => Sys2Proof.Machine.execReduce f s
  | .scan f => Sys2Proof.Machine.execScan f s
  | .compact f => Sys2Proof.Machine.execCompact f s
  | .regroup f => Sys2Proof.Machine.execRegroup f s
  | .regroupFlush f => Sys2Proof.Machine.execRegroupFlush f s
  | .fence f => Sys2Proof.Machine.execFence f s
  | .xfence f => Sys2Proof.Machine.execXfence f s
  | .trap f => Sys2Proof.Machine.execTrap f s
  | .eret f => Sys2Proof.Machine.execEret f s
  | .tlbi f => Sys2Proof.Machine.execTlbi f s
  | .asidsw f => Sys2Proof.Machine.execAsidsw f s
  | .carve f => Sys2Proof.Machine.execCarve f s
  | .bkpt f => Sys2Proof.Machine.execBkpt f s
  | .halt f => Sys2Proof.Machine.execHalt f s
  | .trace f => Sys2Proof.Machine.execTrace f s
  | .instrComplete g op => Sys2Proof.Machine.execInstrComplete g op s
  | .deferredFault g => Sys2Proof.Machine.execDeferredFault g s
  | .blockEnd b => Sys2Proof.Machine.execBlockEnd b s
  | .dramScrub line e => Sys2Proof.Machine.execDramScrub line e s
  | .walkStart c => Sys2Proof.Machine.execWalkStart c s
  | .walkComplete c asid region => Sys2Proof.Machine.execWalkComplete c asid region s
  | .wcFlush c => Sys2Proof.Machine.execWcFlush c s
  | .invalidationComplete id => Sys2Proof.Machine.execInvalidationComplete id s
  | .rds r => Sys2Proof.Machine.execRds r s
  | .rdo r => Sys2Proof.Machine.execRdo r s
  | .upg r => Sys2Proof.Machine.execUpg r s
  | .rdu r => Sys2Proof.Machine.execRdu r s
  | .wru r => Sys2Proof.Machine.execWru r s
  | .atm r => Sys2Proof.Machine.execAtm r s
  | .wb c frame mask keep => Sys2Proof.Machine.execWb c frame mask keep s
  | .ack c m => Sys2Proof.Machine.execAck c m s
  | .inv c m mask => Sys2Proof.Machine.execInv c m mask s
  | .rcl c m mask keep => Sys2Proof.Machine.execRcl c m mask keep s
  | .data r gr race ue => Sys2Proof.Machine.execData r gr race ue s
  | .flt r cause sub => Sys2Proof.Machine.execFlt r cause sub s
  | .l2Watchdog frame agent age => Sys2Proof.Machine.execL2Watchdog frame agent age s
  | .hostSnoop line drop => Sys2Proof.Machine.execHostSnoop line drop s
  | .bisnpResponse r => Sys2Proof.Machine.execBisnpResponse r s
  | .cxlCacheResponse line bytes => Sys2Proof.Machine.execCxlCacheResponse line bytes s
  | .freezeAck h => Sys2Proof.Machine.execFreezeAck h s
  | .freezeSliceReport h slice => Sys2Proof.Machine.execFreezeSliceReport h slice s
  | .collect h c => Sys2Proof.Machine.execCollect h c s
  | .thawAck h => Sys2Proof.Machine.execThawAck h s
  | .gscInputDequeue core => Sys2Proof.Machine.execGscInputDequeue core s
  | .gscWindowTimeout core win => Sys2Proof.Machine.execGscWindowTimeout core win s
  | .gscReply core win frame race => Sys2Proof.Machine.execGscReply core win frame race s
  | .joinComplete g op => Sys2Proof.Machine.execJoinComplete g op s
  | .leaveComplete g op => Sys2Proof.Machine.execLeaveComplete g op s
  | .bceStart core => Sys2Proof.Machine.execBceStart core s
  | .bceComplete core id => Sys2Proof.Machine.execBceComplete core id s
  | .bceFault core id cause sub addr => Sys2Proof.Machine.execBceFault core id cause sub addr s
  | .atloadComplete core k => Sys2Proof.Machine.execAtloadComplete core k s
  | .tschAccept core => Sys2Proof.Machine.execTschAccept core s
  | .tschStart core id => Sys2Proof.Machine.execTschStart core id s
  | .matrixChunk core id => Sys2Proof.Machine.execMatrixChunk core id s
  | .enginePark core id => Sys2Proof.Machine.execEnginePark core id s
  | .drainComplete core id => Sys2Proof.Machine.execDrainComplete core id s
  | .taskComplete core id => Sys2Proof.Machine.execTaskComplete core id s
  | .batonTimeout c q => Sys2Proof.Machine.execBatonTimeout c q s
  | .batonResume c q => Sys2Proof.Machine.execBatonResume c q s
  | .leafAccept c q => Sys2Proof.Machine.execLeafAccept c q s
  | .cqeNodeRead c id => Sys2Proof.Machine.execCqeNodeRead c id s
  | .cqePark c id => Sys2Proof.Machine.execCqePark c id s
  | .relayTimeout core id => Sys2Proof.Machine.execRelayTimeout core id s
  | .relayGroupPlace core id => Sys2Proof.Machine.execRelayGroupPlace core id s
  | .spawnPlace core => Sys2Proof.Machine.execSpawnPlace core s
  | .barrierArrival g bar => Sys2Proof.Machine.execBarrierArrival g bar s
  | .phasePass g bar => Sys2Proof.Machine.execPhasePass g bar s
  | .semvAdd b k => Sys2Proof.Machine.execSemvAdd b k s
  | .stageQueuePush l k => Sys2Proof.Machine.execStageQueuePush l k s
  | .deadlineExpiry l => Sys2Proof.Machine.execDeadlineExpiry l s
  | .priorityAging g => Sys2Proof.Machine.execPriorityAging g s
  | .groupWatchdog g => Sys2Proof.Machine.execGroupWatchdog g s
  | .tsliceExpiry core => Sys2Proof.Machine.execTsliceExpiry core s
  | .groupSave g => Sys2Proof.Machine.execGroupSave g s
  | .groupRestore g => Sys2Proof.Machine.execGroupRestore g s
  | .tailLineReread q => Sys2Proof.Machine.execTailLineReread q s
  | .launchRecordRead q => Sys2Proof.Machine.execLaunchRecordRead q s
  | .blockPlace l => Sys2Proof.Machine.execBlockPlace l s
  | .launchComplete l => Sys2Proof.Machine.execLaunchComplete l s
  | .resvTakeEffect c => Sys2Proof.Machine.execResvTakeEffect c s
  | .qcfgWrite q v => Sys2Proof.Machine.execQcfgWrite q v s
  | .qptrWrite q v => Sys2Proof.Machine.execQptrWrite q v s
  | .launchCounterWrite c v => Sys2Proof.Machine.execLaunchCounterWrite c v s
  | .resvWrite c v => Sys2Proof.Machine.execResvWrite c v s
  | .mindlWrite c v => Sys2Proof.Machine.execMindlWrite c v s
  | .savePoolWrite ofs v => Sys2Proof.Machine.execSavePoolWrite ofs v s
  | .contextTableWrite asid dw v => Sys2Proof.Machine.execContextTableWrite asid dw v s
  | .cspcfgWrite v => Sys2Proof.Machine.execCspcfgWrite v s
  | .rxcfgWrite p v => Sys2Proof.Machine.execRxcfgWrite p v s
  | .txtailWrite t v => Sys2Proof.Machine.execTxtailWrite t v s
  | .txSendDescriptor t => Sys2Proof.Machine.execTxSendDescriptor t s
  | .trcfgWrite v => Sys2Proof.Machine.execTrcfgWrite v s
  | .rfrzWrite v => Sys2Proof.Machine.execRfrzWrite v s
  | .dbgstop v => Sys2Proof.Machine.execDbgstop v s
  | .dbgres v => Sys2Proof.Machine.execDbgres v s
  | .regWrite ofs v => Sys2Proof.Machine.execRegWrite ofs v s
  | .hcmdTlbiRange seq => Sys2Proof.Machine.execHcmdTlbiRange seq s
  | .hcmdTlbiAsid seq => Sys2Proof.Machine.execHcmdTlbiAsid seq s
  | .hcmdTlbiNonglobal seq => Sys2Proof.Machine.execHcmdTlbiNonglobal seq s
  | .hcmdTlbiAll seq => Sys2Proof.Machine.execHcmdTlbiAll seq s
  | .frzkill seq => Sys2Proof.Machine.execFrzkill seq s
  | .hcmdI3cTransfer seq nack bytes => Sys2Proof.Machine.execHcmdI3cTransfer seq nack bytes s
  | .attest seq sig => Sys2Proof.Machine.execAttest seq sig s
  | .idcert seq cert => Sys2Proof.Machine.execIdcert seq cert s
  | .hcmdComplete seq result => Sys2Proof.Machine.execHcmdComplete seq result s
  | .csiFrameStart p vc fnum => Sys2Proof.Machine.execCsiFrameStart p vc fnum s
  | .csiLongPacket p vc dt bad bytes => Sys2Proof.Machine.execCsiLongPacket p vc dt bad bytes s
  | .csiFrameEnd p vc => Sys2Proof.Machine.execCsiFrameEnd p vc s
  | .linkRetry => Sys2Proof.Machine.execLinkRetry s
  | .traceSample core => Sys2Proof.Machine.execTraceSample core s
  | .i3cPlimWrite v => Sys2Proof.Machine.execI3cPlimWrite v s
  | .i3cWarmReset img => Sys2Proof.Machine.execI3cWarmReset img s
  | .i3cColdReset img => Sys2Proof.Machine.execI3cColdReset img s
  | .i3cRecovWrite v => Sys2Proof.Machine.execI3cRecovWrite v s
  | .rdata bytes last sigOk => Sys2Proof.Machine.execRdata bytes last sigOk s
  | .reset img => Sys2Proof.Machine.execReset img s
  | .thermalAlert tj => Sys2Proof.Machine.execThermalAlert tj s
  | .thermalReset tj img => Sys2Proof.Machine.execThermalReset tj img s
  | .governorStep up tj pwr => Sys2Proof.Machine.execGovernorStep up tj pwr s
  | .idleEntry => Sys2Proof.Machine.execIdleEntry s
  | .retainExit => Sys2Proof.Machine.execRetainExit s
  | .sramScrub cls idx e => Sys2Proof.Machine.execSramScrub cls idx e s
  | .dramFill line e => Sys2Proof.Machine.execDramFill line e s
  | .hcmdBadOp op seq => Sys2Proof.Machine.execHcmdBadOp op seq s
  | .alertClear v => Sys2Proof.Machine.execAlertClear v s
  | .dynamicAddressAssign a => Sys2Proof.Machine.execDynamicAddressAssign a s

end Sys2Proof.Machine
end

