-- ==== Sys2Proof/Machine/Wires.lean ====
section
/-!
DEFINITION. The steps due inside the part, each the effect of the row of the opcode table that has its name.
-/

namespace Sys2Proof.Machine

open Sys2Proof

/-- What a due step does. The host answers a request for its memory with the bytes the model holds of it, and DRAM without an error. -/
def runMsg (m : Msg) (s : State) : State :=
  match m with
  | .instrComplete g op => evInstrComplete g op s
  | .deferredFault g => evDeferredFault g s
  | .blockEnd b => evBlockEnd b s
  | .walkStart c => evWalkStart c s
  | .walkComplete c asid region => evWalkComplete c asid region s
  | .wcFlush c => evWcFlush c s
  | .invalidationComplete id => evInvalidationComplete id s
  | .req r => evReq r.kind r s
  | .wb c frame mask keep => evWb c frame mask keep s
  | .ack c frame t => evAck c frame t s
  | .inv c frame mask t => evInv c frame mask t s
  | .rcl c frame mask keep t => evRcl c frame mask keep t s
  | .data r gr race ue => evData r gr race ue s
  | .flt r cause sub => evFlt r cause sub s
  | .l2Watchdog frame agent age => evL2Watchdog frame agent age s
  | .bisnpResponse line t => evBisnpResponse line [] t s
  | .cxlCacheResponse line => evCxlCacheResponse line [] s
  | .dramFill line => evDramFill line .none s
  | .freezeAck h => evFreezeAck h s
  | .freezeSliceReport h slice => evFreezeSliceReport h slice s
  | .collect h c => evCollect h c s
  | .thawAck h => evThawAck h s
  | .gscInputDequeue core => evGscInputDequeue core s
  | .gscWindowTimeout core win => evGscWindowTimeout core win s
  | .gscReply core win frame race => evGscReply core win frame race s
  | .joinComplete g op => evJoinComplete g op s
  | .leaveComplete g op => evLeaveComplete g op s
  | .bceStart core => evBceStart core s
  | .bcePart core id => evBcePart core id s
  | .bceComplete core id => evBceComplete core id s
  | .bceFault core id cause sub addr => evBceFault core id cause sub addr s
  | .atloadComplete core k => evAtloadComplete core k s
  | .tschAccept core => evTschAccept core s
  | .tschStart core id => evTschStart core id s
  | .matrixChunk core id => evMatrixChunk core id s
  | .enginePark core id => evEnginePark core id s
  | .drainComplete core id => evDrainComplete core id s
  | .taskComplete core id => evTaskComplete core id s
  | .batonTimeout c q => evBatonTimeout c q s
  | .batonResume c q => evBatonResume c q s
  | .leafAccept c q => evLeafAccept c q s
  | .cqeNodeRead c id => evCqeNodeRead c id s
  | .cqePark c id => evCqePark c id s
  | .relayTimeout core id => evRelayTimeout core id s
  | .relayGroupPlace core id => evRelayGroupPlace core id s
  | .spawnPlace core => evSpawnPlace core s
  | .barrierArrival g bar => evBarrierArrival g bar s
  | .phasePass g bar => evPhasePass g bar s
  | .semvAdd b k => evSemvAdd b k s
  | .stageQueuePush l k => evStageQueuePush l k s
  | .deadlineExpiry l => evDeadlineExpiry l s
  | .groupWatchdog g => evGroupWatchdog g s
  | .groupSave g => evGroupSave g s
  | .groupRestore g => evGroupRestore g s
  | .tailLineReread q => evTailLineReread q s
  | .launchRecordRead q => evLaunchRecordRead q s
  | .blockPlace l => evBlockPlace l s
  | .launchComplete l => evLaunchComplete l s
  | .recordDone id => evRecordDone id s
  | .resvTakeEffect c => evResvTakeEffect c s
  | .winWrite ofs v half g op => evWinWrite ofs v half g op s
  | .txSendDescriptor t => evTxSendDescriptor t s
  | .traceWrite => evTraceWrite s
  | .rxDone p id => evRxDone p id s
  | .hcmdGo seq => evHcmdGo seq s
  | .hcmdComplete seq result => evHcmdComplete seq result s
  | .eret g => eretTry s g

/-- The cluster cache to which a slice sends a message, and the frame that it concerns. -/
def Msg.channel (m : Msg) : Option (Nat × Nat) :=
  match m with
  | .inv c frame _ _ | .rcl c frame _ _ _ => some (c, frame)
  | .data r _ _ _ | .flt r _ _ => if r.agent < 16 then some (r.agent, r.frame) else none
  | _ => none
/-- A message goes before a later one: they go from one slice to one cluster cache and concern one frame (04 R71), or the later one
collects the frozen replicas of a range (03 R64) and the earlier one brings one of them, or they are requests of one agent to one frame, which its
slice takes in the order in which they were sent (04 R86). -/
def Msg.goesFirst (s : State) (a m : Msg) : Bool :=
  match m, a with
  | .collect h c, .data r .f _ _ => r.agent == c && (let e := getFz s h; (sectorMask r.frame e.pbase (16 * e.sectors) &&& r.smask) ≠ 0)
  | .req q, .req r => r.agent == q.agent && r.frame == q.frame
  | _, _ => m.channel.isSome && a.channel == m.channel
/-- A due step at a place in the list of wires, or the one that goes first. -/
def runWire (s : State) (n : Nat) : State :=
  match s.wires[n]? with
  | none => s
  | some m =>
    let k := ((List.range n).find? fun k => (s.wires[k]?).any fun a => a.goesFirst s m).getD n
    match s.wires[k]? with
    | none => s
    | some a => runMsg a { s with wires := s.wires.eraseIdx k }

end Sys2Proof.Machine
end

