-- ==== Sys2Proof/Machine/Next.lean ====
section
/-!
DEFINITION. Which step comes next (log 3) and what it runs: a given step, the header or instruction a group has come to, a step due
inside the part, or the passing of time.
-/

namespace Sys2Proof.Machine

open Sys2Proof

/-- No group stands stalled but this one. -/
def unstall (s : State) : State :=
  { s with groups := s.groups.map fun e => if e.2.stalled then (e.1, { e.2 with stalled := false }) else e }

/-- It is this group's turn. -/
def State.turn (s : State) (g : Nat) : State := { (unstall s).modGroup g fun gr => { gr with turned := s.now } with cur := g }

/-! ### The passing of time -/

/-- The part's clocks run: not in RETAIN or RECOVERY (22 R479). -/
def clocked (s : State) : Bool := powered s

/-- What falls due for launches: their deadlines (15 R372), until a finished launch only waits for its ring. -/
def dueLaunches (s : State) : State :=
  s.launches.foldl (fun s e =>
    if !e.2.done && e.2.heldAt.isNone && e.2.status == 0 && e.2.deadline.toNat ≤ s.now then s.wireOnce (.deadlineExpiry e.1) else s) s
/-- What falls due for a group: aging, the watchdog, its saving and its restoration (16 R387, R395; 17 R412). -/
def dueGroup (s : State) (g : Nat) (gr : Group) : State :=
  let wd := winNat s 0x300040 % 2 ^ 48
  let bark (s : State) : State := if wd ≠ 0 && idleFrom s gr + wd ≤ s.now then s.wireOnce (.groupWatchdog g) else s
  if gr.ended then (if pushStarved s gr then bark s else s)
  else if gr.saved then
    if wakeOk s g then (s.modGroup g fun gr => { gr with idleSince := s.now }).wireOnce (.groupRestore g) else bark s
  else
    let s := evPriorityAging g s
    let s := if gr.preempt && atBlocking s g then s.wireOnce (.groupSave g) else s
    if gr.run.isSome then bark (s.modGroup g fun gr => { gr with idleSince := s.now })
    else if goesOn s g then s.modGroup g fun gr => { gr with idleSince := s.now }
    else bark s
/-- What falls due on a core: its time slice, groups and children that wait for room (17 R411), open collector windows and the head of the
collector's queue (04 R84, R85), relay buckets (11 R267). -/
def dueCore (s : State) (c : Nat) (k : Core) : State :=
  let s := evTsliceExpiry c s
  let s := if s.groups.any fun e => e.2.core == c && waitsBind s e then bindWaiters s c else s
  let s := if k.spawn.isEmpty then s else s.wireOnce (.spawnPlace c)
  let s := (k.relay.filter (·.full)).foldl (fun s b => s.wireOnce (.relayGroupPlace c b.id)) s
  let s := k.gscWin.foldl (fun s w => if w.2.due s.now then s.wireOnce (.gscWindowTimeout c w.1) else s) s
  let s := if k.gscIn.isEmpty then s else s.wireOnce (.gscInputDequeue c)
  k.relay.foldl (fun s b => if !b.full && (b.since + 2000 ≤ s.now || blockIdle s b.block) then s.wireOnce (.relayTimeout c b.id) else s) s
/-- What falls due in a cluster: combined WC stores (02 R29). -/
def dueCluster (s : State) (c : Nat) (k : Cluster) : State :=
  if k.storeQ.any fun e => e.wc && !e.out then s.wireOnce (.wcFlush c) else s
/-- Cores are sampled once in SPER × 64 aclk (18 R434). -/
def dueSamples (s : State) (before : Nat) : State :=
  let cfg := winNat s 0x400000
  let n := 64 * bits cfg 47 32
  if !bitOf cfg 63 || n == 0 then s
  else (List.range (aclkOf s s.now / n - aclkOf s before / n)).foldl (fun s _ => (List.range 64).foldl (fun s c => evTraceSample c s) s) s

/-- TIME goes on by some ns, and what its passing makes due is due. -/
def passTime (s : State) (ns : Nat) : State :=
  let before := s.now
  let s := { s with time := s.time + BitVec.ofNat 64 ns }
  if !clocked s then evRetainExit s
  else
    let s := evCount s 1 none (aclkOf s s.now - aclkOf s before)
    let s := s.clusters.foldl (fun s e => dueCluster s e.1 e.2) s
    let s := s.cores.foldl (fun s e => dueCore s e.1 e.2) s
    let s := s.groups.foldl (fun s e => fetchKick s e.1) s
    let s := s.groups.foldl (fun s e => dueGroup s e.1 e.2) s
    let s := dueL2 (walkKick s)
    tryRetain (evIdleEntry (dueSamples (dueLaunches s) before))

/-! ### What runs -/

/-- THE NEXT INSTRUCTION OF A GROUP: the instruction its run has come to, its fetched header, or the header of the entry it
chooses, which is fetched with its run. A run holds no header word (06 R132); one whose last instruction had yet to commit ends once it has (17
R402). -/
def issueNext (s : State) (g : Nat) : Host.Outcome State Fault Refusal :=
  let s := s.turn g
  match (s.group g).run with
  | some r =>
    if (s.group g).ended || (s.group g).saved then .next s
    else if !r.issued then exec (.run r.h) s
    else if r.left == 0 then .next (if (s.group g).heldBack r.lanes then stallGroup s g false else endRun s g)
    else match decodeWords (r.words.drop r.ofs) with
      | .ok (.run _, _) => .next (badOpTrap s g)
      | .ok (i, _) => exec i s
      | .error _ => .next (badOpTrap s g)
  | none =>
    match (if canIssue s g then pickEntry s g else none) with
    | none => .next s
    | some e =>
      let f := fetchFor s (s.group g) e.hdr
      match f.bad with
      | some (c, u) => .next (headerTrap s g e c u)
      | none => if f.miss.isSome then .next s else match resumeOfs e f.words f.h.len.toNat with
        | none => .next (headerTrap s g e 1 8)
        | some _ => exec (.run f.h) (beginRun s g e f)

/-- The row is a step of an agent or of the outside world: no run header, and no instruction, which a group's run alone brings to its
issue. -/
def isEvent (i : Instr) : Bool :=
  match i with
  | .run _ => false
  | _ => i.parts.isNone

/-- One given step. -/
def runDue (s : State) (d : Due) : Host.Outcome State Fault Refusal :=
  match d with
  | .event i => match isEvent i with
    | true => exec i (unstall s)
    | false => .next s
  | .wire n => .next (runWire (unstall s) n)
  | .issue g => issueNext s g
  | .tick ns => .next (unstall (passTime s ns))

/-- The next step: the first given one; without any, a ns passes and the group that issues next and the oldest due step take
turns. -/
def nextStep (s : State) : Host.Outcome State Fault Refusal :=
  match s.agenda with
  | d :: r => runDue { s with agenda := r } d
  | [] =>
    let s := passTime s 1
    if !clocked s then .next (unstall s)
    else match pickGroup s, s.wires with
    | some g, [] => issueNext s g
    | some g, _ :: _ => if s.now % 2 == 0 then issueNext s g else .next (runWire (unstall s) 0)
    | none, _ :: _ => .next (runWire (unstall s) 0)
    | none, [] => .next (unstall s)

end Sys2Proof.Machine
end

