-- ==== Sys2Proof/Machine/Step.lean ====
section
/-!
DEFINITION. One step of the machine, and the state in which the next step runs a given instruction (log 8).
-/

namespace Sys2Proof.Machine

open Sys2Proof

/-- ONE STEP. -/
def step (s : State) : Host.Outcome State Fault Refusal := nextStep s

/-- The launch in which a placed instruction runs: one block of one group of four lanes, 256 registers, context 1. -/
def placedLaunch : Launch :=
  { Launch.reset with record := BitVec.ofNat 1024 (2 ^ 208 + 2 ^ 202 + 4 * 2 ^ 195 + 2 ^ 144 + 31 * 2 ^ 292 + 4 * 2 ^ 313) }

/-- The run a placed instruction stands in: its header names flags 0 and 1; a placed header stands before its run. -/
def placedRun (ws : List Word) : Run :=
  let hdr : Bool := llOf (ws.headD 0) == 3
  { pc := 0x1000
    h := if hdr then hFields (ws.headD 0) else { prio := 0, rgn := false, len := 1, setB := 1, setA := 0, wait := 0 }
    words := if hdr then ws.drop 1 else ws
    follow := none, issued := !hdr, mid := false, slot := 0, won := 0, ofs := 0, left := 1, lanes := 15, next := [], waits := [], retire := 0
    yield := false }

/-- The state with an instruction of `nbits` bits placed as the next one to run: a launch is accepted, its block and group placed, and
the group's run is at the instruction (log 8). -/
def State.withFetchWord (s : State) (nbits w : Nat) : State :=
  let g := s.nextId
  let gr : Group :=
    { Group.reset with
      launch := g, block := g, w := 4, phys := 4, dasid := 1, run := some (placedRun (tableWords (w % 2 ^ nbits)))
      region := [(0, 0x1000), (1, 0x1000), (2, 0x1000), (3, 0x1000)]
      regionHdr := [(0, 0x1000), (1, 0x1000), (2, 0x1000), (3, 0x1000)] }
  let s := s.setLaunch g placedLaunch
  let s := s.setBlock g { Block.reset with launch := g }
  let s := (s.setGroup g gr).modCore 0 fun c => { c with binds := tput c.binds g ([0, 1, 2, 3], 256) }
  { s with nextId := g + 1, agenda := .issue g :: s.agenda }

end Sys2Proof.Machine
end

