-- ==== Sys2Proof/Safety.lean ====
section
/-!
DEFINITION. What a well-kept state is, and when an instruction completes, in the terms the claims use: the meaning that stands behind each
opcode, the step that stands behind each agent row, and the condition on a state under which an instruction has its own effect.
-/

namespace Sys2Proof.Machine

open Sys2Proof

/-- Global memory is in its canonical form: addresses strictly rise, and no listed byte is the one an unlisted address reads as. -/
def State.MemOk (s : State) : Prop := Memory.wf s.mem

/-- A step neither stops nor refuses. -/
def Runs (s : State) : Prop := ∃ t, step s = .next t

/-- The meaning behind an instruction's opcode. -/
def meaningOf (i : Instr) : Option Meaning :=
  match i with
  | .iaddB _ => some iaddSem
  | .iaddE _ => some iaddSem
  | .isubB _ => some isubSem
  | .isubE _ => some isubSem
  | .imulB _ => some imulSem
  | .imulE _ => some imulSem
  | .imulhB _ => some imulhSem
  | .imulhE _ => some imulhSem
  | .imadB _ => some imadSem
  | .imadE _ => some imadSem
  | .iminB _ => some iminSem
  | .iminE _ => some iminSem
  | .imaxB _ => some imaxSem
  | .imaxE _ => some imaxSem
  | .iabsB _ => some iabsSem
  | .iabsE _ => some iabsSem
  | .andB _ => some andSem
  | .andE _ => some andSem
  | .orB _ => some orSem
  | .orE _ => some orSem
  | .xorB _ => some xorSem
  | .xorE _ => some xorSem
  | .andnB _ => some andnSem
  | .andnE _ => some andnSem
  | .shlB _ => some shlSem
  | .shlE _ => some shlSem
  | .shrB _ => some shrSem
  | .shrE _ => some shrSem
  | .sarB _ => some sarSem
  | .sarE _ => some sarSem
  | .notB _ => some notSem
  | .notE _ => some notSem
  | .movB _ => some movSem
  | .movE _ => some movSem
  | .liB _ => some liSem
  | .liE _ => some liSem
  | .leaB _ => some leaSem
  | .leaE _ => some leaSem
  | .iaddImmB _ => some iaddImmSem
  | .iaddImmE _ => some iaddImmSem
  | .shlImmB _ => some shlImmSem
  | .shlImmE _ => some shlImmSem
  | .shrImmB _ => some shrImmSem
  | .shrImmE _ => some shrImmSem
  | .sarImmB _ => some sarImmSem
  | .sarImmE _ => some sarImmSem
  | .andImmB _ => some andImmSem
  | .andImmE _ => some andImmSem
  | .rot _ => some rotSem
  | .bfe _ => some bfeSem
  | .bfi _ => some bfiSem
  | .popc _ => some popcSem
  | .clz _ => some clzSem
  | .brev _ => some brevSem
  | .sel _ => some selSem
  | .icmp _ => some icmpSem
  | .plop _ => some plopSem
  | .brmh _ => some brmhSem
  | .faddB _ => some faddSem
  | .faddE _ => some faddSem
  | .fsubB _ => some fsubSem
  | .fsubE _ => some fsubSem
  | .fmulB _ => some fmulSem
  | .fmulE _ => some fmulSem
  | .ffmaB _ => some ffmaSem
  | .ffmaE _ => some ffmaSem
  | .fminB _ => some fminSem
  | .fminE _ => some fminSem
  | .fmaxB _ => some fmaxSem
  | .fmaxE _ => some fmaxSem
  | .fabsB _ => some fabsSem
  | .fabsE _ => some fabsSem
  | .fnegB _ => some fnegSem
  | .fnegE _ => some fnegSem
  | .rcpB _ => some rcpSem
  | .rcpE _ => some rcpSem
  | .rsqB _ => some rsqSem
  | .rsqE _ => some rsqSem
  | .sqrtB _ => some sqrtSem
  | .sqrtE _ => some sqrtSem
  | .exp2B _ => some exp2Sem
  | .exp2E _ => some exp2Sem
  | .log2B _ => some log2Sem
  | .log2E _ => some log2Sem
  | .tanhB _ => some tanhSem
  | .tanhE _ => some tanhSem
  | .sigmB _ => some sigmSem
  | .sigmE _ => some sigmSem
  | .fcmp _ => some fcmpSem
  | .dot2 _ => some dot2Sem
  | .dot4 _ => some dot4Sem
  | .cvt _ => some cvtSem
  | .cvtsr _ => some cvtsrSem
  | .frnd _ => some frndSem
  | .rng _ => some rngSem
  | .sin _ => some sinSem
  | .cos _ => some cosSem
  | .gelu _ => some geluSem
  | .silu _ => some siluSem
  | .erf _ => some erfSem
  | .act _ => some actSem
  | .atload _ => some atloadSem
  | .atstat _ => some atstatSem
  | .ldgB _ => some ldgSem
  | .ldgE _ => some ldgSem
  | .stgB _ => some stgSem
  | .stgE _ => some stgSem
  | .ldsB _ => some ldsSem
  | .ldsE _ => some ldsSem
  | .stsB _ => some stsSem
  | .stsE _ => some stsSem
  | .ldkB _ => some ldkSem
  | .ldkE _ => some ldkSem
  | .stkB _ => some stkSem
  | .stkE _ => some stkSem
  | .ldxB _ => some ldxSem
  | .ldxE _ => some ldxSem
  | .stxB _ => some stxSem
  | .stxE _ => some stxSem
  | .ldlB _ => some ldlSem
  | .ldlE _ => some ldlSem
  | .stlB _ => some stlSem
  | .stlE _ => some stlSem
  | .ldgcB _ => some ldgcSem
  | .ldgcE _ => some ldgcSem
  | .stgcB _ => some stgcSem
  | .stgcE _ => some stgcSem
  | .pfgB _ => some pfgSem
  | .pfgE _ => some pfgSem
  | .cflush _ => some cflushSem
  | .cinv _ => some cinvSem
  | .cclean _ => some ccleanSem
  | .freeze _ => some freezeSem
  | .thaw _ => some thawSem
  | .frzq _ => some frzqSem
  | .join _ => some joinSem
  | .leave _ => some leaveSem
  | .tdef _ => some tdefSem
  | .tcopy _ => some tcopySem
  | .tstore _ => some tstoreSem
  | .tstat _ => some tstatSem
  | .atomG _ => some atomGSem
  | .atomS _ => some atomSSem
  | .atomK _ => some atomKSem
  | .atomX _ => some atomXSem
  | .casG _ => some casGSem
  | .casS _ => some casSSem
  | .casK _ => some casKSem
  | .casX _ => some casXSem
  | .tmm _ => some tmmSem
  | .ttask _ => some ttaskSem
  | .tdep _ => some tdepSem
  | .azero _ => some azeroSem
  | .adrain _ => some adrainSem
  | .aown _ => some aownSem
  | .asave _ => some asaveSem
  | .aload _ => some aloadSem
  | .leafcfg _ => some leafcfgSem
  | .leaf _ => some leafSem
  | .leafFlush _ => some leafFlushSem
  | .cqray _ => some cqraySem
  | .cqsph _ => some cqsphSem
  | .cqbox _ => some cqboxSem
  | .fwait _ => some fwaitSem
  | .fpoll _ => some fpollSem
  | .fdrop _ => some fdropSem
  | .hcfg _ => some hcfgSem
  | .hadd _ => some haddSem
  | .hdrain _ => some hdrainSem
  | .spkpop _ => some spkpopSem
  | .spkstat _ => some spkstatSem
  | .alloc _ => some allocSem
  | .free _ => some freeSem
  | .poolcfg _ => some poolcfgSem
  | .brB _ => some brSem
  | .brE _ => some brSem
  | .callB _ => some callSem
  | .callE _ => some callSem
  | .retB _ => some retSem
  | .retE _ => some retSem
  | .exitB _ => some exitSem
  | .exitE _ => some exitSem
  | .brxB _ => some brxSem
  | .brxE _ => some brxSem
  | .nopB _ => some nopSem
  | .nopE _ => some nopSem
  | .yieldB _ => some yieldSem
  | .yieldE _ => some yieldSem
  | .shflIdxB _ => some shflIdxSem
  | .shflIdxE _ => some shflIdxSem
  | .shflUpB _ => some shflUpSem
  | .shflUpE _ => some shflUpSem
  | .shflDownB _ => some shflDownSem
  | .shflDownE _ => some shflDownSem
  | .shflXorB _ => some shflXorSem
  | .shflXorE _ => some shflXorSem
  | .bcastB _ => some bcastSem
  | .bcastE _ => some bcastSem
  | .vote _ => some voteSem
  | .laneq _ => some laneqSem
  | .match _ => some matchSem
  | .csrrB _ => some csrrSem
  | .csrrE _ => some csrrSem
  | .csrwB _ => some csrwSem
  | .csrwE _ => some csrwSem
  | .benrol _ => some benrolSem
  | .bjoin _ => some bjoinSem
  | .bar _ => some barSem
  | .guard _ => some guardSem
  | .semp _ => some sempSem
  | .semv _ => some semvSem
  | .spawn _ => some spawnSem
  | .subtree _ => some subtreeSem
  | .cancel _ => some cancelSem
  | .bestmax _ => some bestmaxSem
  | .qpush _ => some qpushSem
  | .qpop _ => some qpopSem
  | .setw _ => some setwSem
  | .reduce _ => some reduceSem
  | .scan _ => some scanSem
  | .compact _ => some compactSem
  | .regroup _ => some regroupSem
  | .regroupFlush _ => some regroupFlushSem
  | .fence _ => some fenceSem
  | .xfence _ => some xfenceSem
  | .trap _ => some trapSem
  | .eret _ => some eretSem
  | .tlbi _ => some tlbiSem
  | .asidsw _ => some asidswSem
  | .carve _ => some carveSem
  | .bkpt _ => some bkptSem
  | .halt _ => some haltSem
  | .trace _ => some traceSem
  | _ => none

/-- The instruction of the current group has its own effect now: its run stands at it, no cause is found at its issue, it has an active
lane or acts without one, no fault of an earlier access rolls its lanes back, and it neither waits nor stops for the debug agent. -/
structure Issues (i : Instr) (s : State) (c : Ctx) (m : Meaning) : Prop where
  parts : i.parts = some (c.op, c.f)
  meaning : meaningOf i = some m
  ctx : issueCtx s c.op c.f = some c
  clean : issueCauses c m s = []
  active : (c.lanes == 0 && !m.always) = false
  steady : rollsBack c.gr c.entry = false
  going : m.halts c s = false
  ready : mustWait c m s = false

/-- The same as a test. -/
def issuesB (i : Instr) (s : State) : Bool :=
  match i.parts with
  | none => false
  | some (op, f) => match meaningOf i, issueCtx s op f with
    | some m, some c =>
      (issueCauses c m s).isEmpty && !(c.lanes == 0 && !m.always) && !rollsBack c.gr c.entry && !m.halts c s && !mustWait c m s
    | _, _ => false

/-- The step of an agent row. -/
def eventOf (i : Instr) : Option (State → State) :=
  match i with
  | .instrComplete g op => some (evInstrComplete g op)
  | .blockEnd b => some (evBlockEnd b)
  | .dramScrub line e => some (evDramScrub line e)
  | .walkStart c => some (evWalkStart c)
  | .walkComplete c asid region => some (evWalkComplete c asid region)
  | .wcFlush c => some (evWcFlush c)
  | .invalidationComplete id => some (evInvalidationComplete id)
  | .rds r => some (evRds r)
  | .rdo r => some (evRdo r)
  | .upg r => some (evUpg r)
  | .rdu r => some (evRdu r)
  | .wru r => some (evWru r)
  | .atm r => some (evAtm r)
  | .wb c frame mask keep => some (evWb c frame mask keep)
  | .ack c m => some (evAck c m.frame m.t)
  | .inv c m mask => some (evInv c m.frame mask m.t)
  | .rcl c m mask keep => some (evRcl c m.frame mask keep m.t)
  | .data r gr race ue => some (evData r gr race ue)
  | .flt r cause sub => some (evFlt r cause sub)
  | .l2Watchdog frame agent age => some (evL2Watchdog frame agent age)
  | .hostSnoop line drop => some (evHostSnoop line drop)
  | .bisnpResponse r => some (evBisnpResponse r.line r.bytes r.t)
  | .cxlCacheResponse line bytes => some (evCxlCacheResponse line bytes)
  | .freezeAck h => some (evFreezeAck h)
  | .freezeSliceReport h slice => some (evFreezeSliceReport h slice)
  | .collect h c => some (evCollect h c)
  | .thawAck h => some (evThawAck h)
  | .gscInputDequeue core => some (evGscInputDequeue core)
  | .gscWindowTimeout core win => some (evGscWindowTimeout core win)
  | .gscReply core win frame race => some (evGscReply core win frame race)
  | .joinComplete g op => some (evJoinComplete g op)
  | .leaveComplete g op => some (evLeaveComplete g op)
  | .bceStart core => some (evBceStart core)
  | .bceComplete core id => some (evBceComplete core id)
  | .bceFault core id cause sub addr => some (evBceFault core id cause sub addr)
  | .atloadComplete core k => some (evAtloadComplete core k)
  | .tschAccept core => some (evTschAccept core)
  | .tschStart core id => some (evTschStart core id)
  | .matrixChunk core id => some (evMatrixChunk core id)
  | .enginePark core id => some (evEnginePark core id)
  | .drainComplete core id => some (evDrainComplete core id)
  | .taskComplete core id => some (evTaskComplete core id)
  | .batonTimeout c q => some (evBatonTimeout c q)
  | .batonResume c q => some (evBatonResume c q)
  | .leafAccept c q => some (evLeafAccept c q)
  | .cqeNodeRead c id => some (evCqeNodeRead c id)
  | .cqePark c id => some (evCqePark c id)
  | .relayTimeout core id => some (evRelayTimeout core id)
  | .relayGroupPlace core id => some (evRelayGroupPlace core id)
  | .spawnPlace core => some (evSpawnPlace core)
  | .barrierArrival g bar => some (evBarrierArrival g bar)
  | .phasePass g bar => some (evPhasePass g bar)
  | .semvAdd b k => some (evSemvAdd b k)
  | .stageQueuePush l k => some (evStageQueuePush l k)
  | .deadlineExpiry l => some (evDeadlineExpiry l)
  | .priorityAging g => some (evPriorityAging g)
  | .groupWatchdog g => some (evGroupWatchdog g)
  | .tsliceExpiry core => some (evTsliceExpiry core)
  | .groupSave g => some (evGroupSave g)
  | .groupRestore g => some (evGroupRestore g)
  | .tailLineReread q => some (evTailLineReread q)
  | .launchRecordRead q => some (evLaunchRecordRead q)
  | .blockPlace l => some (evBlockPlace l)
  | .launchComplete l => some (evLaunchComplete l)
  | .resvTakeEffect c => some (evResvTakeEffect c)
  | .qcfgWrite q v => some (evQcfgWrite q v)
  | .qptrWrite q v => some (evQptrWrite q v)
  | .launchCounterWrite c v => some (evLaunchCounterWrite c v)
  | .resvWrite c v => some (evResvWrite c v)
  | .mindlWrite c v => some (evMindlWrite c v)
  | .savePoolWrite ofs v => some (evSavePoolWrite ofs v)
  | .contextTableWrite asid dw v => some (evContextTableWrite asid dw v)
  | .cspcfgWrite v => some (evCspcfgWrite v)
  | .rxcfgWrite p v => some (evRxcfgWrite p v)
  | .txtailWrite t v => some (evTxtailWrite t v)
  | .txSendDescriptor t => some (evTxSendDescriptor t)
  | .trcfgWrite v => some (evTrcfgWrite v)
  | .rfrzWrite v => some (evRfrzWrite v)
  | .dbgstop v => some (evDbgstop v)
  | .dbgres v => some (evDbgres v)
  | .regWrite ofs v => some (evRegWrite ofs v)
  | .hcmdTlbiRange seq => some (evHcmdTlbiRange seq)
  | .hcmdTlbiAsid seq => some (evHcmdTlbiAsid seq)
  | .hcmdTlbiNonglobal seq => some (evHcmdTlbiNonglobal seq)
  | .hcmdTlbiAll seq => some (evHcmdTlbiAll seq)
  | .frzkill seq => some (evFrzkill seq)
  | .hcmdI3cTransfer seq nack bytes => some (evHcmdI3cTransfer seq nack bytes)
  | .attest seq sig => some (evAttest seq sig)
  | .idcert seq cert => some (evIdcert seq cert)
  | .hcmdComplete seq result => some (evHcmdComplete seq result)
  | .csiFrameStart p vc fnum => some (evCsiFrameStart p vc fnum)
  | .csiLongPacket p vc dt bad bytes => some (evCsiLongPacket p vc dt bad bytes)
  | .csiFrameEnd p vc => some (evCsiFrameEnd p vc)
  | .linkRetry => some evLinkRetry
  | .traceSample core => some (evTraceSample core)
  | .i3cPlimWrite v => some (evI3cPlimWrite v)
  | .i3cWarmReset img => some (evI3cWarmReset img)
  | .i3cColdReset img => some (evI3cColdReset img)
  | .i3cRecovWrite v => some (evI3cRecovWrite v)
  | .rdata bytes last sigOk => some (evRdata bytes last sigOk)
  | .reset img => some (evReset img)
  | .thermalAlert tj => some (evThermalAlert tj)
  | .thermalReset tj img => some (evThermalReset tj img)
  | .governorStep up tj pwr => some (evGovernorStep up tj pwr)
  | .idleEntry => some evIdleEntry
  | .retainExit => some evRetainExit
  | .sramScrub cls idx e => some (evSramScrub cls idx e)
  | .dramFill line e => some (evDramFill line e)
  | .hcmdBadOp op seq => some (evHcmdBadOp op seq)
  | .alertClear v => some (evAlertClear v)
  | .dynamicAddressAssign a => some (evDynamicAddressAssign a)
  | .deferredFault g => some (evDeferredFault g)
  | _ => none

/-! ### Destinations of classes 00 and 01 -/

/-- Element k of operand A, B or C in a lane, as wide as the TYPE's element (08 R185; 09 R207). -/
def elemOfA (c : Ctx) (l k : Nat) : Nat := elemAt (intWidth c.f.type.toNat) (opA c (intWidth c.f.type.toNat == 64) l) k
def elemOfB (c : Ctx) (l k : Nat) : Nat := elemAt (intWidth c.f.type.toNat) (opB c (intWidth c.f.type.toNat == 64) l) k
def elemOfC (c : Ctx) (l k : Nat) : Nat := elemAt (intWidth c.f.type.toNat) (opC c (intWidth c.f.type.toNat == 64) l) k

/-- The constant that an immediate opcode gives every element: its sign for IADD, zeros for the rest (09 R208). -/
def immediateOf (i : Instr) (c : Ctx) : Option Nat :=
  match i with
  | .iaddImmB _ | .iaddImmE _ => some ((c.f.b.signExtend 64).toNat % 2 ^ intWidth c.f.type.toNat)
  | .shlImmB _ | .shlImmE _ | .shrImmB _ | .shrImmE _ | .sarImmB _ | .sarImmE _ | .andImmB _ | .andImmE _ =>
    some (c.f.b.toNat % 2 ^ intWidth c.f.type.toNat)
  | _ => none

/-- Element k of the second operand of an integer instruction. -/
def secondOf (i : Instr) (c : Ctx) (l k : Nat) : Nat := (immediateOf i c).getD (elemOfB c l k)

/-- The group's registers after an instruction that writes D alone (09 R209): every other field of the group, every other s register
and every v register of an inactive lane or of another number is as before, with its poison. -/
structure WritesOnlyD (c : Ctx) (wide : Bool) (gr : Group) : Prop where
  rest : gr = { c.gr with v := gr.v, vPois := gr.vPois, vUe := gr.vUe, s := gr.s, sPois := gr.sPois, sUe := gr.sUe }
  sKept : ∀ n, c.f.modBit 5 = false ∨ n ≠ c.f.d.toNat → gr.getS n = c.gr.getS n ∧ gr.poisS n = c.gr.poisS n
  vKept : ∀ r l, l < 64 →
    c.f.modBit 5 = true ∨ hasLane c.lanes l = false ∨
      (r ≠ vNum c.regs c.f.d.toNat ∧ (wide = true → r ≠ vNum c.regs (c.f.d.toNat + 1))) →
    gr.getV r l = c.gr.getV r l ∧ gr.poisV r l = c.gr.poisV r l

/-- D carries the poison of the operands (09 R210). -/
structure PoisonOfD (c : Ctx) (wide : Bool) (gr : Group) (pois : Nat → Bool) : Prop where
  vector : c.f.modBit 5 = false → ∀ l, hasLane c.lanes l = true →
    gr.poisV (vNum c.regs c.f.d.toNat) l = pois l ∧ (wide = true → gr.poisV (vNum c.regs (c.f.d.toNat + 1)) l = pois l)
  scalar : c.f.modBit 5 = true → c.f.d.toNat ≠ 63 → ∀ l, (lanesOf c.lanes).head? = some l → gr.poisS c.f.d.toNat = pois l

/-- Element k of D in an active lane is r l k; in the scalar half s[D] is r l 0 extended (08 R185), l the lowest active lane, and
s63 takes nothing. -/
structure ElementsOfD (c : Ctx) (sg : Bool) (w : Nat) (gr : Group) (r : Nat → Nat → Nat) : Prop where
  vector : c.f.modBit 5 = false → ∀ l k, hasLane c.lanes l = true → k < elemCount false w →
    elemAt w (regBits gr c.regs false c.f.d.toNat (w == 64) l) k = r l k % 2 ^ w
  scalar : c.f.modBit 5 = true → c.f.d.toNat ≠ 63 → ∀ l, (lanesOf c.lanes).head? = some l →
    gr.getS c.f.d.toNat = BitVec.ofNat 64 (extendTo64 sg w (r l 0 % 2 ^ w))
  hardwired : gr.getS 63 = 0

/-- The exact result of the integer arithmetic family (09 R213). -/
def exactOf (i : Instr) (a b k : Int) : Option Int :=
  match i with
  | .iaddB _ | .iaddE _ | .iaddImmB _ | .iaddImmE _ => some (a + b)
  | .isubB _ | .isubE _ => some (a - b)
  | .imulB _ | .imulE _ | .imulhB _ | .imulhE _ => some (a * b)
  | .imadB _ | .imadE _ => some (a * b + k)
  | .iminB _ | .iminE _ => some (min a b)
  | .imaxB _ | .imaxE _ => some (max a b)
  | .iabsB _ | .iabsE _ => some (if a < 0 then -a else a)
  | _ => none

/-- IMULH, whose result is the high half of the product. -/
def isImulh (i : Instr) : Bool :=
  match i with
  | .imulhB _ | .imulhE _ => true
  | _ => false

/-- The result of the logic and shift family for one element of w bits, n the shift amount (08 R201; 09 R215). -/
def logicOf (i : Instr) (c : Ctx) (w a b n : Nat) : Option Nat :=
  match i with
  | .andB _ | .andE _ | .andImmB _ | .andImmE _ => some (a &&& b)
  | .orB _ | .orE _ => some (a ||| b)
  | .xorB _ | .xorE _ => some (a ^^^ b)
  | .andnB _ | .andnE _ => some (a &&& (2 ^ w - 1 - b))
  | .notB _ | .notE _ => some (2 ^ w - 1 - a)
  | .shlB _ | .shlE _ | .shlImmB _ | .shlImmE _ => some (if n < w then a * 2 ^ n % 2 ^ w else 0)
  | .shrB _ | .shrE _ | .shrImmB _ | .shrImmE _ => some (if n < w then a / 2 ^ n else 0)
  | .sarB _ | .sarE _ | .sarImmB _ | .sarImmE _ =>
    some (if n < w then wrap w (signed w a / (2 ^ n : Nat)) else if signed w a < 0 then 2 ^ w - 1 else 0)
  | .rot _ =>
    let m := if c.f.modBit 0 then (w - n % w) % w else n % w
    some (a * 2 ^ m % 2 ^ w + a / 2 ^ (w - m))
  | _ => none

/-- The result of the counts and bit reversal (09 R218). -/
def countOf (i : Instr) (w a : Nat) : Option (Nat → Prop) :=
  match i with
  | .popc _ => some fun r => r = ((List.range w).filter fun j => a.testBit j).length
  | .clz _ => some fun r => r ≤ w ∧ (∀ j, j < w → w - r ≤ j → a.testBit j = false) ∧ (r < w → a.testBit (w - 1 - r) = true)
  | .brev _ => some fun r => ∀ j, j < w → r.testBit j = a.testBit (w - 1 - j)
  | _ => none

/-- The float instructions that add two operands, that multiply two, that subtract, and that do both. -/
def isFaddSub (i : Instr) : Bool :=
  match i with
  | .faddB _ | .faddE _ | .fsubB _ | .fsubE _ => true
  | _ => false
def isFsub (i : Instr) : Bool :=
  match i with
  | .fsubB _ | .fsubE _ => true
  | _ => false
def isFmul (i : Instr) : Bool :=
  match i with
  | .fmulB _ | .fmulE _ => true
  | _ => false
def isFfma (i : Instr) : Bool :=
  match i with
  | .ffmaB _ | .ffmaE _ => true
  | _ => false

/-- Whether the destination is a pair, of an instruction of classes 00 and 01 that writes D in the common way, or none. -/
def destWide (i : Instr) (c : Ctx) : Option Bool :=
  match i.parts with
  | none => none
  | some (op, _) =>
    if op == 0x12 then some true
    else if op < 0x30 && op ≠ 0x27 && op ≠ 0x28 && op ≠ 0x26 then some (is64 c.f.type.toNat)
    else if op == 0x26 then none
    else if op == 0x123 then none
    else if op == 0x124 then none
    else if (0x100 ≤ op && op < 0x120) || (0x121 ≤ op && op < 0x126) || (0x127 ≤ op && op ≤ 0x12C) then some false
    else none

end Sys2Proof.Machine
end

