-- ==== Sys2Proof/Certificates/Slice0/Obligations.lean ====
section
/-!
DEFINITION. The statements for the provers. Where a statement speaks of an instruction that "has its effect", it is one for which
`Issues` holds; where it rests on a choice of the model, its docstring names the log entry.
-/

open Sys2Proof Sys2Proof.Machine

/-! ### Encoding -/

/-- Words that the spec writes out decode to the instructions they stand for (06 R150 and the encoding tables of 07, 12, 14, 15, 17). -/
def Obligations.WrittenWordsDecode : Prop :=
  (∃ f, decodeWords [0x20C20400] = .ok (.iaddB f, 1) ∧ f = { g := 2, b := 3, a := 2, d := 1, h := false }) ∧
  (∃ f, decodeWords [0x40201001, 0x43000003, 0] = .ok (.iaddE f, 3) ∧ f.g0 = 4 ∧ f.g1 = 3 ∧ f.gc = 4 ∧ f.d = 1 ∧ f.a = 2 ∧ f.b = 3) ∧
  (∃ f, decodeWords [0xF0007046, 0, 0, 0x12345678, 0] = .ok (.liE f, 5) ∧ f.d = 7 ∧ f.lit = some 0x12345678) ∧
  (∃ f, decodeWords [0xF0C20480] = .ok (.iaddB f, 1) ∧ f.h = true ∧ f.d = 1 ∧ f.a = 2 ∧ f.b = 3) ∧
  (∃ f, decodeWords [0xF000030C] = .ok (.exitB f, 1) ∧ f.g = 15) ∧
  (∃ f, decodeWords [0xF0101740] = .ok (.csrrB f, 1) ∧ f.a = 0x10 ∧ f.d = 5) ∧
  (∃ f, decodeWords [0xF0064744] = .ok (.csrwB f, 1) ∧ f.a = 6 ∧ f.d = 0x11) ∧
  (∃ f, decodeWords [0xF0000DC9, 0x400, 0x04010000] = .ok (.tlbi f, 3) ∧ f.c = 4 ∧ f.modBits 1 0 = 1 ∧ f.fsel = 1) ∧
  (∃ f, decodeWords [0xF0000DC1, 7, 0] = .ok (.trap f, 3) ∧ f.b = 7) ∧
  (∃ f, decodeWords [0xF04050A5, 0x0B0A, 0x20000000] = .ok (.brmh f, 3) ∧ f.d = 5 ∧ f.a = 4 ∧ f.b = 10 ∧ f.c = 11 ∧ f.modBits 4 0 = 8)

/-- Decoding the words of a well-formed instruction or run header gives it back, with the words it occupies, whatever follows it. -/
def Obligations.DecodeOfEncodeIsTheInstruction : Prop :=
  ∀ (i : Instr) (rest : List Word), wellFormed i = true → isEvent i = false →
    decodeWords (encode i ++ rest) = .ok (i, (encode i).length)

/-- Whatever decodes has its words back: no bit of an instruction is dropped, and no step of an agent has an encoding. -/
def Obligations.EncodeOfDecodeIsTheWords : Prop :=
  ∀ (ws : List Word) (i : Instr) (n : Nat), decodeWords ws = .ok (i, n) → isEvent i = false ∧ encode i = ws.take n

/-- R122: the LL bits of the first word fix the length and the form. -/
def Obligations.LengthBitsFixTheForm : Prop :=
  ∀ (w : Word) (ws : List Word) (i : Instr) (n : Nat), decodeWords (w :: ws) = .ok (i, n) →
    (w.extractLsb' 0 2 = 0 → n = 1 ∧ ∃ op f, bInstr op f = some i) ∧
    (w.extractLsb' 0 2 = 1 → n = 3 ∧ ∃ op f, eInstr op f = some i ∧ f.lit = none) ∧
    (w.extractLsb' 0 2 = 2 → n = 5 ∧ ∃ op f w1 w2 w3 w4 r, ws = w1 :: w2 :: w3 :: w4 :: r ∧ eInstr op f = some i ∧ f.lit = some (w4 ++ w3)) ∧
    (w.extractLsb' 0 2 = 3 → n = 1 ∧ ∃ h, i = .run h)

/-- R129: a B-form executes exactly as the E-form that it means, whose guard is G, without a combining predicate, with TYPE, RND, SAT,
CACHE and SPAN 0. -/
def Obligations.BFormExecutesAsItsEForm : Prop :=
  ∀ (op : Nat) (f : BForm) (i : Instr) (s : State), bInstr op f = some i →
    ∃ j, eInstr op (bToE op f) = some j ∧ exec i s = exec j s ∧
      (bToE op f).g0 = f.g ∧ (bToE op f).gc = 0 ∧ (bToE op f).g1 = 0 ∧ (bToE op f).type = 0 ∧ (bToE op f).rnd = 0 ∧
      (bToE op f).sat = false ∧ (bToE op f).cache = 0 ∧ (bToE op f).span = 0 ∧ (bToE op f).ord = 0 ∧ (bToE op f).lit = none

/-! ### Steps -/

/-- When it is a group's turn and its run has come to words that decode to an instruction, the step is exec of that instruction. -/
def Obligations.StepRunsTheDecodedInstruction : Prop :=
  ∀ (s : State) (g : Nat) (rest : List Due) (r : Run) (i : Instr) (n : Nat),
    s.agenda = .issue g :: rest → (s.group g).run = some r → r.issued = true → r.left ≠ 0 → (s.group g).ended = false →
    (s.group g).saved = false →
    decodeWords (r.words.drop r.ofs) = .ok (i, n) → (∀ h, i ≠ .run h) →
    step s = exec i (({ s with agenda := rest } : State).turn g)

/-- A placed instruction is the one that the next step executes (the placement is the model's: log 8). -/
def Obligations.PlacedInstructionRunsNext : Prop :=
  ∀ (s : State) (nbits w : Nat) (i : Instr), decodeTableWord nbits w = some i →
    step (s.withFetchWord nbits w) = exec i (({ s.withFetchWord nbits w with agenda := s.agenda } : State).turn s.nextId)

/-- The machine never stops: every step has a next state. -/
def Obligations.EveryStepHasANextState : Prop := ∀ s : State, ∃ t, step s = .next t

/-- Every instruction that issues has its opcode's effect, and its run passes on. -/
def Obligations.InstructionHasItsEffect : Prop :=
  ∀ (i : Instr) (s : State) (c : Ctx) (m : Meaning), Issues i s c m →
    exec i s = .next (advance c (afterAct c m s (m.act c s)))

/-- An instruction with no active lane does nothing but complete: the flag it counts on counts it, and the run passes on (06 R126, R135). -/
def Obligations.NoActiveLaneDoesNothing : Prop :=
  ∀ (i : Instr) (s : State) (c : Ctx) (m : Meaning), i.parts = some (c.op, c.f) → meaningOf i = some m →
    issueCtx s c.op c.f = some c → issueCauses c m s = [] → c.lanes = 0 → m.always = false →
    exec i s = .next (advance c (s.modGroup c.g fun gr => gr.decFlag c.gr.hm c.flag))

/-- Causes found at issue are taken as a precise trap before the instruction has any effect, once no deferred fault of its lanes is due
and their register destinations are complete; an access that a watchpoint turns away leaves the records of those that log it (17 R399, R401,
R405; 18 R437). -/
def Obligations.IssueFaultsAreTakenPrecisely : Prop :=
  ∀ (i : Instr) (s : State) (c : Ctx) (m : Meaning), i.parts = some (c.op, c.f) → meaningOf i = some m →
    issueCtx s c.op c.f = some c → issueCauses c m s ≠ [] → rollsBack c.gr c.entry = false → c.gr.regPending c.entry = false →
    m.engine c s = none → exec i s = .next (trapPrecise c (issueCauses c m s) (atileOf (issueCauses c m s))
      (if (issueCauses c m s).any (fun k => k.cause == 6) then m.notes c s else s))

/-- An instruction that must wait changes nothing of its group's registers: its group stalls at it, noting since when, and whether it waits
by its own rule alone; or a cancelled group ends there (06 R133; 15 R370; 17 R402). -/
def Obligations.WaitingInstructionStalls : Prop :=
  ∀ (i : Instr) (s : State) (c : Ctx) (m : Meaning), i.parts = some (c.op, c.f) → meaningOf i = some m →
    issueCtx s c.op c.f = some c → issueCauses c m s = [] → (c.lanes == 0 && !m.always) = false → rollsBack c.gr c.entry = false →
    m.halts c s = false → mustWait c m s = true →
    (accessWait c m s = true → exec i s = .next (stallGroup s c.g false)) ∧
    (accessWait c m s = false → exec i s = .next (stallGroup (m.onStall c s) c.g true)) ∧
    ∀ (t : State) (g : Nat) (own : Bool), cancelled t (t.group g) = false → stallGroup t g own =
      t.modGroup g fun gr => { gr with stalled := true, waitsAt := own, stoodAt := some (gr.stoodAt.getD t.now) }

/-- Every step of an agent or of the outside world has its effect in every state. -/
def Obligations.EveryEventHasItsEffect : Prop :=
  ∀ (i : Instr) (s : State), isEvent i = true → ∃ F, eventOf i = some F ∧ exec i s = .next (F s)

/-- A run header issues when its run is eligible and no engine fault is due at it (06 R135; 15 R352). -/
def Obligations.EligibleRunHeaderIssues : Prop :=
  ∀ (h : HForm) (s : State) (r : Run), (s.group s.cur).run = some r → r.issued = false → headerOk h = true →
    runElig s s.cur r.pc h r.words r.mid r.ofs = .ready → (r.mid = false → dueEFault s (s.group s.cur) h.wait = none) →
    exec (.run h) s = .next (startRun s s.cur h r)

/-- What the issue of a run with a wait leaves: the waited flags are clear unless the run arms them again, and the counts the run arms
stand (06 R135). -/
def Obligations.RunHeaderClearsWaitedFlags : Prop :=
  ∀ (s : State) (h : HForm) (r : Run) (k : Nat), r.mid = false → r.ofs = 0 → r.left ≠ 0 → k < 12 →
    (s.group s.cur).hm = false → (s.group s.cur).flags.length = 12 →
    let n := ((countedFrom r.pc h r.words 0 r.left).filter fun x => x.2 == k).length
    let f := (s.group s.cur).flags.getD k FlagSt.reset
    ((startRun s s.cur h r).group s.cur).flags.getD k FlagSt.reset =
      { set := f.set && !h.wait.getLsbD k && n == 0, pend := f.pend + n }

/-- An instruction in the middle of a run passes on to the next one: but for its place in the run and the note of a wait there, nothing of
its group, no other group and no byte of memory changes, and of the register window only the counters of the recorders do. -/
def Obligations.MiddleOfARunPassesOn : Prop :=
  ∀ (c : Ctx) (s : State) (r : Run), (s.group c.g).run = some r → 2 ≤ r.left → ∃ win,
    advance c s = { s with
      win := win
      groups := tput s.groups c.g { s.group c.g with run := some { r with ofs := r.ofs + c.nw, left := r.left - 1 }, stalled := false,
                                                       waitsAt := false, stoodAt := none } } ∧
    ∀ o, (o < 0x410008 / 8 ∨ 0x420200 / 8 ≤ o) → tfind win o = tfind s.win o

/-- The end of a run changes no register of any group, nor its poison. -/
def Obligations.EndOfRunKeepsRegisters : Prop :=
  ∀ (s : State) (g h : Nat),
    ((endRun s g).group h).v = (s.group h).v ∧ ((endRun s g).group h).s = (s.group h).s ∧ ((endRun s g).group h).p = (s.group h).p ∧
    ((endRun s g).group h).vPois = (s.group h).vPois ∧ ((endRun s g).group h).sPois = (s.group h).sPois ∧
    ((endRun s g).group h).pPois = (s.group h).pPois

/-! ### Registers, integer and float instructions -/

/-- s63 reads zero and p15 reads 1 whatever is written, and no write reaches them or their poison; a write of any other register is
what the next read gives, and no other register changes (06 R113, R114). -/
def Obligations.HardwiredRegisters : Prop :=
  ∀ (gr : Group),
    (∀ x q, (gr.wrS 63 x q).s = gr.s ∧ (gr.wrS 63 x q).sPois = gr.sPois ∧ (gr.wrS 63 x q).getS 63 = 0 ∧ (gr.wrS 63 x q).poisS 63 = false) ∧
    (∀ l x q, (gr.wrP 15 l x q).p = gr.p ∧ (gr.wrP 15 l x q).pPois = gr.pPois ∧ (gr.wrP 15 l x q).poisP 15 l = false ∧
      (l < 64 → (gr.wrP 15 l x q).getP 15 l = true)) ∧
    (∀ n i x q, n < 63 → i < 64 → (gr.wrS n x q).getS i = (if i = n then x else gr.getS i) ∧
      (gr.wrS n x q).poisS i = (if i = n then q else gr.poisS i)) ∧
    (∀ n i l j x q, n < 15 → l < 64 → j < 64 →
      (gr.wrP n l x q).getP i j = (if i = n ∧ j = l then x else gr.getP i j) ∧
      (gr.wrP n l x q).poisP i j = (if i = n ∧ j = l then q else gr.poisP i j)) ∧
    (∀ n i l j x q, l < 64 → j < 64 →
      (gr.wrV n l x q).getV i j = (if i = n ∧ j = l then x else gr.getV i j) ∧
      (gr.wrV n l x q).poisV i j = (if i = n ∧ j = l then q else gr.poisV i j))

/-- R189: what a format of w bits holds. -/
def Obligations.FormatsHoldTheirRange : Prop :=
  ∀ w : Nat, 0 < w →
    (∀ v : Int, (∃ x, valOf true w x = v) ↔ -(2 ^ (w - 1) : Int) ≤ v ∧ v ≤ 2 ^ (w - 1) - 1) ∧
    (∀ v : Int, (∃ x, valOf false w x = v) ↔ 0 ≤ v ∧ v ≤ 2 ^ w - 1) ∧
    ((∃ x, valOf true 4 x = -8) ∧ (∃ x, valOf true 4 x = 7) ∧ (∃ x, valOf false 4 x = 15))

/-- R201: shift amounts and the shifts by them; a packed element takes the low 8 bits of its sub-element. -/
def Obligations.ShiftsByWholeAmounts : Prop :=
  (∀ (c : Ctx) (w n : Nat), shiftAmount c w n = if c.f.modBit 5 = false ∧ w < 32 then n % 256 else n) ∧
  (∀ w a n : Nat, 0 < w → a < 2 ^ w →
    shl w a n = (if n < w then a * 2 ^ n % 2 ^ w else 0) ∧
    shr w a n = (if n < w then a / 2 ^ n else 0) ∧
    (n < w → (sar w a n : Int) = (signed w a / (2 ^ n : Nat)) % (2 ^ w : Nat)) ∧
    (w ≤ n → sar w a n = if a.testBit (w - 1) then 2 ^ w - 1 else 0) ∧
    rotl w a n = rotl w a (n % w)) ∧
  shl 16 1 (0x0110 % 256) = 0 ∧ shl 32 1 0x100 = 0

/-- R213: one exact result per element, wrapped, or clamped under SAT; IMULH gives the high half. Every lane and element, both halves. -/
def Obligations.IntegerArithmeticResults : Prop :=
  ∀ (i : Instr) (s : State) (c : Ctx) (m : Meaning), Issues i s c m → (exactOf i 0 0 0).isSome = true →
    let w := intWidth c.f.type.toNat
    let sg := intSigned c.f.type.toNat
    ∃ gr, exec i s = .next (advance c (s.setGroup c.g gr)) ∧
      ElementsOfD c sg w gr fun l k =>
        let x := (exactOf i (valOf sg w (elemOfA c l k)) (valOf sg w (secondOf i c l k)) (valOf sg w (elemOfC c l k))).getD 0
        if isImulh i then ((x / (2 ^ w : Nat)) % (2 ^ w : Nat)).toNat
        else ((if c.f.sat then max (if sg then -(2 ^ (w - 1) : Int) else 0) (min (if sg then 2 ^ (w - 1) - 1 else 2 ^ w - 1) x) else x) %
          (2 ^ w : Nat)).toNat

/-- The logic and shift family, element by element (09 R215). -/
def Obligations.LogicAndShiftResults : Prop :=
  ∀ (i : Instr) (s : State) (c : Ctx) (m : Meaning), Issues i s c m → (logicOf i c 0 0 0 0).isSome = true →
    let w := intWidth c.f.type.toNat
    ∃ gr, exec i s = .next (advance c (s.setGroup c.g gr)) ∧
      ElementsOfD c (intSigned c.f.type.toNat) w gr fun l k =>
        (logicOf i c w (elemOfA c l k) (secondOf i c l k) (shiftAmount c w (secondOf i c l k))).getD 0

/-- Counts and bit reversal, element by element (09 R218). -/
def Obligations.CountResults : Prop :=
  ∀ (i : Instr) (s : State) (c : Ctx) (m : Meaning), Issues i s c m → (countOf i 0 0).isSome = true →
    let w := intWidth c.f.type.toNat
    ∃ gr r, exec i s = .next (advance c (s.setGroup c.g gr)) ∧ ElementsOfD c (intSigned c.f.type.toNat) w gr r ∧
      ∀ l k, ∃ Q, countOf i w (elemOfA c l k) = some Q ∧ Q (r l k)

/-- BFE and BFI, element by element: BFE gives the field of len bits from pos up, its bits at or above the element's width taken from the
field's last bit within it for a signed TYPE and zero otherwise; BFI replaces those bits of A by the low bits of B (09 R217). -/
def Obligations.BitFieldResults : Prop :=
  ∀ (f : EForm) (s : State) (c : Ctx) (m : Meaning),
    let w := intWidth c.f.type.toNat
    (Issues (.bfe f) s c m → ∃ gr r, exec (.bfe f) s = .next (advance c (s.setGroup c.g gr)) ∧
      ElementsOfD c (intSigned c.f.type.toNat) w gr r ∧
      ∀ l k, let a := elemOfA c l k
             let pos := elemOfB c l k % 256
             let len := elemOfB c l k / 256 % 256
             (∀ j, j < w → j < len → pos + j < w → (r l k).testBit j = a.testBit (pos + j)) ∧
             (len = 0 ∨ w ≤ pos → r l k = 0) ∧
             (intSigned c.f.type.toNat = true → 0 < len → pos < w → ∀ j, j < w → min len (w - pos) ≤ j →
               (r l k).testBit j = a.testBit (min (pos + len) w - 1)) ∧
             (intSigned c.f.type.toNat = false → ∀ j, (len ≤ j ∨ w ≤ pos + j) → (r l k).testBit j = false)) ∧
    (Issues (.bfi f) s c m → ∃ gr r, exec (.bfi f) s = .next (advance c (s.setGroup c.g gr)) ∧
      ElementsOfD c (intSigned c.f.type.toNat) w gr r ∧
      ∀ l k, let pos := elemOfC c l k % 256
             let len := elemOfC c l k / 256 % 256
             ∀ j, j < w → (r l k).testBit j =
               if pos ≤ j ∧ j < pos + len then (elemOfB c l k).testBit (j - pos) else (elemOfA c l k).testBit j)

/-- MOV, LI and SEL, element by element; SEL takes the poison of its condition and of the operand chosen alone (09 R219, R221). -/
def Obligations.MoveAndSelectResults : Prop :=
  ∀ (i : Instr) (s : State) (c : Ctx) (m : Meaning), Issues i s c m →
    let w := intWidth c.f.type.toNat
    let sg := intSigned c.f.type.toNat
    (((∃ f, i = .movB f) ∨ ∃ f, i = .movE f) → ∃ gr, exec i s = .next (advance c (s.setGroup c.g gr)) ∧ ElementsOfD c sg w gr (elemOfA c)) ∧
    (((∃ f, i = .liB f) ∨ ∃ f, i = .liE f) → ∃ gr, exec i s = .next (advance c (s.setGroup c.g gr)) ∧ ElementsOfD c sg w gr fun _ k =>
      match c.f.lit with
      | some x => elemAt w x.toNat k
      | none => (c.f.b.signExtend 64).toNat) ∧
    ((∃ f, i = .sel f) →
      let cond (l : Nat) : Bool := if c.f.sc then c.gr.getS c.f.c.toNat ≠ 0 else c.gr.getP c.f.c.toNat l
      ∃ gr, exec i s = .next (advance c (s.setGroup c.g gr)) ∧ WritesOnlyD c (w == 64) gr ∧
        ElementsOfD c sg w gr (fun l k => if cond l then elemOfA c l k else elemOfB c l k) ∧
        PoisonOfD c (w == 64) gr fun l =>
          (if c.f.sc then c.gr.poisS c.f.c.toNat else c.gr.poisP c.f.c.toNat l) ||
          if cond l then (useOf .r c.f.a c.f.sa (if w == 64 then 2 else 1) false).any (RegUse.pois c l)
          else c.f.lit.isNone && (useOf .r c.f.b c.f.sb (if w == 64 then 2 else 1) false).any (RegUse.pois c l))

/-- LEA writes the 64-bit sum of the base, the scaled index and the displacement (09 R220); BRMH the reduced remainder, unsigned in both
halves (09 R225). -/
def Obligations.AddressAndReductionResults : Prop :=
  ∀ (i : Instr) (s : State) (c : Ctx) (m : Meaning), Issues i s c m →
    (((∃ f, i = .leaB f) ∨ ∃ f, i = .leaE f) → ∃ gr, exec i s = .next (advance c (s.setGroup c.g gr)) ∧
      ElementsOfD c true 64 gr fun l _ =>
        let b := opB c (is64 c.f.type.toNat) l
        let x : Int := if is64 c.f.type.toNat then (b : Int) else if c.f.type = 14 then ((b % 2 ^ 32 : Nat) : Int) else signed 32 b
        let disp : Int := match c.f.lit with
          | some d => d.toInt
          | none => (c.f.e ++ c.f.c : BitVec 16).toInt
        (((opA c true l : Int) + x * (2 ^ c.f.modBits 1 0 : Nat) + disp) % (2 ^ 64 : Nat)).toNat) ∧
    ((∃ f, i = .brmh f) →
      let w := intWidth c.f.type.toNat
      ∃ gr, exec i s = .next (advance c (s.setGroup c.g gr)) ∧
        ElementsOfD c false w gr fun l _ =>
          let a := opA c (w == 64) l % 2 ^ w
          let b := opB c (w == 64) l % 2 ^ w
          let q := opC c (w == 64) l % 2 ^ w
          (((a : Int) - (a * b / 2 ^ (w + c.f.modBits 4 0) * q : Nat)) % (2 ^ w : Nat)).toNat)

/-- Every instruction of classes 00 and 01 that writes D alone leaves every other register, every inactive lane and every other field of
its group as it was, and poisons D by its operands alone (09 R209, R210). -/
def Obligations.DestinationIsAllThatChanges : Prop :=
  ∀ (i : Instr) (s : State) (c : Ctx) (m : Meaning) (wide : Bool), Issues i s c m → destWide i c = some wide →
    ∃ gr, exec i s = .next (advance c (s.setGroup c.g gr)) ∧ WritesOnlyD c wide gr ∧ PoisonOfD c wide gr (resPois c)

/-- ICMP, FCMP and PLOP write their predicates in the active lanes and nothing else; a compare reads pC before it writes, and a write to
p15 is ignored (09 R222, R223; 10 R233). -/
def Obligations.PredicateResults : Prop :=
  ∀ (i : Instr) (s : State) (c : Ctx) (m : Meaning) (t : Nat → Bool), Issues i s c m →
    let w := intWidth c.f.type.toNat
    let F := fmtOf c.f.type.toNat
    let pc (l : Nat) := c.gr.getP c.f.c.toNat l
    ((∃ f, i = .icmp f) ∧ (∀ l, t l = icmpHolds (c.f.modBits 2 0) (intSigned c.f.type.toNat) w (elemOfA c l 0) (elemOfB c l 0)) ∨
      (∃ f, i = .fcmp f) ∧ (∀ l, t l = fcmpHolds F (c.f.modBits 2 0) (opA c false l % 2 ^ F.width) (opB c false l % 2 ^ F.width)) →
      ∃ gr, exec i s = .next (advance c (s.setGroup c.g gr)) ∧ gr = { c.gr with p := gr.p, pPois := gr.pPois, pUe := gr.pUe } ∧
        (∀ n l, l < 64 → hasLane c.lanes l = false ∨ (n ≠ c.f.d.toNat ∧ n ≠ c.f.e.toNat) ∨ n = 15 →
          gr.getP n l = c.gr.getP n l ∧ gr.poisP n l = c.gr.poisP n l) ∧
        (∀ l, hasLane c.lanes l = true → c.f.d ≠ 15 → gr.getP c.f.d.toNat l =
          (match c.f.modBits 4 3 with
          | 0 => t l
          | 1 => pc l && t l
          | _ => pc l || t l)) ∧
        (∀ l, hasLane c.lanes l = true → c.f.e ≠ 15 → gr.getP c.f.e.toNat l =
          (match c.f.modBits 4 3 with
          | 0 => !t l
          | 1 => pc l && !t l
          | _ => pc l || !t l)) ∧
        (∀ n l, n ≠ 15 → n = c.f.d.toNat ∨ n = c.f.e.toNat → hasLane c.lanes l = true →
          gr.poisP n l = ((useOf .r c.f.a c.f.sa (if is64 c.f.type.toNat then 2 else 1) false).any (RegUse.pois c l) ||
            (c.f.lit.isNone && (useOf .r c.f.b c.f.sb (if is64 c.f.type.toNat then 2 else 1) false).any (RegUse.pois c l)) ||
            (c.f.modBits 4 3 ≠ 0 && c.gr.poisP c.f.c.toNat l)))) ∧
    ((∃ f, i = .plop f) →
      ∃ gr, exec i s = .next (advance c (s.setGroup c.g gr)) ∧ gr = { c.gr with p := gr.p, pPois := gr.pPois, pUe := gr.pUe } ∧
        (∀ n l, l < 64 → hasLane c.lanes l = false ∨ n ≠ c.f.d.toNat ∨ n = 15 →
          gr.getP n l = c.gr.getP n l ∧ gr.poisP n l = c.gr.poisP n l) ∧
        (∀ l, hasLane c.lanes l = true → c.f.d ≠ 15 →
          gr.getP c.f.d.toNat l = c.f.e.toNat.testBit ((if c.gr.getP c.f.a.toNat l then 4 else 0) +
            (if c.gr.getP c.f.b.toNat l then 2 else 0) + (if pc l then 1 else 0)) ∧
          gr.poisP c.f.d.toNat l = (c.gr.poisP c.f.a.toNat l || c.gr.poisP c.f.b.toNat l || c.gr.poisP c.f.c.toNat l)))

/-- FABS and FNEG change the sign alone, of a NaN too; FMIN and FMAX give the first NaN made quiet, else the operand that is smaller or
larger with −0 below +0 (10 R231). -/
def Obligations.FloatSignAndOrderResults : Prop :=
  ∀ (i : Instr) (s : State) (c : Ctx) (m : Meaning), Issues i s c m →
    let F := fmtOf c.f.type.toNat
    let w := F.width
    let a (l k : Nat) := elemAt w (opA c false l) k
    let b (l k : Nat) := elemAt w (opB c false l) k
    (((∃ f, i = .fabsB f) ∨ ∃ f, i = .fabsE f) → ∃ gr, exec i s = .next (advance c (s.setGroup c.g gr)) ∧
      ElementsOfD c false w gr fun l k => a l k % 2 ^ (w - 1)) ∧
    (((∃ f, i = .fnegB f) ∨ ∃ f, i = .fnegE f) → ∃ gr, exec i s = .next (advance c (s.setGroup c.g gr)) ∧
      ElementsOfD c false w gr fun l k => if (a l k).testBit (w - 1) then a l k - 2 ^ (w - 1) else a l k + 2 ^ (w - 1)) ∧
    (((∃ f, i = .fminB f) ∨ (∃ f, i = .fminE f)) → ∃ gr r, exec i s = .next (advance c (s.setGroup c.g gr)) ∧ ElementsOfD c false w gr r ∧
      ∀ l k, (F.isNan (a l k) = true → r l k = quiet F (a l k)) ∧
        (F.isNan (a l k) = false → F.isNan (b l k) = true → r l k = quiet F (b l k)) ∧
        (F.isNan (a l k) = false → F.isNan (b l k) = false →
          (r l k = a l k ∨ r l k = b l k) ∧ magKey F (r l k) ≤ magKey F (a l k) ∧ magKey F (r l k) ≤ magKey F (b l k))) ∧
    (((∃ f, i = .fmaxB f) ∨ (∃ f, i = .fmaxE f)) → ∃ gr r, exec i s = .next (advance c (s.setGroup c.g gr)) ∧ ElementsOfD c false w gr r ∧
      ∀ l k, (F.isNan (a l k) = true → r l k = quiet F (a l k)) ∧
        (F.isNan (a l k) = false → F.isNan (b l k) = true → r l k = quiet F (b l k)) ∧
        (F.isNan (a l k) = false → F.isNan (b l k) = false →
          (r l k = a l k ∨ r l k = b l k) ∧ magKey F (a l k) ≤ magKey F (r l k) ∧ magKey F (b l k) ≤ magKey F (r l k)))

/-- FADD, FSUB, FMUL and FFMA give the first NaN operand made quiet, in the order A, B, C; no NaN operand, they give the exact result of
their sum of products rounded once in the instruction's mode, or a created NaN where there is none (08 R198, R199; 10 R231). -/
def Obligations.FloatArithmeticResults : Prop :=
  ∀ (i : Instr) (s : State) (c : Ctx) (m : Meaning), Issues i s c m →
    let F := fmtOf c.f.type.toNat
    let w := F.width
    let a (l k : Nat) := elemAt w (opA c false l) k
    let b (l k : Nat) := elemAt w (opB c false l) k
    let x (l k : Nat) := elemAt w (opC c false l) k
    (isFaddSub i || isFmul i || isFfma i) = true → ∃ gr r, exec i s = .next (advance c (s.setGroup c.g gr)) ∧ ElementsOfD c false w gr r ∧
      ∀ l k,
        (F.isNan (a l k) = true → r l k = quiet F (a l k)) ∧
        (F.isNan (a l k) = false → F.isNan (b l k) = true → r l k = quiet F (b l k)) ∧
        (isFfma i = true → F.isNan (a l k) = false → F.isNan (b l k) = false → F.isNan (x l k) = true → r l k = quiet F (x l k)) ∧
        (F.isNan (a l k) = false → F.isNan (b l k) = false → (isFfma i = true → F.isNan (x l k) = false) →
          (isFaddSub i = true → r l k = match sumTerms c.rnd [F.val (a l k), if isFsub i then (F.val (b l k)).neg else F.val (b l k)] with
            | some v => v.encode F c.rnd c.f.sat
            | none => createdNan F l c.pc.toNat) ∧
          ((isFmul i || isFfma i) = true → r l k = match (F.val (a l k)).mul (F.val (b l k)) with
            | none => createdNan F l c.pc.toNat
            | some p => match sumTerms c.rnd (p :: (if isFfma i then [F.val (x l k)] else [])) with
              | some v => v.encode F c.rnd c.f.sat
              | none => createdNan F l c.pc.toNat))

/-! ### Cross-lane instructions -/

/-- SHFL and BCAST: an active lane's D takes the value and poison that v[A] has before the instruction in its source lane, n and the width
giving that lane; every source lane may be inactive; n's poison joins; BCAST.S extends the value into s[D] (11 R258, R259). -/
def Obligations.ShuffleResults : Prop :=
  ∀ (i : Instr) (s : State) (c : Ctx) (m : Meaning) (src : Nat → Nat), Issues i s c m →
    let W := c.gr.w
    let wide := is64 c.f.type.toNat
    let n (l : Nat) : Nat := if c.f.modBit 1 then c.f.b.toNat else if c.f.sb then (c.gr.getS c.f.b.toNat).toNat % 2 ^ 32
      else (c.gr.getV (vNum c.regs c.f.b.toNat) l).toNat
    let np (l : Nat) : Bool := !c.f.modBit 1 && if c.f.sb then c.gr.poisS c.f.b.toNat else c.gr.poisV (vNum c.regs c.f.b.toNat) l
    let from' (l : Nat) : Nat := regBits c.gr c.regs false c.f.a.toNat wide l
    let fromP (l : Nat) : Bool := c.gr.poisV (vNum c.regs c.f.a.toNat) l || (wide && c.gr.poisV (vNum c.regs (c.f.a.toNat + 1)) l)
    (((∃ f, i = .shflIdxB f) ∨ ∃ f, i = .shflIdxE f) ∧ (∀ l, src l = n l % W) ∨
      ((∃ f, i = .shflUpB f) ∨ ∃ f, i = .shflUpE f) ∧
        (∀ l, src l = if c.f.modBit 0 ∧ l < n l then l else (((l : Int) - n l) % (W : Int)).toNat) ∨
      ((∃ f, i = .shflDownB f) ∨ ∃ f, i = .shflDownE f) ∧ (∀ l, src l = if c.f.modBit 0 ∧ W ≤ l + n l then l else (l + n l) % W) ∨
      ((∃ f, i = .shflXorB f) ∨ ∃ f, i = .shflXorE f) ∧ (∀ l, src l = (l ^^^ n l) % W) →
      ∃ gr, exec i s = .next (advance c (s.setGroup c.g gr)) ∧ WritesOnlyD c wide gr ∧
        PoisonOfD c wide gr (fun l => fromP (src l) || np l) ∧
        ∀ l, hasLane c.lanes l = true → regBits gr c.regs false c.f.d.toNat wide l = from' (src l)) ∧
    ((∃ f, i = .bcastB f) ∨ (∃ f, i = .bcastE f) →
      let x := (if c.f.modBit 1 then c.f.b.toNat else (c.gr.getS c.f.b.toNat).toNat) % W
      ∃ gr, exec i s = .next (advance c (s.setGroup c.g gr)) ∧ WritesOnlyD c wide gr ∧
        PoisonOfD c wide gr (fun _ => fromP x || (!c.f.modBit 1 && c.gr.poisS c.f.b.toNat)) ∧
        (c.f.modBit 5 = false → ∀ l, hasLane c.lanes l = true → regBits gr c.regs false c.f.d.toNat wide l = from' x) ∧
        (c.f.modBit 5 = true → c.f.d.toNat ≠ 63 → gr.getS c.f.d.toNat =
          if wide then BitVec.ofNat 64 (from' x)
          else if c.f.type = 0 then (BitVec.ofNat 32 (from' x)).signExtend 64 else BitVec.ofNat 64 (from' x)))

/-- VOTE over the active lanes, LANEQ over those whose pC is 1 (11 R260). -/
def Obligations.VoteAndQueryResults : Prop :=
  ∀ (i : Instr) (s : State) (c : Ctx) (m : Meaning), Issues i s c m →
    let q (l : Nat) : Prop := c.gr.getP c.f.a.toNat l = !c.f.modBit 2
    let act (l : Nat) : Prop := hasLane c.lanes l = true
    let M := (lanesOf c.lanes).filter fun l => c.gr.getP c.f.c.toNat l
    ((∃ f, i = .vote f) → ∃ gr, exec i s = .next (advance c (s.setGroup c.g gr)) ∧
      gr = { c.gr with p := gr.p, pPois := gr.pPois, pUe := gr.pUe, s := gr.s, sPois := gr.sPois, sUe := gr.sUe } ∧
      (c.f.modBits 1 0 = 3 → gr.p = c.gr.p ∧ (∀ n, n ≠ c.f.d.toNat → gr.getS n = c.gr.getS n) ∧
        (c.f.d.toNat ≠ 63 → ∀ l, l < 64 → ((gr.getS c.f.d.toNat).getLsbD l = true ↔ act l ∧ q l))) ∧
      (c.f.modBits 1 0 ≠ 3 → gr.s = c.gr.s ∧
        (∀ n l, l < 64 → n ≠ c.f.d.toNat ∨ hasLane c.lanes l = false → gr.getP n l = c.gr.getP n l) ∧
        (c.f.d.toNat ≠ 15 → ∀ l, act l → (gr.getP c.f.d.toNat l = true ↔
          (c.f.modBits 1 0 = 0 ∧ ∀ x, act x → q x) ∨ (c.f.modBits 1 0 = 1 ∧ ∃ x, act x ∧ q x) ∨
          (c.f.modBits 1 0 = 2 ∧ ((∀ x, act x → q x) ∨ ∀ x, act x → ¬q x)))))) ∧
    ((∃ f, i = .laneq f) → ∃ gr, exec i s = .next (advance c (s.setGroup c.g gr)) ∧ WritesOnlyD c false gr ∧
      (c.f.modBit 5 = false → ∀ l, act l → (gr.getV (vNum c.regs c.f.d.toNat) l).toNat =
        match c.f.modBits 1 0 with
        | 0 => (M.filter (· < l)).length
        | 1 => M.length
        | _ => M.headD 0xFFFFFFFF) ∧
      (c.f.modBit 5 = true → c.f.d.toNat ≠ 63 →
        (c.f.modBits 1 0 = 1 → gr.getS c.f.d.toNat = BitVec.ofNat 64 M.length) ∧
        (c.f.modBits 1 0 = 2 → gr.getS c.f.d.toNat = if M = [] then BitVec.allOnes 64 else BitVec.ofNat 64 (M.headD 0)) ∧
        (c.f.modBits 1 0 = 3 → ∀ l, l < 64 → ((gr.getS c.f.d.toNat).getLsbD l = true ↔ l ∈ M))))

/-- Integer addition over the active lanes: SCAN gives each active lane the sum up to it, without its own input under .EXCL; REDUCE in
either order gives every active lane, or s[D], the sum of all (11 R261 to R263). -/
def Obligations.AdditionOverLanes : Prop :=
  ∀ (i : Instr) (s : State) (c : Ctx) (m : Meaning), Issues i s c m → c.f.modBits 3 0 = 0 → c.gr.w ≤ 64 →
    (∀ l, hasLane c.lanes l = true → l < c.gr.w) →
    let wide := is64 c.f.type.toNat
    let w := if wide then 64 else 32
    let x (l : Nat) : Nat := regBits c.gr c.regs false c.f.a.toNat wide l
    let sum (ls : List Nat) : Nat := (ls.map x).sum % 2 ^ w
    ((∃ f, i = .scan f) → ∃ gr, exec i s = .next (advance c (s.setGroup c.g gr)) ∧ WritesOnlyD c wide gr ∧
      ∀ l, hasLane c.lanes l = true → regBits gr c.regs false c.f.d.toNat wide l =
        sum ((lanesOf c.lanes).filter fun k => if c.f.modBit 4 then k < l else k ≤ l)) ∧
    ((∃ f, i = .reduce f) → ∃ gr, exec i s = .next (advance c (s.setGroup c.g gr)) ∧ WritesOnlyD c wide gr ∧
      (c.f.modBit 5 = false → ∀ l, hasLane c.lanes l = true →
        regBits gr c.regs false c.f.d.toNat wide l = sum (lanesOf c.lanes)) ∧
      (c.f.modBit 5 = true → c.f.d.toNat ≠ 63 → gr.getS c.f.d.toNat =
        if wide then BitVec.ofNat 64 (sum (lanesOf c.lanes))
        else if c.f.type = 0 then (BitVec.ofNat 32 (sum (lanesOf c.lanes))).signExtend 64
        else BitVec.ofNat 64 (sum (lanesOf c.lanes))))

/-! ### Control flow and synchronization -/

/-- Where the active lanes go at the end of their run: BR and CALL to the target, relative in words or absolute in the literal form, RET and
BRX to the address in A; CALL links to the word after it; the lanes of an EXIT retire (15 R354 to R356). -/
def Obligations.BranchResults : Prop :=
  ∀ (i : Instr) (s : State) (c : Ctx) (m : Meaning), Issues i s c m →
    let target : DWord := match c.f.lit with
      | some x => x
      | none => c.pc + 4 * (c.f.e ++ c.f.c ++ c.f.b : BitVec 24).signExtend 64
    let moves (dest : Nat → DWord) (nx : Sp DWord) : Prop := ∀ l, tfind nx l = if hasLane c.lanes l then some (dest l) else tfind c.r.next l
    ((∃ f, i = .brB f) ∨ (∃ f, i = .brE f) → ∃ nx, moves (fun _ => target) nx ∧
      exec i s = .next (advance c (s.setGroup c.g { c.gr with run := some { c.r with next := nx } }))) ∧
    ((∃ f, i = .retB f) ∨ (∃ f, i = .retE f) ∨ (∃ f, i = .brxB f) ∨ (∃ f, i = .brxE f) →
      ∃ nx, moves (fun l => BitVec.ofNat 64 (regBits c.gr c.regs c.f.sa c.f.a.toNat true l)) nx ∧
        exec i s = .next (advance c (s.setGroup c.g { c.gr with run := some { c.r with next := nx } }))) ∧
    ((∃ f, i = .callB f) ∨ (∃ f, i = .callE f) → ∃ nx gr, moves (fun _ => target) nx ∧
      gr = { c.gr with run := some { c.r with next := nx }, v := gr.v, vPois := gr.vPois, vUe := gr.vUe } ∧
      (∀ l, hasLane c.lanes l = true →
        regBits gr c.regs false c.f.d.toNat true l = (c.pc + BitVec.ofNat 64 (4 * c.nw)).toNat) ∧
      (∀ r l, l < 64 → hasLane c.lanes l = false ∨ (r ≠ vNum c.regs c.f.d.toNat ∧ r ≠ vNum c.regs (c.f.d.toNat + 1)) →
        gr.getV r l = c.gr.getV r l) ∧
      exec i s = .next (advance c (s.setGroup c.g gr))) ∧
    ((∃ f, i = .exitB f) ∨ (∃ f, i = .exitE f) →
      exec i s = .next (advance c (s.setGroup c.g { c.gr with run := some { c.r with retire := c.r.retire ||| c.lanes } }))) ∧
    ((∃ f, i = .nopB f) ∨ (∃ f, i = .nopE f) → exec i s = .next (advance c (s.setGroup c.g c.gr))) ∧
    ((∃ f, i = .yieldB f) ∨ (∃ f, i = .yieldE f) →
      exec i s = .next (advance c (s.setGroup c.g { c.gr with run := some { c.r with yield := true } })))

/-- BENROL adds the active lanes to a join barrier; BJOIN makes those of them that are members arrive and wait at the end of the run, and
leaves the others alone (15 R357). -/
def Obligations.JoinBarrierResults : Prop :=
  ∀ (i : Instr) (s : State) (c : Ctx) (m : Meaning), Issues i s c m → c.gr.jb.length = 8 →
    let k := c.f.c.toNat
    let b := c.gr.jb.getD k { m := 0, a := 0 }
    ((∃ f, i = .benrol f) → ∃ jb, exec i s = .next (advance c (s.setGroup c.g { c.gr with jb := jb })) ∧ jb.length = 8 ∧
      jb.getD k { m := 0, a := 0 } = { b with m := b.m ||| c.lanes } ∧
      ∀ j, j ≠ k → jb.getD j { m := 0, a := 0 } = c.gr.jb.getD j { m := 0, a := 0 }) ∧
    ((∃ f, i = .bjoin f) → ∃ jb ws, exec i s = .next (advance c (s.setGroup c.g { c.gr with jb := jb, run := some { c.r with waits := ws } })) ∧
      jb.getD k { m := 0, a := 0 } = { b with a := b.a ||| (c.lanes &&& b.m) } ∧
      (∀ j, j ≠ k → jb.getD j { m := 0, a := 0 } = c.gr.jb.getD j { m := 0, a := 0 }) ∧
      ws = if c.lanes &&& b.m = 0 then c.r.waits else c.r.waits ++ [(.join k, c.lanes &&& b.m)])

/-- Phases are compared modulo 2^32: with k phases complete, phase q is complete exactly when it is one of the last 2^31 before k. BAR.PH
gives the count of completed phases; BAR.WAIT makes its entry wait at the end of the run for the phase in s[A], or, where that is complete, only
drops what the barrier guards and moves the interval (15 R360 to R362). -/
def Obligations.BarrierPhases : Prop :=
  (∀ k q : Nat, q < k → k ≤ q + 2 ^ 31 → phaseComplete k (BitVec.ofNat 32 q) = true) ∧
  (∀ k q : Nat, k ≤ q → q < k + 2 ^ 31 → phaseComplete k (BitVec.ofNat 32 q) = false) ∧
  ∀ (f : EForm) (s : State) (c : Ctx) (m : Meaning), Issues (.bar f) s c m →
    let b := barRef c.gr (s.block c.gr.block) (c.f.modBits 3 2) c.f.c.toNat
    (c.f.modBits 1 0 = 3 → exec (.bar f) s = .next (advance c (s.setGroup c.g
      (c.gr.wrS c.f.d.toNat (BitVec.ofNat 64 ((getBar s b).k % 2 ^ 32)) false)))) ∧
    (c.f.modBits 1 0 = 1 →
      let q : BitVec 32 := (c.gr.getS c.f.a.toNat).setWidth 32
      (phaseComplete (getBar s b).k q = false → exec (.bar f) s = .next (advance c (s.setGroup c.g { c.gr with run := some { c.r with
        waits := c.r.waits ++ [(.phase b q 0 false, c.entry)] } }))) ∧
      (phaseComplete (getBar s b).k q = true → exec (.bar f) s = .next (advance c
        ((guardDrop s (clusterOf c.gr.core) (getBar s b).guards).modGroup c.g fun gr => gr.nextIv 1))))

/-- BESTMAX: the active lanes' scores and data enter the launch's pair in ascending order, at once when nothing of the group or of what it can
have read is outstanding, or else when its completion comes; its lanes pass to a new region. The best score becomes the largest of it and
theirs, signed, with the data of the lowest lane that has it, and a tie keeps the pair; steps that come after a cancellation or the deadline are
dropped (14 R330; 15 R372, R373; 17 R400). -/
def Obligations.BestmaxResult : Prop :=
  (∀ (f : EForm) (s : State) (c : Ctx) (m : Meaning), Issues (.bestmax f) s c m → c.gr.ended = false →
    let xs := (lanesOf c.lanes).map fun l => (opA c false l, opB c false l)
    let after (gr : Group) : Group := gr.enterRegion c.entry (c.pc + BitVec.ofNat 64 (4 * c.nw)) (nextHdr c)
    let idle : Prop := earlier c.gr = [] ∧ ∀ e ∈ (s.cluster (clusterOf c.gr.core)).storeQ, e.wc = true ∨ s.nextId ≤ e.id
    let late : Prop := cancelled s c.gr = true ∨ (s.launch c.gr.launch).deadline.toNat ≤ s.time.toNat
    (idle → ¬late → exec (.bestmax f) s = .next (advance c ((s.setLaunch c.gr.launch (bestSteps (s.launch c.gr.launch) xs)).setGroup c.g
      (after (c.gr.decFlag c.gr.hm c.flag))))) ∧
    (idle → late → exec (.bestmax f) s = .next (advance c (s.setGroup c.g (after (c.gr.decFlag c.gr.hm c.flag))))) ∧
    (earlier c.gr ≠ [] → ∃ p : Pend, p.op = c.op ∧ p.addrs = xs ∧ p.flag = c.flag ∧ p.after = earlier c.gr ∧
      exec (.bestmax f) s = .next (advance c ({ s with
        nextId := s.nextId + 1, wires := s.wires ++ [.instrComplete c.g p.id]
        groups := tput s.groups c.g (after { c.gr with pend := c.gr.pend ++ [p] }) })))) ∧
  (∀ (s : State) (g : Nat) (p : Pend), (s.group g).afterOk p = true → drainOk s g p = true →
    bestStep s g p = finishPend (if bestLate s (s.group g) then s
      else s.modLaunch (s.group g).launch fun la => bestSteps la p.addrs) g p.id) ∧
  ∀ (la : Launch) (xs : List (Nat × Nat)),
    let nl := bestSteps la xs
    let score (x : Nat × Nat) : Word := BitVec.ofNat 32 x.1
    nl = { la with bestScore := nl.bestScore, bestData := nl.bestData } ∧
    la.bestScore.toInt ≤ nl.bestScore.toInt ∧ (∀ x ∈ xs, (score x).toInt ≤ nl.bestScore.toInt) ∧
    ((∀ x ∈ xs, (score x).toInt ≤ la.bestScore.toInt) → nl.bestScore = la.bestScore ∧ nl.bestData = la.bestData) ∧
    (∀ a x b, xs = a ++ x :: b → score x = nl.bestScore → la.bestScore.toInt < (score x).toInt →
      (∀ y ∈ a, (score y).toInt < (score x).toInt) → nl.bestData = BitVec.ofNat 32 x.2)

/-- SEMP takes a token when there is one and nobody waits; otherwise its entry waits behind the others (15 R364). -/
def Obligations.SemaphoreTakesATokenOrWaits : Prop :=
  ∀ (f : EForm) (s : State) (c : Ctx) (m : Meaning), Issues (.semp f) s c m →
    let k := c.f.c.toNat
    let sem := getSem s c.gr.block k
    let t := (m.act c s).1
    exec (.semp f) s = .next (advance c (afterAct c m s (m.act c s))) ∧
    (sem.count ≠ 0 → sem.waiting = [] → (getSem t c.gr.block k).count = sem.count - 1 ∧ (getSem t c.gr.block k).waiting = [] ∧
      (t.group c.g).run = some c.r) ∧
    (sem.count = 0 ∨ sem.waiting ≠ [] → (getSem t c.gr.block k).count = sem.count ∧
      (getSem t c.gr.block k).waiting = sem.waiting ++ [(c.g, c.entry)] ∧
      (t.group c.g).run = some { c.r with waits := c.r.waits ++ [(.sem k 0, c.entry)] })

/-! ### Control registers, privilege, traps -/

/-- What CSRR reads and CSRW writes: a group register goes to s[D] whole; LANEID by CSRR.V to each lane's D; CSRW can only bring the deadline
forward, and sets the index of the capability list (06 R119; 17 R416, R417). -/
def Obligations.ControlRegisterResults : Prop :=
  ∀ (i : Instr) (s : State) (c : Ctx) (m : Meaning), Issues i s c m →
    let n := c.f.b.toNat + 256 * c.f.c.toNat
    let x := c.gr.getS c.f.a.toNat
    let la := s.launch c.gr.launch
    let val : Option DWord := match n with
      | 0x001 => some (BitVec.ofNat 64 c.gr.w)
      | 0x006 => some (BitVec.ofNat 64 c.gr.subtree)
      | 0x010 => some s.time
      | 0x011 => some la.deadline
      | 0x013 => some (BitVec.ofNat 64 (c.gr.best.getD la.bestData).toNat)
      | 0x031 => some (BitVec.ofNat 64 c.gr.capsel.toNat)
      | 0x100 => some (BitVec.ofNat 64 ((if ctxPriv s (s.ctxOf c.gr) then 2 else 0) + if c.gr.hm then 1 else 0))
      | 0x106 => some (BitVec.ofNat 64 c.gr.dasid)
      | 0x107 => some (BitVec.ofNat 64 c.gr.rgncnt.toNat)
      | _ => none
    ((∃ f, i = .csrrB f) ∨ (∃ f, i = .csrrE f) →
      (∀ v, val = some v → c.f.modBit 0 = false → exec i s = .next (advance c (s.setGroup c.g (c.gr.wrS c.f.d.toNat v false)))) ∧
      (n = 0x012 → c.f.modBit 0 = false → exec i s = .next (advance c (s.setGroup c.g
        (({ c.gr with best := some la.bestData }).wrS c.f.d.toNat (BitVec.ofNat 64 la.bestScore.toNat) false)))) ∧
      (n = 0 → c.f.modBit 0 = true → ∃ gr, exec i s = .next (advance c (s.setGroup c.g gr)) ∧
        gr = { c.gr with v := gr.v, vPois := gr.vPois, vUe := gr.vUe } ∧
        ∀ r l, l < 64 → (gr.getV r l).toNat = if r = vNum c.regs c.f.d.toNat ∧ hasLane c.lanes l = true then l else (c.gr.getV r l).toNat)) ∧
    ((∃ f, i = .csrwB f) ∨ (∃ f, i = .csrwE f) →
      (n = 0x011 → ∃ t, exec i s = .next (advance c t) ∧ t.mem = s.mem ∧ t.win = s.win ∧ t.group c.g = c.gr ∧
        t.launch c.gr.launch = { la with deadline := if x.toNat < la.deadline.toNat then x else la.deadline } ∧
        ((t.launch c.gr.launch).deadline.toNat ≤ s.time.toNat → .deadlineExpiry c.gr.launch ∈ t.wires)) ∧
      (n = 0x031 → exec i s = .next (advance c (s.setGroup c.g { c.gr with capsel := x.setWidth 13 }))))

/-- A privileged action without its privilege takes PRIVILEGE: TLBI, ASIDSW, CARVE, HALT and POOLCFG outside handler mode on every lane, whatever
the guard, a CSRR of 0x100 to 0x1FF on the lowest active one, and ERET outside handler mode takes ILLEGAL, NOT_HANDLER (06 R150; 17 R415). -/
def Obligations.PrivilegeIsChecked : Prop :=
  ∀ (i : Instr) (s : State) (c : Ctx) (m : Meaning), i.parts = some (c.op, c.f) → meaningOf i = some m → issueCtx s c.op c.f = some c →
    illegalSub c.op c.f c.regs c.flag.isSome = none → rollsBack c.gr c.entry = false → c.gr.regPending c.entry = false →
    c.gr.hm = false →
    let taken (cause sub l : Nat) : Prop := ∃ cs, exec i s = .next (trapPrecise c cs (atileOf cs) s) ∧
      ∃ k ∈ cs, k.lane = l ∧ k.cause = cause ∧ k.sub = sub
    (ctxPriv s (s.ctxOf c.gr) = false →
      (((∃ f, i = .tlbi f) ∨ (∃ f, i = .asidsw f) ∨ (∃ f, i = .carve f) ∨ (∃ f, i = .halt f) ∨ ∃ f, i = .poolcfg f) →
        ∀ l, hasLane c.entry l = true → taken 2 0 l) ∧
      (((∃ f, i = .csrrB f) ∨ ∃ f, i = .csrrE f) → 0x100 ≤ csrNum c → csrNum c ≤ 0x1FF →
        ∀ l, (lanesOf c.lanes).head? = some l → taken 2 0 l)) ∧
    ((∃ f, i = .eret f) → ∀ l, hasLane c.lanes l = true → taken 1 0x1C l)

/-- ASIDSW gives the old data ASID and installs the new one (17 R423); HALT makes its entry stand at the HALT blocking point at the end of
the run (17 R425); ERET makes its lanes stand at it (17 R420). -/
def Obligations.SystemInstructionResults : Prop :=
  ∀ (f : EForm) (s : State) (c : Ctx) (m : Meaning),
    (Issues (.asidsw f) s c m → exec (.asidsw f) s = .next (advance c (s.setGroup c.g
      (({ c.gr with dasid := (c.gr.getS c.f.a.toNat).toNat }).wrS c.f.d.toNat (BitVec.ofNat 64 c.gr.dasid) false)))) ∧
    (Issues (.halt f) s c m → exec (.halt f) s = .next (advance c (s.setGroup c.g
      { c.gr with run := some { c.r with waits := c.r.waits ++ [(.halt, c.entry)] } }))) ∧
    (Issues (.eret f) s c m → exec (.eret f) s = .next (advance c (s.setGroup c.g
      { c.gr with run := some { c.r with waits := c.r.waits ++ [(.eret, c.lanes)] } })))

/-- TRAP traps every active lane with its code; BKPT too, but with BKDBG set and an agent attached it stops the group (17 R419). -/
def Obligations.TrapAndBreakpointEffects : Prop :=
  ∀ (f : EForm) (s : State) (c : Ctx), issueCtx s c.op c.f = some c → c.lanes ≠ 0 → rollsBack c.gr c.entry = false →
    c.gr.regPending c.entry = false →
    ((Instr.trap f).parts = some (c.op, c.f) → commonCauses c trapSem s = [] →
      exec (.trap f) s = .next (trapPrecise c ((lanesOf c.lanes).map fun l => { lane := l, cause := 19, sub := c.f.b.toNat, addr := 0 }) none s)) ∧
    ((Instr.bkpt f).parts = some (c.op, c.f) → commonCauses c bkptSem s = [] →
      (bkdbg c s = false → exec (.bkpt f) s =
        .next (trapPrecise c ((lanesOf c.lanes).map fun l => { lane := l, cause := 20, sub := c.f.b.toNat, addr := 0 }) none s)) ∧
      (bkdbg c s = true → exec (.bkpt f) s = .next (stopAt c s)))

/-- R398: the primary cause and its subcode, and each lane's own cause. -/
def Obligations.PrimaryCauseOfAVector : Prop :=
  ∀ cs : List LaneCause,
    (∀ k ∈ cs, (primary cs).1 ≤ k.cause) ∧
    (cs ≠ [] → ∃ k ∈ cs, primary cs = (k.cause, k.sub) ∧ ∀ j ∈ cs, j.cause = k.cause → k.lane ≤ j.lane) ∧
    (∀ l, (∀ k ∈ cs, k.lane ≠ l) → (laneCause cs l).cause = 0) ∧
    (∀ l, (∃ k ∈ cs, k.lane = l) → laneCause cs l ∈ cs ∧ (laneCause cs l).lane = l ∧ ∀ k ∈ cs, k.lane = l → (laneCause cs l).cause ≤ k.cause)

/-- Taking a trap with a handler to take it: HM is set, the handler flags are set with nothing pending, the trap lanes are one entry at TVEC
with no pass, and the group's other lanes pause; the stores of the trap's frame at TFRAME are under way, in pieces of 16 bytes that are the
model's (17 R405, R406; log 92). -/
def Obligations.TrapEntersTheHandler : Prop :=
  ∀ (s : State) (g : Nat) (t : TrapInfo), (s.group g).hm = false → bitOf (ctxDw s (s.ctxOf (s.group g)) 1) 0 = true →
    let s1 := causesTrigger s t.causes
    let a := tframe s1 (s.group g)
    frameBad s1 (s.group g).core (s.ctxOf (s.group g)) a true = none →
    let gr := (takeTrap s g t).group g
    let vec : DWord := BitVec.ofNat 64 (ctxDw s (s.ctxOf (s.group g)) 1 % 2 ^ 56 / 4 * 4)
    gr.hm = true ∧ gr.hflags = List.replicate 12 { set := true, pend := 0 } ∧ gr.run = none ∧ gr.held = [] ∧
    (∃ e, gr.entries = [e] ∧ e.pc = vec ∧ e.hdr = vec ∧ e.mask = t.lanes ∧ e.pass = 0 ∧ e.waits = []) ∧
    (∃ k, gr.trap = some k ∧ k.lanes = t.lanes ∧ k.kind = t.kind ∧ k.frame = a) ∧
    (∀ e ∈ (s.group g).entries, (e.mask &&& ~~~ t.lanes) ≠ 0 → ∃ p ∈ gr.paused, p.pc = e.pc ∧ p.hdr = e.hdr ∧ p.waits = e.waits ∧
      p.mask = e.mask &&& ~~~ t.lanes) ∧
    ∃ p ∈ gr.pend, p.frame = some (.save (primary t.causes).1 (primary t.causes).2) ∧ .instrComplete g p.id ∈ (takeTrap s g t).wires ∧
      p.addrs = ((List.range 512).map fun i => (i, a + 16 * i)) ∧
      p.vals = (List.range 512).map fun i =>
        (i, frameDword s (s.group g) t (2 * i) + 2 ^ 64 * frameDword s (s.group g) t (2 * i + 1))

/-- A fault in handler mode, or without TVEC.EN, ends the group; so does a frame that cannot be written, found out at once or by one of its
stores later (17 R405, R409). -/
def Obligations.TrapWithoutHandlerEndsTheGroup : Prop :=
  (∀ (s : State) (g : Nat) (t : TrapInfo),
    let s1 := causesTrigger s t.causes
    ((s.group g).hm = true ∨ bitOf (ctxDw s (s.ctxOf (s.group g)) 1) 0 = false ∨
      (frameBad s1 (s.group g).core (s.ctxOf (s.group g)) (tframe s1 (s.group g)) true).isSome = true) →
    ((takeTrap s g t).group g).ended = true) ∧
  ∀ (s : State) (g id : Nat) (p : Pend) (use : FrameUse) (causes : List LaneCause), (s.group g).findPend id = some p →
    p.frame = some use → ((deferFault s g id causes).group g).ended = true

/-- The return from a trap: when every handler lane stands at ERET and no store to the frame is under way, the frame is read, in
pieces that are the model's (log 92); with what it holds, HM is 0, the region count goes on, s56 to s62 come from it, and p0 to p14 of each lane that
returns (17 R420). -/
def Obligations.ReturnRestoresFromTheFrame : Prop :=
  (∀ (s : State) (g : Nat) (t : TrapCtx), (s.group g).trap = some t → eretReady (s.group g) = true →
    (s.group g).pend.any (fun p => p.frame == some .restore) = false → frameStores (s.group g) t = false →
    frameBad s (s.group g).core (s.ctxOf (s.group g)) t.frame false = none →
    ∃ p ∈ ((eretTry s g).group g).pend, p.frame = some .restore ∧ .instrComplete g p.id ∈ (eretTry s g).wires ∧
      p.addrs = (List.range 512).map fun i => (i, t.frame + 16 * i)) ∧
  ∀ (s : State) (g : Nat) (t : TrapCtx) (fr : List Nat), (s.group g).trap = some t →
    let gr := (returnFromTrap s g fr).group g
    gr.hm = false ∧ gr.trap = none ∧ gr.rgncnt = (s.group g).rgncnt + 1 ∧
    (∀ j, j < 7 → gr.getS (56 + j) = BitVec.ofNat 64 (fr.getD (256 + j) 0) ∧ gr.poisS (56 + j) = (fr.getD 263 0).testBit j) ∧
    (∀ k l, k < 15 → l < 64 → gr.getP k l =
      if hasLane (t.lanes &&& (s.group g).live) l then (fr.getD (208 + k) 0).testBit l else (s.group g).getP k l)

/-- A pending instruction that completes counts on the flag it selected: PEND falls by one, and SET is 1 when none is left (06 R135). -/
def Obligations.CompletionCountsOnItsFlag : Prop :=
  ∀ (s : State) (g id k : Nat) (p : Pend), (s.group g).findPend id = some p → p.flag = some k → k < 12 → p.hm = false →
    (s.group g).flags.length = 12 →
    let gr := (finishPend s g id).group g
    let f := (s.group g).flags.getD k FlagSt.reset
    gr.flags.getD k FlagSt.reset = { set := f.set || f.pend ≤ 1, pend := f.pend - 1 } ∧
    (∀ j, j ≠ k → gr.flags.getD j FlagSt.reset = (s.group g).flags.getD j FlagSt.reset) ∧ gr.findPend id = none ∧
    gr.v = (s.group g).v ∧ gr.s = (s.group g).s ∧ gr.p = (s.group g).p

/-! ### Memory and the on-chip spaces -/

/-- Physical memory: bytes read as written, little-endian numbers too; every other byte, the register window and the canonical form are
kept (00 R5). -/
def Obligations.MemoryReadsWhatWasWritten : Prop :=
  ∀ (s : State) (pa : Nat) (b : List Byte),
    (∀ j, j < b.length → isWindow (pa + j) = false → physByte (physWrite s pa b) (pa + j) = b.getD j 0) ∧
    (∀ i, (i < pa ∨ pa + b.length ≤ i) → physByte (physWrite s pa b) i = physByte s i) ∧
    (physWrite s pa b).win = s.win ∧ (s.MemOk → (physWrite s pa b).MemOk) ∧
    ∀ x n, (∀ j, j < n → isWindow (pa + j) = false) → leNat (physRead (physWrite s pa (leBytes x n)) pa n) = x % 2 ^ (8 * n)

/-- A queued store that is performed writes its own bytes, and every other byte of memory is as before (07 R166; 14 R327). -/
def Obligations.PerformedStoreWritesItsBytes : Prop :=
  ∀ (s : State) (c : Nat) (e : StoreEnt), trising e.bytes = true →
    ∀ a, peek (performStore s c e).mem a = (tfind e.bytes a).getD (peek s.mem a)

/-- A global access with an address outside bits [55:0] faults with XLATE_ABSENT, ADDR_NONCANON before any translation (02 R24; 07 R160). -/
def Obligations.NoncanonicalAddressFaults : Prop :=
  ∀ (i : Instr) (s : State) (c : Ctx) (m : Meaning) (l : Nat), i.parts = some (c.op, c.f) → meaningOf i = some m →
    issueCtx s c.op c.f = some c →
    ((∃ f, i = .ldgB f) ∨ (∃ f, i = .ldgE f) ∨ (∃ f, i = .stgB f) ∨ (∃ f, i = .stgE f) ∨ (∃ f, i = .atomG f) ∨ ∃ f, i = .casG f) →
    illegalSub c.op c.f c.regs c.flag.isSome = none → rollsBack c.gr c.entry = false → c.gr.regPending c.entry = false →
    hasLane c.lanes l = true → 2 ^ 56 ≤ memAddr c l →
    ∃ cs, exec i s = .next (trapPrecise c cs (atileOf cs) (if cs.any (fun k => k.cause == 6) then watchLog c s else s)) ∧
      ∃ k ∈ cs, k.lane = l ∧ k.cause = 8 ∧ k.sub = 1 ∧ k.addr = memAddr c l

/-- An access to an explicit space: unaligned it faults with MISALIGNED; beyond the allocation or the window's length with BOUNDS; a window
slot that no block has held gives SHARE_REVOKED, EMPTY, and one no longer held SHARE_REVOKED; otherwise the access lands at its offset in the
allocation of its own block, of the slot's block, of its launch or of its lane (05 R92, R95, R97). -/
def Obligations.ExplicitSpaceBounds : Prop :=
  ∀ (s : State) (gr : Group) (a n lane : Nat), 0 < n →
    let core := (s.block gr.block).spSize
    let chip := (s.launch gr.launch).xSize
    let lp := recLpR (s.recOf gr)
    let member := shareSlot s (s.block gr.block) (a / 2 ^ 22)
    let o := a % 2 ^ 22
    (∀ sp, sp = 1 ∨ sp = 2 ∨ sp = 3 ∨ sp = 4 → a % n ≠ 0 → locate s gr sp a n lane = .error (3, 0)) ∧
    (∀ sp size, (sp = 1 ∧ size = core) ∨ (sp = 3 ∧ size = chip) ∨ (sp = 4 ∧ size = lp) → a % n = 0 → size < a + n →
      locate s gr sp a n lane = .error (4, 0)) ∧
    (a % n = 0 → 2 ^ 24 ≤ a → locate s gr 2 a n lane = .error (4, 0)) ∧
    (a % n = 0 → a < 2 ^ 24 → member = none → locate s gr 2 a n lane = .error (5, 1)) ∧
    (∀ k, a % n = 0 → a < 2 ^ 24 → member = some k → (k.held = false ∨ k.revoked = true) → locate s gr 2 a n lane = .error (5, 0)) ∧
    (∀ k, a % n = 0 → a < 2 ^ 24 → member = some k → k.held = true → k.revoked = false →
      locate s gr 2 a n lane = if k.len < o + n then .error (4, 0)
        else .ok (.core (s.block k.block).core ((s.block k.block).spBase + k.base + o))) ∧
    (a % n = 0 → a + n ≤ core → a < 2 ^ 22 → locate s gr 1 a n lane = .ok (.core gr.core ((s.block gr.block).spBase + a))) ∧
    (a % n = 0 → a + n ≤ chip → a < 2 ^ 26 → locate s gr 3 a n lane = .ok (.chip ((s.launch gr.launch).xBase + a))) ∧
    (a % n = 0 → a + n ≤ lp → a < 2 ^ 11 → locate s gr 4 a n lane = .ok (.lp lane a))

/-- A store to an explicit space writes its own bytes at its place and no other byte of that space, of another core, of another lane, of the
chip scratchpad or of memory (05 R90; 07 R166). -/
def Obligations.ExplicitStoreWritesItsBytes : Prop :=
  ∀ (s : State) (g core base n x : Nat),
    (let t := locWrite s g (.core core base) x n
     t.mem = s.mem ∧ t.groups = s.groups ∧ t.chip.bytes = s.chip.bytes ∧ (∀ k, k ≠ core → (t.core k).sp = (s.core k).sp) ∧
     (∀ a, a < base ∨ base + n ≤ a → peek (t.core core).sp a = peek (s.core core).sp a) ∧ locRead t g (.core core base) n = x % 2 ^ (8 * n)) ∧
    (let t := locWrite s g (.chip base) x n
     t.mem = s.mem ∧ t.groups = s.groups ∧ (∀ k, (t.core k).sp = (s.core k).sp) ∧
     (∀ a, a < base ∨ base + n ≤ a → peek t.chip.bytes a = peek s.chip.bytes a) ∧ locRead t g (.chip base) n = x % 2 ^ (8 * n)) ∧
    ∀ lane o, lane < 64 → o + n ≤ 2048 →
      let t := locWrite s g (.lp lane o) x n
      t.mem = s.mem ∧ t.chip.bytes = s.chip.bytes ∧ (∀ k, (t.core k).sp = (s.core k).sp) ∧ (∀ h, h ≠ g → t.group h = s.group h) ∧
      (∀ l i, l < 64 → i < 2048 → (l ≠ lane ∨ i < o ∨ o + n ≤ i) → locRead t g (.lp l i) 1 = locRead s g (.lp l i) 1) ∧
      locRead t g (.lp lane o) n = x % 2 ^ (8 * n)

/-- Issuing a load, store or atomic of an explicit space only makes it pending, with the address of every active lane: no register, no byte
of memory or of a scratchpad changes yet (07 R160, R166; 06 R136). -/
def Obligations.ExplicitAccessIsPendingAtIssue : Prop :=
  ∀ (i : Instr) (s : State) (c : Ctx) (m : Meaning), Issues i s c m → c.gr.ended = false →
    ((∃ f, i = .ldsB f) ∨ (∃ f, i = .ldsE f) ∨ (∃ f, i = .stsB f) ∨ (∃ f, i = .stsE f) ∨ (∃ f, i = .ldkB f) ∨ (∃ f, i = .ldkE f) ∨
      (∃ f, i = .stkB f) ∨ (∃ f, i = .stkE f) ∨ (∃ f, i = .ldxB f) ∨ (∃ f, i = .ldxE f) ∨ (∃ f, i = .stxB f) ∨ (∃ f, i = .stxE f) ∨
      (∃ f, i = .ldlB f) ∨ (∃ f, i = .ldlE f) ∨ (∃ f, i = .stlB f) ∨ (∃ f, i = .stlE f) ∨ (∃ f, i = .atomS f) ∨ (∃ f, i = .atomK f) ∨
      (∃ f, i = .atomX f) ∨ (∃ f, i = .casS f) ∨ (∃ f, i = .casK f) ∨ ∃ f, i = .casX f) →
    ∃ p : Pend, p.op = c.op ∧ p.pc = c.pc ∧ p.lanes = c.lanes ∧ p.flag = c.flag ∧ p.res = [] ∧
      p.addrs = ((lanesOf c.lanes).map fun l => (l, memAddr c l)) ∧
      (isStore c.op = true → p.vals = (lanesOf c.lanes).map fun l => (l, storeData c l)) ∧
      exec i s = .next (advance c ({ s with
        nextId := s.nextId + 1, wires := s.wires ++ [.instrComplete c.g p.id]
        groups := tput s.groups c.g { c.gr with pend := c.gr.pend ++ [p], haz := c.gr.haz ++ hazOf c (regUses c.op c.f) } }))

/-- A load of an explicit space that is performed, its bytes without a race or an error tag, gives each lane that has not exited the bytes at its
place, little-endian, a byte or half word extended as MOD[3] says, without poison; no other register of the group and no byte of memory or of a
scratchpad changes (07 R166; 11 R256). -/
def Obligations.ExplicitLoadResults : Prop :=
  ∀ (s : State) (g id sp : Nat) (p : Pend), (s.group g).findPend id = some p → spaceOf p.op = some sp → 1 ≤ sp →
    isLoad p.op = true → isAtomic p.op = false → p.aux = 0 → (sp = 4 → (s.core (s.group g).core).carving = none) →
    (s.group g).afterOk p = true → drainOk s g p = true → spaceMeets s g p = ([], []) →
    let gr := s.group g
    let dest (j : Nat) : Nat := vNum (s.regsOf gr) (p.f.d.toNat + j)
    let goes (x : Piece) : Prop := hasLane p.entry x.lane = true ∧ hasLane gr.exited x.lane = false ∧ x.lane < gr.w
    gr.w ≤ 64 → (p.pieces.Pairwise fun x y => x.lane ≠ y.lane) →
    (∀ x ∈ p.pieces, ∀ i j, i < j → j < dataRegs x.len → dest i ≠ dest j) →
    ∃ t, exec (.instrComplete g id) s = .next t ∧ t.mem = s.mem ∧ t.chip = s.chip ∧ (∀ k, t.core k = s.core k) ∧
      (t.group g).s = gr.s ∧ (t.group g).p = gr.p ∧ (t.group g).findPend id = none ∧
      (∀ n l, l < 64 → (∀ x ∈ p.pieces, goes x → x.lane = l → ∀ j, j < dataRegs x.len → n ≠ dest j) →
        (t.group g).getV n l = gr.getV n l ∧ (t.group g).poisV n l = gr.poisV n l) ∧
      ∀ x ∈ p.pieces, goes x → ∀ j, j < dataRegs x.len →
        let b := locRead s g x.loc x.len
        let y : Nat := if x.len < 4 ∧ p.f.modBit 3 = true then (signed (8 * x.len) b % (2 ^ 32 : Nat)).toNat else b
        ((t.group g).getV (dest j) x.lane).toNat = y / 2 ^ (32 * j) % 2 ^ 32 ∧ (t.group g).poisV (dest j) x.lane = false

/-- The operations of ATOM and CAS on an old value and an operand of n bytes (07 R180). -/
def Obligations.AtomicOperations : Prop :=
  ∀ (n o x lane pc : Nat), n = 4 ∨ n = 8 → o < 2 ^ (8 * n) → x < 2 ^ (8 * n) →
    let w := 8 * n
    atomOp 0 n o x lane pc = (o + x) % 2 ^ w ∧
    signed w (atomOp 1 n o x lane pc) = min (signed w o) (signed w x) ∧
    signed w (atomOp 2 n o x lane pc) = max (signed w o) (signed w x) ∧
    atomOp 3 n o x lane pc = min o x ∧ atomOp 4 n o x lane pc = max o x ∧
    (∀ j, (atomOp 5 n o x lane pc).testBit j = (o.testBit j && x.testBit j) ∧
      (atomOp 6 n o x lane pc).testBit j = (o.testBit j || x.testBit j) ∧
      (atomOp 7 n o x lane pc).testBit j = (o.testBit j != x.testBit j)) ∧
    atomOp 8 n o x lane pc = x ∧ atomOp 9 n o x lane pc = (if x ≤ o then 0 else o + 1) ∧
    ∀ (op : Nat) (f : EForm) (new : Nat), 0x254 ≤ op → atomicNew op f n o x new lane pc = if o = x then some new else none

/-! ### Dependence counters, management, reset -/

/-- TDEP reads its counter into s[D] and then sets it, from an immediate of 8 bits, the literal or s[B], or adds to it a signed number from one of
these, with saturation at both ends; of its group nothing but s[D] changes, and no other counter of its core and no byte of memory (12 R283,
R294). -/
def Obligations.DependenceCounterResults : Prop :=
  ∀ (f : EForm) (s : State) (c : Ctx) (m : Meaning), Issues (.tdep f) s c m →
    let k := c.f.c.toNat
    let d := getDc s c.gr.core k
    let word : DWord := BitVec.ofNat 64 (d.asid * 2 ^ 32 + (if d.under then 2 ^ 16 else 0) + d.value)
    let v : Nat := match c.f.lit with
      | some x => x.toNat % 2 ^ 16
      | none => if c.f.modBit 1 then c.f.b.toNat else (c.gr.getS c.f.b.toNat).toNat % 2 ^ 16
    let delta : Int := match c.f.lit with
      | some x => x.toInt
      | none => if c.f.modBit 1 then c.f.b.toInt else (c.gr.getS c.f.b.toNat).toInt
    let t := (m.act c s).1
    exec (.tdep f) s = .next (advance c (afterAct c m s (m.act c s))) ∧
    t.group c.g = c.gr.wrS c.f.d.toNat word false ∧ t.mem = s.mem ∧
    (∀ j, j ≠ k → getDc t c.gr.core j = getDc s c.gr.core j) ∧
    (c.f.modBit 0 = false → getDc t c.gr.core k = { asid := s.ctxOf c.gr, under := false, value := v }) ∧
    (c.f.modBit 0 = true → (getDc t c.gr.core k).asid = d.asid ∧
      ((getDc t c.gr.core k).value : Int) = max 0 (min 65535 ((d.value : Int) + delta)) ∧
      ((getDc t c.gr.core k).under = true ↔ d.under = true ∨ (d.value : Int) + delta < 0))

/-- The management port: PLIM takes a write clamped to 180 to 320, ALERT clears the bits written 1, and nothing else changes (22 R474). -/
def Obligations.ManagementRegisterWrites : Prop :=
  ∀ (s : State) (v : BitVec 16) (a : BitVec 7),
    (∃ x : BitVec 16, exec (.i3cPlimWrite v) s = .next { s with dev := { s.dev with plim := x } } ∧
      x.toNat = if v.toNat < 180 then 180 else if 320 < v.toNat then 320 else v.toNat) ∧
    (∃ x : BitVec 16, exec (.alertClear v) s = .next { s with dev := { s.dev with alert := x } } ∧
      ∀ j, j < 16 → x.getLsbD j = (s.dev.alert.getLsbD j && !v.getLsbD j)) ∧
    exec (.dynamicAddressAssign a) s = .next { s with dev := { s.dev with dyn := some a } }

/-- R115: the state in which a group starts, in a step that places it. -/
def Obligations.GroupStartsClear : Prop :=
  ∀ (s : State) (x : Start),
    let r := startGroup s x
    let gr := r.1.group r.2
    (∀ n l, l < 64 → gr.getV n l = 0 ∧ gr.poisV n l = false) ∧
    (∀ n l, n ≠ 15 → l < 64 → gr.getP n l = false ∧ gr.poisP n l = false) ∧
    (∀ n, gr.getS n = (if n = 0 then x.arg else 0) ∧ gr.poisS n = false) ∧
    gr.flags = List.replicate 12 { set := true, pend := 0 } ∧
    (∀ k l, k < 16 → l < 64 → tget Fut.reset gr.fut (64 * k + l) = Fut.reset) ∧ Fut.reset.st = .empty ∧
    gr.jb = List.replicate 8 { m := 0, a := 0 } ∧ gr.hm = false ∧ gr.pend = [] ∧ gr.dasid = recCtx (s.launch x.launch).record

/-- The state after reset: nothing is placed, launched or due, TIME is 0 by the model's choice (log 2), and the registers have the values
the spec gives for reset: WDOG (16 R395), PLIM, RECOV, RSTAT and ALERT (22 R474), and MINDL (16 R383); the carving of every core is the
model's choice (log 12). -/
def Obligations.ResetValues : Prop :=
  State.reset.groups = [] ∧ State.reset.blocks = [] ∧ State.reset.launches = [] ∧ State.reset.wires = [] ∧ State.reset.mem = [] ∧
  State.reset.time = 0 ∧ winNat State.reset 0x300040 % 2 ^ 48 = 100000000 ∧
  State.reset.dev.plim = 320 ∧ State.reset.dev.recov = 0 ∧ State.reset.dev.rstat = 0 ∧ State.reset.dev.alert = 0 ∧
  (∀ core, (State.reset.core core).carve = 4) ∧ winNat State.reset 0x300008 % 2 ^ 32 = 10000 ∧ State.reset.dev.tail = [] ∧
  (∀ c, tget 0 State.reset.dev.resv c = 0) ∧ State.reset.MemOk

/-- Every step keeps the canonical form of global memory: addresses rise strictly, and no listed byte is the one an unlisted address reads
as. -/
def Obligations.EveryStepKeepsMemoryCanonical : Prop := ∀ s t : State, s.MemOk → step s = .next t → t.MemOk
end

