-- ==== Sys2Proof/Laws/Table.lean ====
section
/-!
SUPPORT. The laws of sparse tables: a read after a write, and the canonical form that every write keeps.
-/

namespace Sys2Proof.Machine

open Sys2Proof

variable {α : Type}

/-- A write is read back. -/
@[simp] theorem tfind_tput_same (t : Sp α) (k : Nat) (v : α) : tfind (tput t k v) k = some v := by
  induction t with
  | nil => simp [tput, tfind]
  | cons e r ih =>
    obtain ⟨j, w⟩ := e
    simp only [tput]
    split
    · simp [tfind]
    · split
      · simp [tfind]
      · rename_i h1 h2
        simp only [tfind, if_neg (Ne.symm h2)]
        exact ih

/-- A write leaves every other key alone. -/
theorem tfind_tput_ne (t : Sp α) {k i : Nat} (v : α) (h : i ≠ k) : tfind (tput t k v) i = tfind t i := by
  induction t with
  | nil => simp [tput, tfind, Ne.symm h]
  | cons e r ih =>
    obtain ⟨j, w⟩ := e
    simp only [tput]
    split
    · simp [tfind, Ne.symm h]
    · split
      · rename_i h2
        subst h2
        simp [tfind, Ne.symm h]
      · simp only [tfind]
        split
        · rfl
        · exact ih

/-- A removed key has no value. -/
@[simp] theorem tfind_tdel_same (t : Sp α) (k : Nat) : tfind (tdel t k) k = none := by
  induction t with
  | nil => simp [tdel, tfind]
  | cons e r ih =>
    obtain ⟨j, w⟩ := e
    simp only [tdel]
    split
    · exact ih
    · rename_i h
      simp only [tfind, if_neg h]
      exact ih

/-- A removal leaves every other key alone. -/
theorem tfind_tdel_ne (t : Sp α) {k i : Nat} (h : i ≠ k) : tfind (tdel t k) i = tfind t i := by
  induction t with
  | nil => simp [tdel]
  | cons e r ih =>
    obtain ⟨j, w⟩ := e
    simp only [tdel]
    split
    · rename_i hj
      subst hj
      simp only [tfind, if_neg (Ne.symm h)]
      exact ih
    · simp only [tfind]
      split
      · rfl
      · exact ih

@[simp] theorem tget_tput_same (d : α) (t : Sp α) (k : Nat) (v : α) : tget d (tput t k v) k = v := by simp [tget]

theorem tget_tput_ne (d : α) (t : Sp α) {k i : Nat} (v : α) (h : i ≠ k) : tget d (tput t k v) i = tget d t i := by
  simp [tget, tfind_tput_ne t v h]

/-- The value read after a canonical write. -/
theorem tget_tupd [DecidableEq α] (d : α) (t : Sp α) (k i : Nat) (v : α) :
    tget d (tupd d t k v) i = if i = k then v else tget d t i := by
  unfold tupd
  by_cases hi : i = k
  · subst hi
    by_cases hv : v = d
    · simp [hv, tget]
    · simp [hv]
  · by_cases hv : v = d
    · simp [hv, tget, tfind_tdel_ne t hi, hi]
    · simp [hv, tget_tput_ne d t v hi, hi]

@[simp] theorem tget_nil (d : α) (k : Nat) : tget d ([] : Sp α) k = d := rfl

/-- Every key of a table is above j. -/
def tabove (j : Nat) (t : Sp α) : Prop := ∀ e ∈ t, j < e.1

theorem trising_cons {j : Nat} {v : α} {r : Sp α} : trising ((j, v) :: r) = true ↔ tabove j r ∧ trising r = true := by
  induction r generalizing j v with
  | nil => simp [trising, tabove]
  | cons e r ih =>
    obtain ⟨k, w⟩ := e
    simp only [trising, Bool.and_eq_true, decide_eq_true_eq]
    constructor
    · rintro ⟨hjk, h⟩
      refine ⟨?_, h⟩
      intro x hx
      rcases List.mem_cons.1 hx with rfl | hx
      · exact hjk
      · exact Nat.lt_trans hjk ((ih.1 h).1 x hx)
    · rintro ⟨ha, h⟩
      exact ⟨ha (k, w) List.mem_cons_self, h⟩

theorem mem_tput {t : Sp α} {k : Nat} {v : α} {e : Nat × α} (h : e ∈ tput t k v) : e = (k, v) ∨ e ∈ t := by
  induction t with
  | nil => simpa [tput] using h
  | cons x r ih =>
    obtain ⟨j, w⟩ := x
    simp only [tput] at h
    split at h
    · simpa using h
    · split at h
      · rcases List.mem_cons.1 h with h | h
        · exact .inl h
        · exact .inr (List.mem_cons_of_mem _ h)
      · rcases List.mem_cons.1 h with h | h
        · exact .inr (h ▸ List.mem_cons_self)
        · rcases ih h with h | h
          · exact .inl h
          · exact .inr (List.mem_cons_of_mem _ h)

theorem mem_tdel {t : Sp α} {k : Nat} {e : Nat × α} (h : e ∈ tdel t k) : e ∈ t := by
  induction t with
  | nil => simp [tdel] at h
  | cons x r ih =>
    obtain ⟨j, w⟩ := x
    simp only [tdel] at h
    split at h
    · exact List.mem_cons_of_mem _ (ih h)
    · rcases List.mem_cons.1 h with h | h
      · exact h ▸ List.mem_cons_self
      · exact List.mem_cons_of_mem _ (ih h)

theorem trising_tput {t : Sp α} (k : Nat) (v : α) (h : trising t = true) : trising (tput t k v) = true := by
  induction t with
  | nil => simp [tput, trising]
  | cons x r ih =>
    obtain ⟨j, w⟩ := x
    obtain ⟨ha, hr⟩ := trising_cons.1 h
    simp only [tput]
    split
    · rename_i hkj
      refine trising_cons.2 ⟨?_, h⟩
      intro e he
      rcases List.mem_cons.1 he with rfl | he
      · exact hkj
      · exact Nat.lt_trans hkj (ha e he)
    · split
      · rename_i hkj
        subst hkj
        exact trising_cons.2 ⟨ha, hr⟩
      · rename_i h1 h2
        refine trising_cons.2 ⟨?_, ih hr⟩
        intro e he
        rcases mem_tput he with rfl | he
        · show j < k
          omega
        · exact ha e he

theorem trising_tdel {t : Sp α} (k : Nat) (h : trising t = true) : trising (tdel t k) = true := by
  induction t with
  | nil => simp [tdel, trising]
  | cons x r ih =>
    obtain ⟨j, w⟩ := x
    obtain ⟨ha, hr⟩ := trising_cons.1 h
    simp only [tdel]
    split
    · exact ih hr
    · exact trising_cons.2 ⟨fun e he => ha e (mem_tdel he), ih hr⟩

/-- The canonical form, as a proposition. -/
theorem twf_iff [DecidableEq α] (d : α) (t : Sp α) : twf d t = true ↔ trising t = true ∧ ∀ e ∈ t, e.2 ≠ d := by
  simp [twf]

/-- A canonical write keeps the canonical form. -/
theorem twf_tupd [DecidableEq α] {d : α} {t : Sp α} (k : Nat) (v : α) (h : twf d t = true) : twf d (tupd d t k v) = true := by
  obtain ⟨hr, hd⟩ := (twf_iff d t).1 h
  refine (twf_iff _ _).2 ?_
  unfold tupd
  split
  · exact ⟨trising_tdel k hr, fun e he => hd e (mem_tdel he)⟩
  · rename_i hv
    refine ⟨trising_tput k v hr, fun e he => ?_⟩
    rcases mem_tput he with rfl | he
    · exact hv
    · exact hd e he

/-- Entries taken out of a table keep its form. -/
theorem twf_filter [DecidableEq α] {d : α} {t : Sp α} (p : Nat × α → Bool) (h : twf d t = true) : twf d (t.filter p) = true := by
  obtain ⟨hr, hd⟩ := (twf_iff d t).1 h
  refine (twf_iff _ _).2 ⟨?_, fun e he => hd e (List.mem_of_mem_filter he)⟩
  clear h hd
  induction t with
  | nil => simpa using hr
  | cons x r ih =>
    obtain ⟨j, w⟩ := x
    obtain ⟨ha, hr'⟩ := trising_cons.1 hr
    simp only [List.filter]
    split
    · exact trising_cons.2 ⟨fun e he => ha e (List.mem_of_mem_filter he), ih hr'⟩
    · exact ih hr'

end Sys2Proof.Machine
end

