-- ==== Sys2Proof/Laws/State.lean ====
section
/-!
SUPPORT. What each update of the state leaves alone: one lemma for each field and update, and the registers after a register write.
-/

namespace Sys2Proof.Machine

open Sys2Proof

variable (s : State)

@[simp] theorem setGroup_mem (g : Nat) (v : Group) : (s.setGroup g v).mem = s.mem := rfl
@[simp] theorem setGroup_memUe (g : Nat) (v : Group) : (s.setGroup g v).memUe = s.memUe := rfl
@[simp] theorem setGroup_win (g : Nat) (v : Group) : (s.setGroup g v).win = s.win := rfl
@[simp] theorem setGroup_chip (g : Nat) (v : Group) : (s.setGroup g v).chip = s.chip := rfl
@[simp] theorem setGroup_l2 (g : Nat) (v : Group) : (s.setGroup g v).l2 = s.l2 := rfl
@[simp] theorem setGroup_clusters (g : Nat) (v : Group) : (s.setGroup g v).clusters = s.clusters := rfl
@[simp] theorem setGroup_cores (g : Nat) (v : Group) : (s.setGroup g v).cores = s.cores := rfl
@[simp] theorem setGroup_groups (g : Nat) (v : Group) : (s.setGroup g v).groups = tput s.groups g v := rfl
@[simp] theorem setGroup_blocks (g : Nat) (v : Group) : (s.setGroup g v).blocks = s.blocks := rfl
@[simp] theorem setGroup_launches (g : Nat) (v : Group) : (s.setGroup g v).launches = s.launches := rfl
@[simp] theorem setGroup_dev (g : Nat) (v : Group) : (s.setGroup g v).dev = s.dev := rfl
@[simp] theorem setGroup_wires (g : Nat) (v : Group) : (s.setGroup g v).wires = s.wires := rfl
@[simp] theorem setGroup_agenda (g : Nat) (v : Group) : (s.setGroup g v).agenda = s.agenda := rfl
@[simp] theorem setGroup_cur (g : Nat) (v : Group) : (s.setGroup g v).cur = s.cur := rfl
@[simp] theorem setGroup_time (g : Nat) (v : Group) : (s.setGroup g v).time = s.time := rfl
@[simp] theorem setGroup_free (g : Nat) (v : Group) : (s.setGroup g v).free = s.free := rfl
@[simp] theorem setGroup_nextId (g : Nat) (v : Group) : (s.setGroup g v).nextId = s.nextId := rfl

@[simp] theorem setBlock_mem (b : Nat) (v : Block) : (s.setBlock b v).mem = s.mem := rfl
@[simp] theorem setBlock_memUe (b : Nat) (v : Block) : (s.setBlock b v).memUe = s.memUe := rfl
@[simp] theorem setBlock_win (b : Nat) (v : Block) : (s.setBlock b v).win = s.win := rfl
@[simp] theorem setBlock_chip (b : Nat) (v : Block) : (s.setBlock b v).chip = s.chip := rfl
@[simp] theorem setBlock_l2 (b : Nat) (v : Block) : (s.setBlock b v).l2 = s.l2 := rfl
@[simp] theorem setBlock_clusters (b : Nat) (v : Block) : (s.setBlock b v).clusters = s.clusters := rfl
@[simp] theorem setBlock_cores (b : Nat) (v : Block) : (s.setBlock b v).cores = s.cores := rfl
@[simp] theorem setBlock_groups (b : Nat) (v : Block) : (s.setBlock b v).groups = s.groups := rfl
@[simp] theorem setBlock_blocks (b : Nat) (v : Block) : (s.setBlock b v).blocks = tput s.blocks b v := rfl
@[simp] theorem setBlock_launches (b : Nat) (v : Block) : (s.setBlock b v).launches = s.launches := rfl
@[simp] theorem setBlock_dev (b : Nat) (v : Block) : (s.setBlock b v).dev = s.dev := rfl
@[simp] theorem setBlock_wires (b : Nat) (v : Block) : (s.setBlock b v).wires = s.wires := rfl
@[simp] theorem setBlock_agenda (b : Nat) (v : Block) : (s.setBlock b v).agenda = s.agenda := rfl
@[simp] theorem setBlock_cur (b : Nat) (v : Block) : (s.setBlock b v).cur = s.cur := rfl
@[simp] theorem setBlock_time (b : Nat) (v : Block) : (s.setBlock b v).time = s.time := rfl
@[simp] theorem setBlock_free (b : Nat) (v : Block) : (s.setBlock b v).free = s.free := rfl
@[simp] theorem setBlock_nextId (b : Nat) (v : Block) : (s.setBlock b v).nextId = s.nextId := rfl

@[simp] theorem setLaunch_mem (l : Nat) (v : Launch) : (s.setLaunch l v).mem = s.mem := rfl
@[simp] theorem setLaunch_memUe (l : Nat) (v : Launch) : (s.setLaunch l v).memUe = s.memUe := rfl
@[simp] theorem setLaunch_win (l : Nat) (v : Launch) : (s.setLaunch l v).win = s.win := rfl
@[simp] theorem setLaunch_chip (l : Nat) (v : Launch) : (s.setLaunch l v).chip = s.chip := rfl
@[simp] theorem setLaunch_l2 (l : Nat) (v : Launch) : (s.setLaunch l v).l2 = s.l2 := rfl
@[simp] theorem setLaunch_clusters (l : Nat) (v : Launch) : (s.setLaunch l v).clusters = s.clusters := rfl
@[simp] theorem setLaunch_cores (l : Nat) (v : Launch) : (s.setLaunch l v).cores = s.cores := rfl
@[simp] theorem setLaunch_groups (l : Nat) (v : Launch) : (s.setLaunch l v).groups = s.groups := rfl
@[simp] theorem setLaunch_blocks (l : Nat) (v : Launch) : (s.setLaunch l v).blocks = s.blocks := rfl
@[simp] theorem setLaunch_launches (l : Nat) (v : Launch) : (s.setLaunch l v).launches = tput s.launches l v := rfl
@[simp] theorem setLaunch_dev (l : Nat) (v : Launch) : (s.setLaunch l v).dev = s.dev := rfl
@[simp] theorem setLaunch_wires (l : Nat) (v : Launch) : (s.setLaunch l v).wires = s.wires := rfl
@[simp] theorem setLaunch_agenda (l : Nat) (v : Launch) : (s.setLaunch l v).agenda = s.agenda := rfl
@[simp] theorem setLaunch_cur (l : Nat) (v : Launch) : (s.setLaunch l v).cur = s.cur := rfl
@[simp] theorem setLaunch_time (l : Nat) (v : Launch) : (s.setLaunch l v).time = s.time := rfl
@[simp] theorem setLaunch_free (l : Nat) (v : Launch) : (s.setLaunch l v).free = s.free := rfl
@[simp] theorem setLaunch_nextId (l : Nat) (v : Launch) : (s.setLaunch l v).nextId = s.nextId := rfl

@[simp] theorem setCore_mem (c : Nat) (v : Core) : (s.setCore c v).mem = s.mem := rfl
@[simp] theorem setCore_memUe (c : Nat) (v : Core) : (s.setCore c v).memUe = s.memUe := rfl
@[simp] theorem setCore_win (c : Nat) (v : Core) : (s.setCore c v).win = s.win := rfl
@[simp] theorem setCore_chip (c : Nat) (v : Core) : (s.setCore c v).chip = s.chip := rfl
@[simp] theorem setCore_l2 (c : Nat) (v : Core) : (s.setCore c v).l2 = s.l2 := rfl
@[simp] theorem setCore_clusters (c : Nat) (v : Core) : (s.setCore c v).clusters = s.clusters := rfl
@[simp] theorem setCore_cores (c : Nat) (v : Core) : (s.setCore c v).cores = tput s.cores c v := rfl
@[simp] theorem setCore_groups (c : Nat) (v : Core) : (s.setCore c v).groups = s.groups := rfl
@[simp] theorem setCore_blocks (c : Nat) (v : Core) : (s.setCore c v).blocks = s.blocks := rfl
@[simp] theorem setCore_launches (c : Nat) (v : Core) : (s.setCore c v).launches = s.launches := rfl
@[simp] theorem setCore_dev (c : Nat) (v : Core) : (s.setCore c v).dev = s.dev := rfl
@[simp] theorem setCore_wires (c : Nat) (v : Core) : (s.setCore c v).wires = s.wires := rfl
@[simp] theorem setCore_agenda (c : Nat) (v : Core) : (s.setCore c v).agenda = s.agenda := rfl
@[simp] theorem setCore_cur (c : Nat) (v : Core) : (s.setCore c v).cur = s.cur := rfl
@[simp] theorem setCore_time (c : Nat) (v : Core) : (s.setCore c v).time = s.time := rfl
@[simp] theorem setCore_free (c : Nat) (v : Core) : (s.setCore c v).free = s.free := rfl
@[simp] theorem setCore_nextId (c : Nat) (v : Core) : (s.setCore c v).nextId = s.nextId := rfl

@[simp] theorem setCluster_mem (c : Nat) (v : Cluster) : (s.setCluster c v).mem = s.mem := rfl
@[simp] theorem setCluster_memUe (c : Nat) (v : Cluster) : (s.setCluster c v).memUe = s.memUe := rfl
@[simp] theorem setCluster_win (c : Nat) (v : Cluster) : (s.setCluster c v).win = s.win := rfl
@[simp] theorem setCluster_chip (c : Nat) (v : Cluster) : (s.setCluster c v).chip = s.chip := rfl
@[simp] theorem setCluster_l2 (c : Nat) (v : Cluster) : (s.setCluster c v).l2 = s.l2 := rfl
@[simp] theorem setCluster_clusters (c : Nat) (v : Cluster) : (s.setCluster c v).clusters = tput s.clusters c v := rfl
@[simp] theorem setCluster_cores (c : Nat) (v : Cluster) : (s.setCluster c v).cores = s.cores := rfl
@[simp] theorem setCluster_groups (c : Nat) (v : Cluster) : (s.setCluster c v).groups = s.groups := rfl
@[simp] theorem setCluster_blocks (c : Nat) (v : Cluster) : (s.setCluster c v).blocks = s.blocks := rfl
@[simp] theorem setCluster_launches (c : Nat) (v : Cluster) : (s.setCluster c v).launches = s.launches := rfl
@[simp] theorem setCluster_dev (c : Nat) (v : Cluster) : (s.setCluster c v).dev = s.dev := rfl
@[simp] theorem setCluster_wires (c : Nat) (v : Cluster) : (s.setCluster c v).wires = s.wires := rfl
@[simp] theorem setCluster_agenda (c : Nat) (v : Cluster) : (s.setCluster c v).agenda = s.agenda := rfl
@[simp] theorem setCluster_cur (c : Nat) (v : Cluster) : (s.setCluster c v).cur = s.cur := rfl
@[simp] theorem setCluster_time (c : Nat) (v : Cluster) : (s.setCluster c v).time = s.time := rfl
@[simp] theorem setCluster_free (c : Nat) (v : Cluster) : (s.setCluster c v).free = s.free := rfl
@[simp] theorem setCluster_nextId (c : Nat) (v : Cluster) : (s.setCluster c v).nextId = s.nextId := rfl

@[simp] theorem wire_mem (m : Msg) : (s.wire m).mem = s.mem := rfl
@[simp] theorem wire_memUe (m : Msg) : (s.wire m).memUe = s.memUe := rfl
@[simp] theorem wire_win (m : Msg) : (s.wire m).win = s.win := rfl
@[simp] theorem wire_chip (m : Msg) : (s.wire m).chip = s.chip := rfl
@[simp] theorem wire_l2 (m : Msg) : (s.wire m).l2 = s.l2 := rfl
@[simp] theorem wire_clusters (m : Msg) : (s.wire m).clusters = s.clusters := rfl
@[simp] theorem wire_cores (m : Msg) : (s.wire m).cores = s.cores := rfl
@[simp] theorem wire_groups (m : Msg) : (s.wire m).groups = s.groups := rfl
@[simp] theorem wire_blocks (m : Msg) : (s.wire m).blocks = s.blocks := rfl
@[simp] theorem wire_launches (m : Msg) : (s.wire m).launches = s.launches := rfl
@[simp] theorem wire_dev (m : Msg) : (s.wire m).dev = s.dev := rfl
@[simp] theorem wire_wires (m : Msg) : (s.wire m).wires = s.wires ++ [m] := rfl
@[simp] theorem wire_agenda (m : Msg) : (s.wire m).agenda = s.agenda := rfl
@[simp] theorem wire_cur (m : Msg) : (s.wire m).cur = s.cur := rfl
@[simp] theorem wire_time (m : Msg) : (s.wire m).time = s.time := rfl
@[simp] theorem wire_free (m : Msg) : (s.wire m).free = s.free := rfl
@[simp] theorem wire_nextId (m : Msg) : (s.wire m).nextId = s.nextId := rfl

@[simp] theorem winSet_mem (o v : Nat) : (winSet s o v).mem = s.mem := rfl
@[simp] theorem winSet_memUe (o v : Nat) : (winSet s o v).memUe = s.memUe := rfl
@[simp] theorem winSet_win (o v : Nat) : (winSet s o v).win = tput s.win (o / 8) (BitVec.ofNat 64 v) := rfl
@[simp] theorem winSet_chip (o v : Nat) : (winSet s o v).chip = s.chip := rfl
@[simp] theorem winSet_l2 (o v : Nat) : (winSet s o v).l2 = s.l2 := rfl
@[simp] theorem winSet_clusters (o v : Nat) : (winSet s o v).clusters = s.clusters := rfl
@[simp] theorem winSet_cores (o v : Nat) : (winSet s o v).cores = s.cores := rfl
@[simp] theorem winSet_groups (o v : Nat) : (winSet s o v).groups = s.groups := rfl
@[simp] theorem winSet_blocks (o v : Nat) : (winSet s o v).blocks = s.blocks := rfl
@[simp] theorem winSet_launches (o v : Nat) : (winSet s o v).launches = s.launches := rfl
@[simp] theorem winSet_dev (o v : Nat) : (winSet s o v).dev = s.dev := rfl
@[simp] theorem winSet_wires (o v : Nat) : (winSet s o v).wires = s.wires := rfl
@[simp] theorem winSet_agenda (o v : Nat) : (winSet s o v).agenda = s.agenda := rfl
@[simp] theorem winSet_cur (o v : Nat) : (winSet s o v).cur = s.cur := rfl
@[simp] theorem winSet_time (o v : Nat) : (winSet s o v).time = s.time := rfl
@[simp] theorem winSet_free (o v : Nat) : (winSet s o v).free = s.free := rfl
@[simp] theorem winSet_nextId (o v : Nat) : (winSet s o v).nextId = s.nextId := rfl

@[simp] theorem group_setGroup_same (g : Nat) (v : Group) : (s.setGroup g v).group g = v := tget_tput_same _ _ _ _
theorem group_setGroup_ne {g h : Nat} (v : Group) (e : h ≠ g) : (s.setGroup g v).group h = s.group h := tget_tput_ne _ _ _ e
@[simp] theorem core_setCore_same (c : Nat) (v : Core) : (s.setCore c v).core c = v := tget_tput_same _ _ _ _
theorem core_setCore_ne {c d : Nat} (v : Core) (e : d ≠ c) : (s.setCore c v).core d = s.core d := tget_tput_ne _ _ _ e
@[simp] theorem cluster_setCluster_same (c : Nat) (v : Cluster) : (s.setCluster c v).cluster c = v := tget_tput_same _ _ _ _
theorem cluster_setCluster_ne {c d : Nat} (v : Cluster) (e : d ≠ c) : (s.setCluster c v).cluster d = s.cluster d := tget_tput_ne _ _ _ e
@[simp] theorem block_setBlock_same (b : Nat) (v : Block) : (s.setBlock b v).block b = v := tget_tput_same _ _ _ _
@[simp] theorem launch_setLaunch_same (l : Nat) (v : Launch) : (s.setLaunch l v).launch l = v := tget_tput_same _ _ _ _
@[simp] theorem group_modGroup_same (g : Nat) (f : Group → Group) : (s.modGroup g f).group g = f (s.group g) := tget_tput_same _ _ _ _
theorem group_modGroup_ne {g h : Nat} (f : Group → Group) (e : h ≠ g) : (s.modGroup g f).group h = s.group h := tget_tput_ne _ _ _ e

@[simp] theorem modGroup_mem (g : Nat) (f : Group → Group) : (s.modGroup g f).mem = s.mem := rfl
@[simp] theorem modGroup_memUe (g : Nat) (f : Group → Group) : (s.modGroup g f).memUe = s.memUe := rfl
@[simp] theorem modGroup_win (g : Nat) (f : Group → Group) : (s.modGroup g f).win = s.win := rfl
@[simp] theorem modGroup_chip (g : Nat) (f : Group → Group) : (s.modGroup g f).chip = s.chip := rfl
@[simp] theorem modGroup_l2 (g : Nat) (f : Group → Group) : (s.modGroup g f).l2 = s.l2 := rfl
@[simp] theorem modGroup_clusters (g : Nat) (f : Group → Group) : (s.modGroup g f).clusters = s.clusters := rfl
@[simp] theorem modGroup_cores (g : Nat) (f : Group → Group) : (s.modGroup g f).cores = s.cores := rfl
@[simp] theorem modGroup_blocks (g : Nat) (f : Group → Group) : (s.modGroup g f).blocks = s.blocks := rfl
@[simp] theorem modGroup_launches (g : Nat) (f : Group → Group) : (s.modGroup g f).launches = s.launches := rfl
@[simp] theorem modGroup_dev (g : Nat) (f : Group → Group) : (s.modGroup g f).dev = s.dev := rfl
@[simp] theorem modGroup_wires (g : Nat) (f : Group → Group) : (s.modGroup g f).wires = s.wires := rfl
@[simp] theorem modGroup_agenda (g : Nat) (f : Group → Group) : (s.modGroup g f).agenda = s.agenda := rfl
@[simp] theorem modGroup_cur (g : Nat) (f : Group → Group) : (s.modGroup g f).cur = s.cur := rfl
@[simp] theorem modGroup_time (g : Nat) (f : Group → Group) : (s.modGroup g f).time = s.time := rfl
@[simp] theorem modGroup_free (g : Nat) (f : Group → Group) : (s.modGroup g f).free = s.free := rfl
@[simp] theorem modGroup_nextId (g : Nat) (f : Group → Group) : (s.modGroup g f).nextId = s.nextId := rfl

variable (gr : Group)

@[simp] theorem wrV_launch (r l : Nat) (x : Word) (q : Bool) : (gr.wrV r l x q).launch = gr.launch := rfl
@[simp] theorem wrV_block (r l : Nat) (x : Word) (q : Bool) : (gr.wrV r l x q).block = gr.block := rfl
@[simp] theorem wrV_num (r l : Nat) (x : Word) (q : Bool) : (gr.wrV r l x q).num = gr.num := rfl
@[simp] theorem wrV_index (r l : Nat) (x : Word) (q : Bool) : (gr.wrV r l x q).index = gr.index := rfl
@[simp] theorem wrV_core (r l : Nat) (x : Word) (q : Bool) : (gr.wrV r l x q).core = gr.core := rfl
@[simp] theorem wrV_slot (r l : Nat) (x : Word) (q : Bool) : (gr.wrV r l x q).slot = gr.slot := rfl
@[simp] theorem wrV_w (r l : Nat) (x : Word) (q : Bool) : (gr.wrV r l x q).w = gr.w := rfl
@[simp] theorem wrV_phys (r l : Nat) (x : Word) (q : Bool) : (gr.wrV r l x q).phys = gr.phys := rfl
@[simp] theorem wrV_subtree (r l : Nat) (x : Word) (q : Bool) : (gr.wrV r l x q).subtree = gr.subtree := rfl
@[simp] theorem wrV_base (r l : Nat) (x : Word) (q : Bool) : (gr.wrV r l x q).base = gr.base := rfl
@[simp] theorem wrV_aging (r l : Nat) (x : Word) (q : Bool) : (gr.wrV r l x q).aging = gr.aging := rfl
@[simp] theorem wrV_flags (r l : Nat) (x : Word) (q : Bool) : (gr.wrV r l x q).flags = gr.flags := rfl
@[simp] theorem wrV_hflags (r l : Nat) (x : Word) (q : Bool) : (gr.wrV r l x q).hflags = gr.hflags := rfl
@[simp] theorem wrV_hm (r l : Nat) (x : Word) (q : Bool) : (gr.wrV r l x q).hm = gr.hm := rfl
@[simp] theorem wrV_trap (r l : Nat) (x : Word) (q : Bool) : (gr.wrV r l x q).trap = gr.trap := rfl
@[simp] theorem wrV_paused (r l : Nat) (x : Word) (q : Bool) : (gr.wrV r l x q).paused = gr.paused := rfl
@[simp] theorem wrV_fut (r l : Nat) (x : Word) (q : Bool) : (gr.wrV r l x q).fut = gr.fut := rfl
@[simp] theorem wrV_jb (r l : Nat) (x : Word) (q : Bool) : (gr.wrV r l x q).jb = gr.jb := rfl
@[simp] theorem wrV_entries (r l : Nat) (x : Word) (q : Bool) : (gr.wrV r l x q).entries = gr.entries := rfl
@[simp] theorem wrV_held (r l : Nat) (x : Word) (q : Bool) : (gr.wrV r l x q).held = gr.held := rfl
@[simp] theorem wrV_exited (r l : Nat) (x : Word) (q : Bool) : (gr.wrV r l x q).exited = gr.exited := rfl
@[simp] theorem wrV_region (r l : Nat) (x : Word) (q : Bool) : (gr.wrV r l x q).region = gr.region := rfl
@[simp] theorem wrV_regionHdr (r l : Nat) (x : Word) (q : Bool) : (gr.wrV r l x q).regionHdr = gr.regionHdr := rfl
@[simp] theorem wrV_stand (r l : Nat) (x : Word) (q : Bool) : (gr.wrV r l x q).stand = gr.stand := rfl
@[simp] theorem wrV_owed (r l : Nat) (x : Word) (q : Bool) : (gr.wrV r l x q).owed = gr.owed := rfl
@[simp] theorem wrV_rgncnt (r l : Nat) (x : Word) (q : Bool) : (gr.wrV r l x q).rgncnt = gr.rgncnt := rfl
@[simp] theorem wrV_run (r l : Nat) (x : Word) (q : Bool) : (gr.wrV r l x q).run = gr.run := rfl
@[simp] theorem wrV_pend (r l : Nat) (x : Word) (q : Bool) : (gr.wrV r l x q).pend = gr.pend := rfl
@[simp] theorem wrV_haz (r l : Nat) (x : Word) (q : Bool) : (gr.wrV r l x q).haz = gr.haz := rfl
@[simp] theorem wrV_dfault (r l : Nat) (x : Word) (q : Bool) : (gr.wrV r l x q).dfault = gr.dfault := rfl
@[simp] theorem wrV_efaults (r l : Nat) (x : Word) (q : Bool) : (gr.wrV r l x q).efaults = gr.efaults := rfl
@[simp] theorem wrV_lost (r l : Nat) (x : Word) (q : Bool) : (gr.wrV r l x q).lost = gr.lost := rfl
@[simp] theorem wrV_iv (r l : Nat) (x : Word) (q : Bool) : (gr.wrV r l x q).iv = gr.iv := rfl
@[simp] theorem wrV_seq (r l : Nat) (x : Word) (q : Bool) : (gr.wrV r l x q).seq = gr.seq := rfl
@[simp] theorem wrV_last (r l : Nat) (x : Word) (q : Bool) : (gr.wrV r l x q).last = gr.last := rfl
@[simp] theorem wrV_fences (r l : Nat) (x : Word) (q : Bool) : (gr.wrV r l x q).fences = gr.fences := rfl
@[simp] theorem wrV_dasid (r l : Nat) (x : Word) (q : Bool) : (gr.wrV r l x q).dasid = gr.dasid := rfl
@[simp] theorem wrV_capsel (r l : Nat) (x : Word) (q : Bool) : (gr.wrV r l x q).capsel = gr.capsel := rfl
@[simp] theorem wrV_lp (r l : Nat) (x : Word) (q : Bool) : (gr.wrV r l x q).lp = gr.lp := rfl
@[simp] theorem wrV_saved (r l : Nat) (x : Word) (q : Bool) : (gr.wrV r l x q).saved = gr.saved := rfl
@[simp] theorem wrV_preempt (r l : Nat) (x : Word) (q : Bool) : (gr.wrV r l x q).preempt = gr.preempt := rfl
@[simp] theorem wrV_stopReq (r l : Nat) (x : Word) (q : Bool) : (gr.wrV r l x q).stopReq = gr.stopReq := rfl
@[simp] theorem wrV_ended (r l : Nat) (x : Word) (q : Bool) : (gr.wrV r l x q).ended = gr.ended := rfl
@[simp] theorem wrV_s (r l : Nat) (x : Word) (q : Bool) : (gr.wrV r l x q).s = gr.s := rfl
@[simp] theorem wrV_p (r l : Nat) (x : Word) (q : Bool) : (gr.wrV r l x q).p = gr.p := rfl
@[simp] theorem wrV_sPois (r l : Nat) (x : Word) (q : Bool) : (gr.wrV r l x q).sPois = gr.sPois := rfl
@[simp] theorem wrV_pPois (r l : Nat) (x : Word) (q : Bool) : (gr.wrV r l x q).pPois = gr.pPois := rfl
@[simp] theorem wrV_sUe (r l : Nat) (x : Word) (q : Bool) : (gr.wrV r l x q).sUe = gr.sUe := rfl
@[simp] theorem wrV_pUe (r l : Nat) (x : Word) (q : Bool) : (gr.wrV r l x q).pUe = gr.pUe := rfl

@[simp] theorem wrS_launch (n : Nat) (x : DWord) (q : Bool) : (gr.wrS n x q).launch = gr.launch := by unfold Group.wrS; simp only [Group.setS, Group.setPoisS]; split <;> rfl
@[simp] theorem wrS_block (n : Nat) (x : DWord) (q : Bool) : (gr.wrS n x q).block = gr.block := by unfold Group.wrS; simp only [Group.setS, Group.setPoisS]; split <;> rfl
@[simp] theorem wrS_num (n : Nat) (x : DWord) (q : Bool) : (gr.wrS n x q).num = gr.num := by unfold Group.wrS; simp only [Group.setS, Group.setPoisS]; split <;> rfl
@[simp] theorem wrS_index (n : Nat) (x : DWord) (q : Bool) : (gr.wrS n x q).index = gr.index := by unfold Group.wrS; simp only [Group.setS, Group.setPoisS]; split <;> rfl
@[simp] theorem wrS_core (n : Nat) (x : DWord) (q : Bool) : (gr.wrS n x q).core = gr.core := by unfold Group.wrS; simp only [Group.setS, Group.setPoisS]; split <;> rfl
@[simp] theorem wrS_slot (n : Nat) (x : DWord) (q : Bool) : (gr.wrS n x q).slot = gr.slot := by unfold Group.wrS; simp only [Group.setS, Group.setPoisS]; split <;> rfl
@[simp] theorem wrS_w (n : Nat) (x : DWord) (q : Bool) : (gr.wrS n x q).w = gr.w := by unfold Group.wrS; simp only [Group.setS, Group.setPoisS]; split <;> rfl
@[simp] theorem wrS_phys (n : Nat) (x : DWord) (q : Bool) : (gr.wrS n x q).phys = gr.phys := by unfold Group.wrS; simp only [Group.setS, Group.setPoisS]; split <;> rfl
@[simp] theorem wrS_subtree (n : Nat) (x : DWord) (q : Bool) : (gr.wrS n x q).subtree = gr.subtree := by unfold Group.wrS; simp only [Group.setS, Group.setPoisS]; split <;> rfl
@[simp] theorem wrS_base (n : Nat) (x : DWord) (q : Bool) : (gr.wrS n x q).base = gr.base := by unfold Group.wrS; simp only [Group.setS, Group.setPoisS]; split <;> rfl
@[simp] theorem wrS_aging (n : Nat) (x : DWord) (q : Bool) : (gr.wrS n x q).aging = gr.aging := by unfold Group.wrS; simp only [Group.setS, Group.setPoisS]; split <;> rfl
@[simp] theorem wrS_flags (n : Nat) (x : DWord) (q : Bool) : (gr.wrS n x q).flags = gr.flags := by unfold Group.wrS; simp only [Group.setS, Group.setPoisS]; split <;> rfl
@[simp] theorem wrS_hflags (n : Nat) (x : DWord) (q : Bool) : (gr.wrS n x q).hflags = gr.hflags := by unfold Group.wrS; simp only [Group.setS, Group.setPoisS]; split <;> rfl
@[simp] theorem wrS_hm (n : Nat) (x : DWord) (q : Bool) : (gr.wrS n x q).hm = gr.hm := by unfold Group.wrS; simp only [Group.setS, Group.setPoisS]; split <;> rfl
@[simp] theorem wrS_trap (n : Nat) (x : DWord) (q : Bool) : (gr.wrS n x q).trap = gr.trap := by unfold Group.wrS; simp only [Group.setS, Group.setPoisS]; split <;> rfl
@[simp] theorem wrS_paused (n : Nat) (x : DWord) (q : Bool) : (gr.wrS n x q).paused = gr.paused := by unfold Group.wrS; simp only [Group.setS, Group.setPoisS]; split <;> rfl
@[simp] theorem wrS_fut (n : Nat) (x : DWord) (q : Bool) : (gr.wrS n x q).fut = gr.fut := by unfold Group.wrS; simp only [Group.setS, Group.setPoisS]; split <;> rfl
@[simp] theorem wrS_jb (n : Nat) (x : DWord) (q : Bool) : (gr.wrS n x q).jb = gr.jb := by unfold Group.wrS; simp only [Group.setS, Group.setPoisS]; split <;> rfl
@[simp] theorem wrS_entries (n : Nat) (x : DWord) (q : Bool) : (gr.wrS n x q).entries = gr.entries := by unfold Group.wrS; simp only [Group.setS, Group.setPoisS]; split <;> rfl
@[simp] theorem wrS_held (n : Nat) (x : DWord) (q : Bool) : (gr.wrS n x q).held = gr.held := by unfold Group.wrS; simp only [Group.setS, Group.setPoisS]; split <;> rfl
@[simp] theorem wrS_exited (n : Nat) (x : DWord) (q : Bool) : (gr.wrS n x q).exited = gr.exited := by unfold Group.wrS; simp only [Group.setS, Group.setPoisS]; split <;> rfl
@[simp] theorem wrS_region (n : Nat) (x : DWord) (q : Bool) : (gr.wrS n x q).region = gr.region := by unfold Group.wrS; simp only [Group.setS, Group.setPoisS]; split <;> rfl
@[simp] theorem wrS_regionHdr (n : Nat) (x : DWord) (q : Bool) : (gr.wrS n x q).regionHdr = gr.regionHdr := by unfold Group.wrS; simp only [Group.setS, Group.setPoisS]; split <;> rfl
@[simp] theorem wrS_stand (n : Nat) (x : DWord) (q : Bool) : (gr.wrS n x q).stand = gr.stand := by unfold Group.wrS; simp only [Group.setS, Group.setPoisS]; split <;> rfl
@[simp] theorem wrS_owed (n : Nat) (x : DWord) (q : Bool) : (gr.wrS n x q).owed = gr.owed := by unfold Group.wrS; simp only [Group.setS, Group.setPoisS]; split <;> rfl
@[simp] theorem wrS_rgncnt (n : Nat) (x : DWord) (q : Bool) : (gr.wrS n x q).rgncnt = gr.rgncnt := by unfold Group.wrS; simp only [Group.setS, Group.setPoisS]; split <;> rfl
@[simp] theorem wrS_run (n : Nat) (x : DWord) (q : Bool) : (gr.wrS n x q).run = gr.run := by unfold Group.wrS; simp only [Group.setS, Group.setPoisS]; split <;> rfl
@[simp] theorem wrS_pend (n : Nat) (x : DWord) (q : Bool) : (gr.wrS n x q).pend = gr.pend := by unfold Group.wrS; simp only [Group.setS, Group.setPoisS]; split <;> rfl
@[simp] theorem wrS_haz (n : Nat) (x : DWord) (q : Bool) : (gr.wrS n x q).haz = gr.haz := by unfold Group.wrS; simp only [Group.setS, Group.setPoisS]; split <;> rfl
@[simp] theorem wrS_dfault (n : Nat) (x : DWord) (q : Bool) : (gr.wrS n x q).dfault = gr.dfault := by unfold Group.wrS; simp only [Group.setS, Group.setPoisS]; split <;> rfl
@[simp] theorem wrS_efaults (n : Nat) (x : DWord) (q : Bool) : (gr.wrS n x q).efaults = gr.efaults := by unfold Group.wrS; simp only [Group.setS, Group.setPoisS]; split <;> rfl
@[simp] theorem wrS_lost (n : Nat) (x : DWord) (q : Bool) : (gr.wrS n x q).lost = gr.lost := by unfold Group.wrS; simp only [Group.setS, Group.setPoisS]; split <;> rfl
@[simp] theorem wrS_iv (n : Nat) (x : DWord) (q : Bool) : (gr.wrS n x q).iv = gr.iv := by unfold Group.wrS; simp only [Group.setS, Group.setPoisS]; split <;> rfl
@[simp] theorem wrS_seq (n : Nat) (x : DWord) (q : Bool) : (gr.wrS n x q).seq = gr.seq := by unfold Group.wrS; simp only [Group.setS, Group.setPoisS]; split <;> rfl
@[simp] theorem wrS_last (n : Nat) (x : DWord) (q : Bool) : (gr.wrS n x q).last = gr.last := by unfold Group.wrS; simp only [Group.setS, Group.setPoisS]; split <;> rfl
@[simp] theorem wrS_fences (n : Nat) (x : DWord) (q : Bool) : (gr.wrS n x q).fences = gr.fences := by unfold Group.wrS; simp only [Group.setS, Group.setPoisS]; split <;> rfl
@[simp] theorem wrS_dasid (n : Nat) (x : DWord) (q : Bool) : (gr.wrS n x q).dasid = gr.dasid := by unfold Group.wrS; simp only [Group.setS, Group.setPoisS]; split <;> rfl
@[simp] theorem wrS_capsel (n : Nat) (x : DWord) (q : Bool) : (gr.wrS n x q).capsel = gr.capsel := by unfold Group.wrS; simp only [Group.setS, Group.setPoisS]; split <;> rfl
@[simp] theorem wrS_lp (n : Nat) (x : DWord) (q : Bool) : (gr.wrS n x q).lp = gr.lp := by unfold Group.wrS; simp only [Group.setS, Group.setPoisS]; split <;> rfl
@[simp] theorem wrS_saved (n : Nat) (x : DWord) (q : Bool) : (gr.wrS n x q).saved = gr.saved := by unfold Group.wrS; simp only [Group.setS, Group.setPoisS]; split <;> rfl
@[simp] theorem wrS_preempt (n : Nat) (x : DWord) (q : Bool) : (gr.wrS n x q).preempt = gr.preempt := by unfold Group.wrS; simp only [Group.setS, Group.setPoisS]; split <;> rfl
@[simp] theorem wrS_stopReq (n : Nat) (x : DWord) (q : Bool) : (gr.wrS n x q).stopReq = gr.stopReq := by unfold Group.wrS; simp only [Group.setS, Group.setPoisS]; split <;> rfl
@[simp] theorem wrS_ended (n : Nat) (x : DWord) (q : Bool) : (gr.wrS n x q).ended = gr.ended := by unfold Group.wrS; simp only [Group.setS, Group.setPoisS]; split <;> rfl
@[simp] theorem wrS_v (n : Nat) (x : DWord) (q : Bool) : (gr.wrS n x q).v = gr.v := by unfold Group.wrS; simp only [Group.setS, Group.setPoisS]; split <;> rfl
@[simp] theorem wrS_p (n : Nat) (x : DWord) (q : Bool) : (gr.wrS n x q).p = gr.p := by unfold Group.wrS; simp only [Group.setS, Group.setPoisS]; split <;> rfl
@[simp] theorem wrS_vPois (n : Nat) (x : DWord) (q : Bool) : (gr.wrS n x q).vPois = gr.vPois := by unfold Group.wrS; simp only [Group.setS, Group.setPoisS]; split <;> rfl
@[simp] theorem wrS_pPois (n : Nat) (x : DWord) (q : Bool) : (gr.wrS n x q).pPois = gr.pPois := by unfold Group.wrS; simp only [Group.setS, Group.setPoisS]; split <;> rfl
@[simp] theorem wrS_vUe (n : Nat) (x : DWord) (q : Bool) : (gr.wrS n x q).vUe = gr.vUe := by unfold Group.wrS; simp only [Group.setS, Group.setPoisS]; split <;> rfl
@[simp] theorem wrS_pUe (n : Nat) (x : DWord) (q : Bool) : (gr.wrS n x q).pUe = gr.pUe := by unfold Group.wrS; simp only [Group.setS, Group.setPoisS]; split <;> rfl

@[simp] theorem wrP_launch (n l : Nat) (x q : Bool) : (gr.wrP n l x q).launch = gr.launch := by unfold Group.wrP; simp only [Group.setP, Group.setPoisP]; split <;> rfl
@[simp] theorem wrP_block (n l : Nat) (x q : Bool) : (gr.wrP n l x q).block = gr.block := by unfold Group.wrP; simp only [Group.setP, Group.setPoisP]; split <;> rfl
@[simp] theorem wrP_num (n l : Nat) (x q : Bool) : (gr.wrP n l x q).num = gr.num := by unfold Group.wrP; simp only [Group.setP, Group.setPoisP]; split <;> rfl
@[simp] theorem wrP_index (n l : Nat) (x q : Bool) : (gr.wrP n l x q).index = gr.index := by unfold Group.wrP; simp only [Group.setP, Group.setPoisP]; split <;> rfl
@[simp] theorem wrP_core (n l : Nat) (x q : Bool) : (gr.wrP n l x q).core = gr.core := by unfold Group.wrP; simp only [Group.setP, Group.setPoisP]; split <;> rfl
@[simp] theorem wrP_slot (n l : Nat) (x q : Bool) : (gr.wrP n l x q).slot = gr.slot := by unfold Group.wrP; simp only [Group.setP, Group.setPoisP]; split <;> rfl
@[simp] theorem wrP_w (n l : Nat) (x q : Bool) : (gr.wrP n l x q).w = gr.w := by unfold Group.wrP; simp only [Group.setP, Group.setPoisP]; split <;> rfl
@[simp] theorem wrP_phys (n l : Nat) (x q : Bool) : (gr.wrP n l x q).phys = gr.phys := by unfold Group.wrP; simp only [Group.setP, Group.setPoisP]; split <;> rfl
@[simp] theorem wrP_subtree (n l : Nat) (x q : Bool) : (gr.wrP n l x q).subtree = gr.subtree := by unfold Group.wrP; simp only [Group.setP, Group.setPoisP]; split <;> rfl
@[simp] theorem wrP_base (n l : Nat) (x q : Bool) : (gr.wrP n l x q).base = gr.base := by unfold Group.wrP; simp only [Group.setP, Group.setPoisP]; split <;> rfl
@[simp] theorem wrP_aging (n l : Nat) (x q : Bool) : (gr.wrP n l x q).aging = gr.aging := by unfold Group.wrP; simp only [Group.setP, Group.setPoisP]; split <;> rfl
@[simp] theorem wrP_flags (n l : Nat) (x q : Bool) : (gr.wrP n l x q).flags = gr.flags := by unfold Group.wrP; simp only [Group.setP, Group.setPoisP]; split <;> rfl
@[simp] theorem wrP_hflags (n l : Nat) (x q : Bool) : (gr.wrP n l x q).hflags = gr.hflags := by unfold Group.wrP; simp only [Group.setP, Group.setPoisP]; split <;> rfl
@[simp] theorem wrP_hm (n l : Nat) (x q : Bool) : (gr.wrP n l x q).hm = gr.hm := by unfold Group.wrP; simp only [Group.setP, Group.setPoisP]; split <;> rfl
@[simp] theorem wrP_trap (n l : Nat) (x q : Bool) : (gr.wrP n l x q).trap = gr.trap := by unfold Group.wrP; simp only [Group.setP, Group.setPoisP]; split <;> rfl
@[simp] theorem wrP_paused (n l : Nat) (x q : Bool) : (gr.wrP n l x q).paused = gr.paused := by unfold Group.wrP; simp only [Group.setP, Group.setPoisP]; split <;> rfl
@[simp] theorem wrP_fut (n l : Nat) (x q : Bool) : (gr.wrP n l x q).fut = gr.fut := by unfold Group.wrP; simp only [Group.setP, Group.setPoisP]; split <;> rfl
@[simp] theorem wrP_jb (n l : Nat) (x q : Bool) : (gr.wrP n l x q).jb = gr.jb := by unfold Group.wrP; simp only [Group.setP, Group.setPoisP]; split <;> rfl
@[simp] theorem wrP_entries (n l : Nat) (x q : Bool) : (gr.wrP n l x q).entries = gr.entries := by unfold Group.wrP; simp only [Group.setP, Group.setPoisP]; split <;> rfl
@[simp] theorem wrP_held (n l : Nat) (x q : Bool) : (gr.wrP n l x q).held = gr.held := by unfold Group.wrP; simp only [Group.setP, Group.setPoisP]; split <;> rfl
@[simp] theorem wrP_exited (n l : Nat) (x q : Bool) : (gr.wrP n l x q).exited = gr.exited := by unfold Group.wrP; simp only [Group.setP, Group.setPoisP]; split <;> rfl
@[simp] theorem wrP_region (n l : Nat) (x q : Bool) : (gr.wrP n l x q).region = gr.region := by unfold Group.wrP; simp only [Group.setP, Group.setPoisP]; split <;> rfl
@[simp] theorem wrP_regionHdr (n l : Nat) (x q : Bool) : (gr.wrP n l x q).regionHdr = gr.regionHdr := by unfold Group.wrP; simp only [Group.setP, Group.setPoisP]; split <;> rfl
@[simp] theorem wrP_stand (n l : Nat) (x q : Bool) : (gr.wrP n l x q).stand = gr.stand := by unfold Group.wrP; simp only [Group.setP, Group.setPoisP]; split <;> rfl
@[simp] theorem wrP_owed (n l : Nat) (x q : Bool) : (gr.wrP n l x q).owed = gr.owed := by unfold Group.wrP; simp only [Group.setP, Group.setPoisP]; split <;> rfl
@[simp] theorem wrP_rgncnt (n l : Nat) (x q : Bool) : (gr.wrP n l x q).rgncnt = gr.rgncnt := by unfold Group.wrP; simp only [Group.setP, Group.setPoisP]; split <;> rfl
@[simp] theorem wrP_run (n l : Nat) (x q : Bool) : (gr.wrP n l x q).run = gr.run := by unfold Group.wrP; simp only [Group.setP, Group.setPoisP]; split <;> rfl
@[simp] theorem wrP_pend (n l : Nat) (x q : Bool) : (gr.wrP n l x q).pend = gr.pend := by unfold Group.wrP; simp only [Group.setP, Group.setPoisP]; split <;> rfl
@[simp] theorem wrP_haz (n l : Nat) (x q : Bool) : (gr.wrP n l x q).haz = gr.haz := by unfold Group.wrP; simp only [Group.setP, Group.setPoisP]; split <;> rfl
@[simp] theorem wrP_dfault (n l : Nat) (x q : Bool) : (gr.wrP n l x q).dfault = gr.dfault := by unfold Group.wrP; simp only [Group.setP, Group.setPoisP]; split <;> rfl
@[simp] theorem wrP_efaults (n l : Nat) (x q : Bool) : (gr.wrP n l x q).efaults = gr.efaults := by unfold Group.wrP; simp only [Group.setP, Group.setPoisP]; split <;> rfl
@[simp] theorem wrP_lost (n l : Nat) (x q : Bool) : (gr.wrP n l x q).lost = gr.lost := by unfold Group.wrP; simp only [Group.setP, Group.setPoisP]; split <;> rfl
@[simp] theorem wrP_iv (n l : Nat) (x q : Bool) : (gr.wrP n l x q).iv = gr.iv := by unfold Group.wrP; simp only [Group.setP, Group.setPoisP]; split <;> rfl
@[simp] theorem wrP_seq (n l : Nat) (x q : Bool) : (gr.wrP n l x q).seq = gr.seq := by unfold Group.wrP; simp only [Group.setP, Group.setPoisP]; split <;> rfl
@[simp] theorem wrP_last (n l : Nat) (x q : Bool) : (gr.wrP n l x q).last = gr.last := by unfold Group.wrP; simp only [Group.setP, Group.setPoisP]; split <;> rfl
@[simp] theorem wrP_fences (n l : Nat) (x q : Bool) : (gr.wrP n l x q).fences = gr.fences := by unfold Group.wrP; simp only [Group.setP, Group.setPoisP]; split <;> rfl
@[simp] theorem wrP_dasid (n l : Nat) (x q : Bool) : (gr.wrP n l x q).dasid = gr.dasid := by unfold Group.wrP; simp only [Group.setP, Group.setPoisP]; split <;> rfl
@[simp] theorem wrP_capsel (n l : Nat) (x q : Bool) : (gr.wrP n l x q).capsel = gr.capsel := by unfold Group.wrP; simp only [Group.setP, Group.setPoisP]; split <;> rfl
@[simp] theorem wrP_lp (n l : Nat) (x q : Bool) : (gr.wrP n l x q).lp = gr.lp := by unfold Group.wrP; simp only [Group.setP, Group.setPoisP]; split <;> rfl
@[simp] theorem wrP_saved (n l : Nat) (x q : Bool) : (gr.wrP n l x q).saved = gr.saved := by unfold Group.wrP; simp only [Group.setP, Group.setPoisP]; split <;> rfl
@[simp] theorem wrP_preempt (n l : Nat) (x q : Bool) : (gr.wrP n l x q).preempt = gr.preempt := by unfold Group.wrP; simp only [Group.setP, Group.setPoisP]; split <;> rfl
@[simp] theorem wrP_stopReq (n l : Nat) (x q : Bool) : (gr.wrP n l x q).stopReq = gr.stopReq := by unfold Group.wrP; simp only [Group.setP, Group.setPoisP]; split <;> rfl
@[simp] theorem wrP_ended (n l : Nat) (x q : Bool) : (gr.wrP n l x q).ended = gr.ended := by unfold Group.wrP; simp only [Group.setP, Group.setPoisP]; split <;> rfl
@[simp] theorem wrP_v (n l : Nat) (x q : Bool) : (gr.wrP n l x q).v = gr.v := by unfold Group.wrP; simp only [Group.setP, Group.setPoisP]; split <;> rfl
@[simp] theorem wrP_s (n l : Nat) (x q : Bool) : (gr.wrP n l x q).s = gr.s := by unfold Group.wrP; simp only [Group.setP, Group.setPoisP]; split <;> rfl
@[simp] theorem wrP_vPois (n l : Nat) (x q : Bool) : (gr.wrP n l x q).vPois = gr.vPois := by unfold Group.wrP; simp only [Group.setP, Group.setPoisP]; split <;> rfl
@[simp] theorem wrP_sPois (n l : Nat) (x q : Bool) : (gr.wrP n l x q).sPois = gr.sPois := by unfold Group.wrP; simp only [Group.setP, Group.setPoisP]; split <;> rfl
@[simp] theorem wrP_vUe (n l : Nat) (x q : Bool) : (gr.wrP n l x q).vUe = gr.vUe := by unfold Group.wrP; simp only [Group.setP, Group.setPoisP]; split <;> rfl
@[simp] theorem wrP_sUe (n l : Nat) (x q : Bool) : (gr.wrP n l x q).sUe = gr.sUe := by unfold Group.wrP; simp only [Group.setP, Group.setPoisP]; split <;> rfl

/-- A v register read after a write of one lane (06 R113). -/
theorem getV_wrV (r l i j : Nat) (x : Word) (q : Bool) (hl : l < 64) (hj : j < 64) :
    (gr.wrV r l x q).getV i j = if i = r ∧ j = l then x else gr.getV i j := by
  show tget 0 (tupd 0 gr.v (64 * r + l) x) (64 * i + j) = _
  rw [tget_tupd]
  have : (64 * i + j = 64 * r + l) ↔ (i = r ∧ j = l) := by omega
  simp [this, Group.getV]

@[simp] theorem getS_wrV (r l n : Nat) (x : Word) (q : Bool) : (gr.wrV r l x q).getS n = gr.getS n := rfl
@[simp] theorem getP_wrV (r l n j : Nat) (x : Word) (q : Bool) : (gr.wrV r l x q).getP n j = gr.getP n j := rfl

/-- An s register read after a write; s63 reads zero (06 R113). -/
theorem getS_wrS (n i : Nat) (x : DWord) (q : Bool) : (gr.wrS n x q).getS i = if i = n ∧ n ≠ 63 then x else gr.getS i := by
  by_cases hn : n = 63
  · subst hn
    have : (gr.wrS 63 x q).s = gr.s := by simp [Group.wrS, Group.setS, Group.setPoisS]
    simp [Group.getS, this]
  · have h1 : (gr.wrS n x q).s = tupd 0 gr.s n x := by simp [Group.wrS, Group.setS, Group.setPoisS, hn]
    unfold Group.getS
    rw [h1, tget_tupd]
    by_cases hi : i = n
    · subst hi; simp [hn]
    · simp [hi]

@[simp] theorem getV_wrS (n i j : Nat) (x : DWord) (q : Bool) : (gr.wrS n x q).getV i j = gr.getV i j := by
  simp [Group.getV]
@[simp] theorem getP_wrS (n i j : Nat) (x : DWord) (q : Bool) : (gr.wrS n x q).getP i j = gr.getP i j := by
  simp [Group.getP, Group.getPM]
@[simp] theorem getV_wrP (n l i j : Nat) (x q : Bool) : (gr.wrP n l x q).getV i j = gr.getV i j := by
  simp [Group.getV]
@[simp] theorem getS_wrP (n l i : Nat) (x q : Bool) : (gr.wrP n l x q).getS i = gr.getS i := by
  simp [Group.getS]

end Sys2Proof.Machine
end

