-- ==== Sys2Proof/Laws/Issue.lean ====
section
/-!
SUPPORT. What the issue of an instruction does: every arm of the dispatch is the issue of its opcode's meaning, or the step of its row.
-/

namespace Sys2Proof.Machine

open Sys2Proof

/-- An instruction's arm is the issue of its opcode's meaning. -/
theorem exec_of_parts (i : Instr) (s : State) {op : Nat} {f : EForm} (h : i.parts = some (op, f)) :
    ∃ m, meaningOf i = some m ∧ exec i s = issue op f m s := by
  cases i <;> first
    | (cases h; done)
    | (cases h; exact ⟨_, rfl, rfl⟩)

/-- An agent row's arm is its step. -/
theorem exec_event (i : Instr) (s : State) : (match eventOf i with | some F => exec i s = .next (F s) | none => True) := by
  cases i <;> first | exact trivial | rfl

/-- The same for a given step. -/
theorem exec_of_event (i : Instr) (s : State) {F : State → State} (h : eventOf i = some F) : exec i s = .next (F s) := by
  have he := exec_event i s
  rwa [h] at he

/-- Every constructor but the run header is an instruction with an opcode or an agent row. -/
theorem parts_or_event (i : Instr) : (∃ h, i = .run h) ∨ i.parts.isSome ∨ (eventOf i).isSome := by
  cases i <;> first
    | exact .inl ⟨_, rfl⟩
    | exact .inr (.inl rfl)
    | exact .inr (.inr rfl)

/-- An instruction that issues has its effect, and the run passes on. -/
theorem exec_issues {i : Instr} {s : State} {c : Ctx} {m : Meaning} (h : Issues i s c m) :
    exec i s = .next (advance c (afterAct c m s (m.act c s))) := by
  obtain ⟨m', hm, he⟩ := exec_of_parts i s h.parts
  rw [h.meaning] at hm
  cases hm
  rw [he]
  unfold issue
  simp only [h.ctx, h.clean, List.isEmpty_nil, Bool.not_true, Bool.false_eq_true, if_false, h.active, h.steady, Bool.false_and,
    h.going, h.ready]

end Sys2Proof.Machine
end

