-- ==== Sys2Proof/Laws/Effect.lean ====
section
/-!
SUPPORT. What the issue of an instruction finds and leaves: the context, the legality of its encoding, and the next state of an
instruction whose effect is on its group alone.
-/

namespace Sys2Proof.Machine

open Sys2Proof

/-- Putting a value where it was just put changes nothing. -/
theorem tput_tput {α : Type} (t : Sp α) (k : Nat) (v w : α) : tput (tput t k v) k w = tput t k w := by
  induction t with
  | nil => simp [tput]
  | cons e r ih =>
    obtain ⟨j, x⟩ := e
    simp only [tput]
    split
    · simp [tput]
    · split
      · simp [tput]
      · simp only [tput]
        rw [if_neg ‹_›, if_neg ‹_›, ih]

theorem setGroup_setGroup (s : State) (g : Nat) (v w : Group) : (s.setGroup g v).setGroup g w = s.setGroup g w := by
  simp only [State.setGroup, tput_tput]

theorem modGroup_eq (s : State) (g : Nat) (f : Group → Group) : s.modGroup g f = s.setGroup g (f (s.group g)) := rfl

/-- What the context of an issue holds. -/
theorem issueCtx_eq {s : State} {op : Nat} {f : EForm} {c : Ctx} (h : issueCtx s op f = some c) :
    c.g = s.cur ∧ c.gr = s.group s.cur ∧ c.gr.run = some c.r ∧ c.r.issued = true ∧ c.op = op ∧ c.f = f ∧
    c.sp = (opSpec op).getD {} ∧ c.regs = s.regsOf c.gr ∧ c.entry = c.r.lanes &&& ~~~ c.gr.exited ∧
    c.lanes = laneSet (guardOf c.gr f) (lanesOf c.entry) ∧ c.flag = selFlag c.r.h f.fsel := by
  unfold issueCtx at h
  simp only at h
  split at h
  · cases h
  · rename_i r hr
    split at h
    · cases h
    · rename_i hi
      cases h
      exact ⟨rfl, rfl, hr, by simpa using hi, rfl, rfl, rfl, rfl, rfl, rfl, rfl⟩

/-- What the test of `Issues` finds, with the context that it found. -/
theorem issues_of_issuesB {i : Instr} {s : State} (h : issuesB i s = true) :
    ∃ c m, Issues i s c m ∧ ∀ op f, i.parts = some (op, f) → issueCtx s op f = some c := by
  unfold issuesB at h
  split at h
  · cases h
  · rename_i op f hp
    split at h
    · rename_i m c hm hc
      obtain ⟨-, -, -, -, rfl, rfl, -⟩ := issueCtx_eq hc
      simp only [Bool.and_eq_true, Bool.not_eq_true', List.isEmpty_iff] at h
      obtain ⟨⟨⟨⟨h1, h2⟩, h3⟩, h4⟩, h5⟩ := h
      refine ⟨c, m, ⟨hp, hm, hc, h1, h2, h3, h4, h5⟩, fun op f ho => ?_⟩
      rw [hp] at ho
      cases ho
      exact hc
    · cases h

/-- The causes of an illegal encoding are not empty when its entry holds a lane. -/
theorem legal_of_clean {c : Ctx} {m : Meaning} {s : State} (h : issueCauses c m s = []) (he : lanesOf c.entry ≠ []) :
    illegalSub c.op c.f c.regs c.flag.isSome = none := by
  unfold issueCauses at h
  split at h
  · simp only [onLanes, List.map_eq_nil_iff] at h
    exact absurd h he
  · assumption

theorem hasLane_lt {m : Lanes} {l : Nat} (h : hasLane m l = true) : l < 64 := by
  by_contra hl
  have : m.toNat < 2 ^ l := lt_of_lt_of_le m.isLt (Nat.pow_le_pow_right (by decide) (by omega))
  simp [hasLane, Nat.testBit_lt_two_pow this] at h

theorem mem_lanesOf {m : Lanes} {l : Nat} : l ∈ lanesOf m ↔ hasLane m l = true := by
  simp only [lanesOf, List.mem_filter, List.mem_range]
  exact ⟨fun h => h.2, fun h => ⟨hasLane_lt h, h⟩⟩

theorem hasLane_or (a b : Lanes) (l : Nat) : hasLane (a ||| b) l = (hasLane a l || hasLane b l) := by
  simp [hasLane]

theorem hasLane_oneLane {j l : Nat} (hj : j < 64) : hasLane (oneLane j) l = decide (l = j) := by
  have : 2 ^ j < 2 ^ 64 := Nat.pow_lt_pow_right (by decide) hj
  simp only [hasLane, oneLane, BitVec.toNat_ofNat, Nat.mod_eq_of_lt this, Nat.testBit_two_pow]
  simp [eq_comm]

/-- The lanes of a list that satisfy p. -/
theorem hasLane_laneSet (p : Nat → Bool) (ls : List Nat) (h : ∀ l ∈ ls, l < 64) (l : Nat) :
    hasLane (laneSet p ls) l = true ↔ l ∈ ls ∧ p l = true := by
  have key : ∀ (ls : List Nat) (m : Lanes), (∀ l ∈ ls, l < 64) →
      (hasLane (ls.foldl (fun m l => if p l then m ||| oneLane l else m) m) l = true ↔ hasLane m l = true ∨ (l ∈ ls ∧ p l = true)) := by
    intro ls
    induction ls with
    | nil => simp
    | cons a r ih =>
      intro m hm
      simp only [List.foldl_cons]
      rw [ih _ fun x hx => hm x (List.mem_cons_of_mem _ hx)]
      by_cases hp : p a = true
      · simp only [hp, if_true, hasLane_or, hasLane_oneLane (hm a List.mem_cons_self), Bool.or_eq_true, decide_eq_true_eq, List.mem_cons]
        constructor
        · rintro ((h1 | rfl) | h2)
          · exact .inl h1
          · exact .inr ⟨.inl rfl, hp⟩
          · exact .inr ⟨.inr h2.1, h2.2⟩
        · rintro (h1 | ⟨rfl | h2, h3⟩)
          · exact .inl (.inl h1)
          · exact .inl (.inr rfl)
          · exact .inr ⟨h2, h3⟩
      · simp only [hp, List.mem_cons]
        constructor
        · rintro (h1 | h2)
          · exact .inl (by simpa using h1)
          · exact .inr ⟨.inr h2.1, h2.2⟩
        · rintro (h1 | ⟨rfl | h2, h3⟩)
          · exact .inl (by simpa using h1)
          · exact absurd h3 hp
          · exact .inr ⟨h2, h3⟩
  rw [laneSet, key ls 0 h]
  simp [hasLane]

/-- An active lane is a lane of the issuing entry. -/
theorem active_entry {s : State} {op : Nat} {f : EForm} {c : Ctx} (h : issueCtx s op f = some c) {l : Nat}
    (hl : hasLane c.lanes l = true) : hasLane c.entry l = true := by
  obtain ⟨-, -, -, -, -, -, -, -, -, e, -⟩ := issueCtx_eq h
  rw [e, hasLane_laneSet _ _ fun x hx => hasLane_lt (mem_lanesOf.1 hx)] at hl
  exact mem_lanesOf.1 hl.1

/-- A set that is not empty has a lane. -/
theorem exists_lane {m : Lanes} (h : m ≠ 0) : ∃ l, hasLane m l = true := by
  by_contra hn
  apply h
  apply BitVec.eq_of_toNat_eq
  apply Nat.eq_of_testBit_eq
  intro i
  have := fun hh => hn ⟨i, hh⟩
  simpa [hasLane] using this

/-- An instruction that issues with an active lane is legal. -/
theorem Issues.legal {i : Instr} {s : State} {c : Ctx} {m : Meaning} (h : Issues i s c m) (ha : m.always = false) :
    illegalSub c.op c.f c.regs c.flag.isSome = none := by
  apply legal_of_clean h.clean
  have hl : c.lanes ≠ 0 := by
    have := h.active
    simpa [ha] using this
  obtain ⟨l, hl⟩ := exists_lane hl
  intro he
  have := mem_lanesOf.2 (active_entry h.ctx hl)
  rw [he] at this
  cases this

/-- A legal encoding satisfies the rules of its fields. -/
theorem fields_of_legal {op : Nat} {f : EForm} {regs : Nat} {arms : Bool} (h : illegalSub op f regs arms = none) :
    ∃ sp, opSpec op = some sp ∧ fieldsOk op sp f = true ∧ (regUses op f).all RegUse.numOk = true ∧
      (regUses op f).all RegUse.alignOk = true ∧ (regUses op f).all (RegUse.rangeOk regs) = true := by
  unfold illegalSub at h
  split at h
  · cases h
  · rename_i sp hs
    refine ⟨sp, hs, ?_⟩
    simp only at h
    split at h
    · cases h
    · split at h
      · cases h
      · split at h
        · cases h
        · split at h
          · cases h
          · simp_all

/-- A short-latency instruction selects no flag. -/
theorem Issues.noFlag {i : Instr} {s : State} {c : Ctx} {m : Meaning} (h : Issues i s c m) (ha : m.always = false)
    (hs : c.sp.flag = .short) : c.flag = none := by
  obtain ⟨sp, he, hf, -⟩ := fields_of_legal (h.legal ha)
  obtain ⟨-, -, -, -, ho, hff, hsp, -, -, -, hflag⟩ := issueCtx_eq h.ctx
  have : c.sp = sp := by rw [hsp, he]; rfl
  rw [this] at hs
  have hz : c.f.fsel = 0 := by
    simp only [fieldsOk, Bool.and_eq_true] at hf
    have := hf.1.2
    simpa [hs] using this
  rw [hflag, hz]
  rfl

/-- Without a flag there is no hazard. -/
theorem hazOf_none {c : Ctx} (us : List RegUse) (h : c.flag = none) : hazOf c us = [] := by simp [hazOf, h]

/-- An instruction that completes at issue, with no flag, no commit and no tag, leaves nothing behind beside its effect. -/
theorem afterAct_plain {c : Ctx} {m : Meaning} {s t : State} (hf : c.flag = none) (hc : commitsAtIssue c.op = false)
    (ht : takesTag c.op = false) : afterAct c m s (t, false) = t.setGroup c.g (t.group c.g) := by
  simp only [afterAct, modGroup_eq, hazOf_none _ hf, hc, ht, hf]
  congr 1
  split <;> simp [Group.decFlag]

/-- The next state of a short-latency instruction whose effect is on its group alone. -/
theorem exec_onGroup {i : Instr} {s : State} {c : Ctx} {m : Meaning} (h : Issues i s c m) (ha : m.always = false)
    (hs : c.sp.flag = .short) (hc : commitsAtIssue c.op = false) (ht : takesTag c.op = false) {F : Ctx → State → Group}
    (hF : m.act = onGroup F) : exec i s = .next (advance c (s.setGroup c.g (F c s))) := by
  rw [exec_issues h]
  congr 2
  simp only [hF, onGroup, afterAct_plain (h.noFlag ha hs) hc ht, group_setGroup_same, setGroup_setGroup]

/-- The same for an effect that changes the state of the group through several updates. -/
theorem exec_modGroup {i : Instr} {s : State} {c : Ctx} {m : Meaning} (h : Issues i s c m) (ha : m.always = false)
    (hs : c.sp.flag = .short) (hc : commitsAtIssue c.op = false) (ht : takesTag c.op = false) {t : State}
    (hF : m.act c s = (t, false)) : exec i s = .next (advance c (t.setGroup c.g (t.group c.g))) := by
  rw [exec_issues h, hF, afterAct_plain (h.noFlag ha hs) hc ht]

end Sys2Proof.Machine
end

