-- ==== Sys2Proof/Laws/Destination.lean ====
section
/-!
SUPPORT. What the writing of a destination leaves: the registers of every lane and number after the write, and the elements that D holds.
-/

namespace Sys2Proof.Machine

open Sys2Proof

variable (gr : Group)

theorem hasLane_setLane (m : Lanes) {l j : Nat} (b : Bool) (hl : l < 64) (hj : j < 64) :
    hasLane (setLane m l b) j = if j = l then b else hasLane m j := by
  unfold setLane
  cases b
  · have : hasLane (m &&& ~~~ oneLane l) j = (hasLane m j && !hasLane (oneLane l) j) := by
      show (m &&& ~~~ oneLane l).getLsbD j = (m.getLsbD j && !(oneLane l).getLsbD j)
      simp only [BitVec.getLsbD_and, BitVec.getLsbD_not, hj, decide_true, Bool.true_and]
    simp only [Bool.false_eq_true, if_false, this, hasLane_oneLane hl]
    by_cases e : j = l <;> simp [e]
  · simp only [if_true, hasLane_or, hasLane_oneLane hl]
    by_cases e : j = l <;> simp [e]

/-- The poison of a v register after a write of one lane (06 R114). -/
theorem poisV_wrV (r l i j : Nat) (x : Word) (q : Bool) (hl : l < 64) (hj : j < 64) :
    (gr.wrV r l x q).poisV i j = if i = r ∧ j = l then q else gr.poisV i j := by
  show hasLane (tget 0 (tupd 0 gr.vPois r (setLane (tget 0 gr.vPois r) l q)) i) j = _
  rw [tget_tupd]
  by_cases hi : i = r
  · subst hi
    simp only [if_true, true_and]
    rw [hasLane_setLane _ _ hl hj]
    rfl
  · simp [hi, Group.poisV]

/-- The poison of an s register after a write; s63 is never poisoned. -/
theorem poisS_wrS (n i : Nat) (x : DWord) (q : Bool) (hn : n < 64) (hi : i < 64) :
    (gr.wrS n x q).poisS i = if i = n ∧ n ≠ 63 then q else gr.poisS i := by
  unfold Group.poisS Group.wrS Group.setPoisS
  by_cases h : n = 63
  · subst h
    by_cases h2 : i = 63 <;> simp [Group.setS, h2]
  · simp only [beq_iff_eq, h, if_false, Group.setS]
    rw [hasLane_setLane _ _ hn hi]
    by_cases h2 : i = n
    · subst h2; simp [h]
    · simp [h2]

/-- A v register after a pair write of one lane. -/
theorem getV_wrVec (regs n l r j x : Nat) (wide q : Bool) (hl : l < 64) (hj : j < 64) :
    (wrVec gr regs n wide l x q).getV r j =
      if j = l ∧ wide = true ∧ r = vNum regs (n + 1) then BitVec.ofNat 32 (x / 2 ^ 32)
      else if j = l ∧ r = vNum regs n then BitVec.ofNat 32 x else gr.getV r j := by
  unfold wrVec
  cases wide
  · simp only [Bool.false_eq_true, if_false, false_and, and_false]
    rw [getV_wrV _ _ _ _ _ _ _ hl hj]
    by_cases h1 : r = vNum regs n <;> by_cases h2 : j = l <;> simp [h1, h2]
  · simp only [if_true, true_and]
    rw [getV_wrV _ _ _ _ _ _ _ hl hj, getV_wrV _ _ _ _ _ _ _ hl hj]
    by_cases h1 : r = vNum regs n <;> by_cases h2 : j = l <;> by_cases h3 : r = vNum regs (n + 1) <;> simp [h1, h2, h3]

theorem poisV_wrVec (regs n l r j x : Nat) (wide q : Bool) (hl : l < 64) (hj : j < 64) :
    (wrVec gr regs n wide l x q).poisV r j =
      if j = l ∧ (r = vNum regs n ∨ (wide = true ∧ r = vNum regs (n + 1))) then q else gr.poisV r j := by
  unfold wrVec
  cases wide
  · simp only [Bool.false_eq_true, if_false, false_and, or_false]
    rw [poisV_wrV _ _ _ _ _ _ _ hl hj]
    by_cases h1 : r = vNum regs n <;> by_cases h2 : j = l <;> simp [h1, h2]
  · simp only [if_true, true_and]
    rw [poisV_wrV _ _ _ _ _ _ _ hl hj, poisV_wrV _ _ _ _ _ _ _ hl hj]
    by_cases h1 : r = vNum regs n <;> by_cases h2 : j = l <;> by_cases h3 : r = vNum regs (n + 1) <;> simp [h1, h2, h3]

/-- Two groups that differ at most in their v registers, and a third. -/
theorem sameButV_trans {a b c : Group} (h1 : a = { b with v := a.v, vPois := a.vPois, vUe := a.vUe })
    (h2 : b = { c with v := b.v, vPois := b.vPois, vUe := b.vUe }) : a = { c with v := a.v, vPois := a.vPois, vUe := a.vUe } :=
  h1.trans (by rw [h2])

theorem wrV_rest (r l : Nat) (x : Word) (q : Bool) :
    gr.wrV r l x q = { gr with v := (gr.wrV r l x q).v, vPois := (gr.wrV r l x q).vPois, vUe := (gr.wrV r l x q).vUe } := rfl

/-- A pair write leaves everything but the v registers. -/
theorem wrVec_rest (regs n l x : Nat) (wide q : Bool) :
    wrVec gr regs n wide l x q =
      { gr with v := (wrVec gr regs n wide l x q).v, vPois := (wrVec gr regs n wide l x q).vPois,
                vUe := (wrVec gr regs n wide l x q).vUe } := by
  cases wide
  · exact wrV_rest _ _ _ _ _
  · exact sameButV_trans (wrV_rest _ _ _ _ _) (wrV_rest _ _ _ _ _)

/-- A fold of pair writes over lanes. -/
theorem fold_wrVec (regs n : Nat) (wide : Bool) (val : Nat → Nat) (pois : Nat → Bool) (ls : List Nat) (hls : ∀ l ∈ ls, l < 64)
    (hn : ls.Nodup) :
    let g' := ls.foldl (fun g l => wrVec g regs n wide l (val l) (pois l)) gr
    (∀ r j, j < 64 → g'.getV r j =
      if j ∈ ls ∧ wide = true ∧ r = vNum regs (n + 1) then BitVec.ofNat 32 (val j / 2 ^ 32)
      else if j ∈ ls ∧ r = vNum regs n then BitVec.ofNat 32 (val j) else gr.getV r j) ∧
    (∀ r j, j < 64 → g'.poisV r j =
      if j ∈ ls ∧ (r = vNum regs n ∨ (wide = true ∧ r = vNum regs (n + 1))) then pois j else gr.poisV r j) ∧
    g' = { gr with v := g'.v, vPois := g'.vPois, vUe := g'.vUe } := by
  induction ls generalizing gr with
  | nil => simp
  | cons a r ih =>
    simp only [List.foldl_cons]
    have ha : a < 64 := hls a List.mem_cons_self
    obtain ⟨h1, h2, h3⟩ := ih (wrVec gr regs n wide a (val a) (pois a)) (fun l hl => hls l (List.mem_cons_of_mem _ hl)) hn.of_cons
    have hna : a ∉ r := (List.nodup_cons.1 hn).1
    refine ⟨fun q j hj => ?_, fun q j hj => ?_, ?_⟩
    · rw [h1 q j hj, getV_wrVec _ _ _ _ _ _ _ _ _ ha hj]
      by_cases e : j = a
      · subst e; simp [hna]
      · simp [e]
    · rw [h2 q j hj, poisV_wrVec _ _ _ _ _ _ _ _ _ ha hj]
      by_cases e : j = a
      · subst e; simp [hna]
      · simp [e]
    · exact sameButV_trans h3 (wrVec_rest _ _ _ _ _ _ _)

theorem nodup_lanesOf (m : Lanes) : (lanesOf m).Nodup := List.nodup_range.filter _

/-- The destination of wrDest leaves everything else alone. -/
theorem wrDest_only (c : Ctx) (wide : Bool) (val : Nat → Nat) (pois : Nat → Bool) (hd : c.f.d.toNat < 64 ∨ c.f.modBit 5 = false) :
    WritesOnlyD c wide (wrDest c (c.f.modBit 5) wide val pois c.gr) ∧
    PoisonOfD c wide (wrDest c (c.f.modBit 5) wide val pois c.gr) pois := by
  have hl : ∀ l ∈ lanesOf c.lanes, l < 64 := fun l h => hasLane_lt (mem_lanesOf.1 h)
  unfold wrDest
  cases hm : c.f.modBit 5
  · simp only [Bool.false_eq_true, if_false]
    obtain ⟨h1, h2, h3⟩ := fold_wrVec c.gr c.regs c.f.d.toNat wide val pois (lanesOf c.lanes) hl (nodup_lanesOf _)
    refine ⟨⟨?_, fun n _ => ?_, fun r l hl' hc => ?_⟩, ⟨fun _ l ha => ⟨?_, fun hw => ?_⟩, by simp [hm]⟩⟩
    · exact h3.trans (by rw [h3])
    · rw [h3]; exact ⟨rfl, rfl⟩
    · rw [h1 r l hl', h2 r l hl']
      simp only [mem_lanesOf]
      rcases hc with hc | hc | ⟨hc, hc2⟩
      · simp [hm] at hc
      · simp [hc]
      · cases wide
        · simp [hc]
        · simp [hc, hc2 rfl]
    · rw [h2 _ l (hasLane_lt ha)]; simp [mem_lanesOf, ha]
    · rw [h2 _ l (hasLane_lt ha)]; simp [mem_lanesOf, ha, hw]
  · simp only [if_true]
    have hd : c.f.d.toNat < 64 := by simpa [hm] using hd
    refine ⟨⟨?_, fun n hn => ⟨?_, ?_⟩, fun r l _ _ => ⟨by simp, ?_⟩⟩, ⟨by simp [hm], fun _ h63 l hl => ?_⟩⟩
    · simp only [Group.wrS, Group.setS, Group.setPoisS]; split <;> rfl
    · have hn : n ≠ c.f.d.toNat := by simpa [hm] using hn
      rw [getS_wrS]; simp [hn]
    · have hn : n ≠ c.f.d.toNat := by simpa [hm] using hn
      by_cases h64 : n < 64
      · rw [poisS_wrS _ _ _ _ _ hd h64]; simp [hn]
      · have : ∀ m : Lanes, hasLane m n = false := fun m => by
          by_contra hh; exact h64 (hasLane_lt (by simpa using hh))
        simp [Group.poisS, this]
    · simp [Group.poisV]
    · rw [poisS_wrS _ _ _ _ _ hd hd]
      simp [h63, hl]

end Sys2Proof.Machine
end

