-- ==== Sys2Proof/Laws/Memory.lean ====
section
/-!
SUPPORT. The laws of global memory: a byte read after a write, and the canonical form, which every memory operation keeps.
-/

namespace Sys2Proof.Machine

open Sys2Proof

/-- A byte read after a byte is written. -/
theorem peek_poke (m : List Host.Cell) (a i : Nat) (b : Byte) : peek (poke m a b) i = if i = a then b else peek m i :=
  tget_tupd 0 m a i b

/-- A byte outside the bytes written reads as before. -/
theorem peek_pokes_out (m : List Host.Cell) (a i : Nat) (b : List Byte) (h : i < a ∨ a + b.length ≤ i) :
    peek (pokes m a b) i = peek m i := by
  induction b generalizing m a with
  | nil => rfl
  | cons x r ih =>
    simp only [pokes]
    simp only [List.length_cons] at h
    rw [ih (poke m a x) (a + 1) (by omega), peek_poke, if_neg (by omega)]

/-- A byte among those written reads as written. -/
theorem peek_pokes_in (m : List Host.Cell) (a j : Nat) (b : List Byte) (h : j < b.length) :
    peek (pokes m a b) (a + j) = b[j] := by
  induction b generalizing m a j with
  | nil => simp at h
  | cons x r ih =>
    simp only [pokes]
    cases j with
    | zero => rw [peek_pokes_out _ _ _ _ (by omega), peek_poke]; simp
    | succ j =>
      have := ih (poke m a x) (a + 1) j (by simpa using h)
      rw [show a + (j + 1) = a + 1 + j by omega, this]
      simp

theorem wf_nil : Memory.wf [] := rfl

theorem wf_poke {m : List Host.Cell} (a : Nat) (b : Byte) (h : Memory.wf m) : Memory.wf (poke m a b) := twf_tupd a b h

theorem wf_pokes {m : List Host.Cell} (a : Nat) (b : List Byte) (h : Memory.wf m) : Memory.wf (pokes m a b) := by
  induction b generalizing m a with
  | nil => exact h
  | cons x r ih => exact ih (a + 1) (wf_poke a x h)

@[simp] theorem touchTails_mem (s : State) (pa n : Nat) : (touchTails s pa n).mem = s.mem := rfl
@[simp] theorem touchTails_memUe (s : State) (pa n : Nat) : (touchTails s pa n).memUe = s.memUe := rfl
@[simp] theorem touchTails_win (s : State) (pa n : Nat) : (touchTails s pa n).win = s.win := rfl
@[simp] theorem physWrite_mem (s : State) (pa : Nat) (b : List Byte) : (physWrite s pa b).mem = pokes s.mem pa b := rfl
@[simp] theorem physWrite_win (s : State) (pa : Nat) (b : List Byte) : (physWrite s pa b).win = s.win := rfl
@[simp] theorem physWrite_groups (s : State) (pa : Nat) (b : List Byte) : (physWrite s pa b).groups = s.groups := rfl
@[simp] theorem physWrite_cores (s : State) (pa : Nat) (b : List Byte) : (physWrite s pa b).cores = s.cores := rfl
@[simp] theorem physWrite_time (s : State) (pa : Nat) (b : List Byte) : (physWrite s pa b).time = s.time := rfl

/-- The one write of memory keeps its form. -/
theorem memOk_physWrite {s : State} (pa : Nat) (b : List Byte) (h : s.MemOk) : (physWrite s pa b).MemOk := wf_pokes pa b h

theorem memOk_setUe {s : State} (pa : Nat) (b : Bool) (h : s.MemOk) : (setUe s pa b).MemOk := h

theorem memOk_reset : State.reset.MemOk := rfl

/-- A state whose memory is that of another has its form. -/
theorem memOk_of_eq {s t : State} (e : t.mem = s.mem) (h : s.MemOk) : t.MemOk := by
  unfold State.MemOk at *
  rw [e]
  exact h

/-- A write of a byte outside the window is read back. -/
theorem physByte_physWrite_in (s : State) (pa j : Nat) (b : List Byte) (hj : j < b.length) (hw : isWindow (pa + j) = false) :
    physByte (physWrite s pa b) (pa + j) = b[j] := by
  simp only [physByte, hw, Bool.false_eq_true, if_false, physWrite_mem]
  exact peek_pokes_in s.mem pa j b hj

/-- A write leaves every byte outside it alone. -/
theorem physByte_physWrite_out (s : State) (pa i : Nat) (b : List Byte) (h : i < pa ∨ pa + b.length ≤ i)
    (hw : isWindow i = false) : physByte (physWrite s pa b) i = physByte s i := by
  simp only [physByte, hw, Bool.false_eq_true, if_false, physWrite_mem]
  exact peek_pokes_out s.mem pa i b h

end Sys2Proof.Machine
end

