-- ==== Sys2Proof/Laws/KeepsOps.lean ====
section
/-!
SUPPORT. Global memory keeps its canonical form (addresses rise strictly, no listed byte is the one an unlisted address reads as) under
the operations over memory, translation, caches, traps, agents, the directory and runs: one lemma each.
-/

namespace Sys2Proof.Machine

open Sys2Proof

/-! ### General -/

/-- A fold of steps that each keep the canonical form keeps it. -/
theorem keeps_foldl {α : Type} {f : State → α → State} {l : List α} {s : State}
    (hf : ∀ s x, Memory.wf s.mem → Memory.wf (f s x).mem) (h : Memory.wf s.mem) : Memory.wf (l.foldl f s).mem := by
  induction l generalizing s with
  | nil => exact h
  | cons x r ih => exact ih (hf s x h)

/-- The same for steps that carry another value. -/
theorem keeps_foldl_fst {α β : Type} {f : State × β → α → State × β} {l : List α} {p : State × β}
    (hf : ∀ p x, Memory.wf p.1.mem → Memory.wf (f p x).1.mem) (h : Memory.wf p.1.mem) : Memory.wf (l.foldl f p).1.mem := by
  induction l generalizing p with
  | nil => exact h
  | cons x r ih => exact ih (hf p x h)

/-- Either way of a choice. -/
theorem keeps_ite {c : Prop} {_ : Decidable c} {a b : State} (ha : Memory.wf a.mem) (hb : Memory.wf b.mem) :
    Memory.wf (if c then a else b).mem := by
  by_cases h : c
  · rw [if_pos h]
    exact ha
  · rw [if_neg h]
    exact hb

/-- The state of a pair that an operation answers. -/
theorem keeps_fst {α : Type} {p : State × α} {s : State} {a : α} (e : p = (s, a)) (h : Memory.wf p.1.mem) : Memory.wf s.mem := by
  subst e
  exact h

/-- The state of a pair that an operation answers second. -/
theorem keeps_snd {α : Type} {p : α × State} {s : State} {a : α} (e : p = (a, s)) (h : Memory.wf p.2.mem) : Memory.wf s.mem := by
  subst e
  exact h

/-! ### Store.lean -/

theorem keeps_winSet {s : State} {ofs : Nat} {v : Nat} (kp : Memory.wf s.mem) : Memory.wf (winSet s ofs v).mem := kp

theorem keeps_winField {s : State} {ofs hi lo y : Nat} (kp : Memory.wf s.mem) : Memory.wf (winField s ofs hi lo y).mem := by
  unfold winField
  repeat' first
   | with_reducible assumption
   | with_reducible apply keeps_winSet

theorem keeps_winCount {s : State} {ofs hi lo : Nat} (kp : Memory.wf s.mem) : Memory.wf (winCount s ofs hi lo).mem := by
  unfold winCount
  repeat' first
   | with_reducible assumption
   | with_reducible apply keeps_winField

theorem keeps_setUe {s : State} {pa : Nat} {b : Bool} (kp : Memory.wf s.mem) : Memory.wf (setUe s pa b).mem := kp

theorem keeps_touchTails {s : State} {pa n : Nat} (kp : Memory.wf s.mem) : Memory.wf (touchTails s pa n).mem := kp

theorem keeps_physWrite {s : State} {pa : Nat} {b : List Byte} (kp : Memory.wf s.mem) : Memory.wf (physWrite s pa b).mem := by
  unfold physWrite
  dsimp only
  exact wf_pokes _ _ (keeps_touchTails kp)

theorem keeps_State_setGroup {s : State} {g : Nat} {v : Group} (kp : Memory.wf s.mem) : Memory.wf (State.setGroup s g v).mem := kp

theorem keeps_State_modGroup {s : State} {g : Nat} {f : Group → Group} (kp : Memory.wf s.mem) : Memory.wf (State.modGroup s g f).mem := by
  unfold State.modGroup
  repeat' first
   | with_reducible assumption
   | with_reducible apply keeps_State_setGroup

theorem keeps_State_setBlock {s : State} {b : Nat} {v : Block} (kp : Memory.wf s.mem) : Memory.wf (State.setBlock s b v).mem := kp

theorem keeps_State_modBlock {s : State} {b : Nat} {f : Block → Block} (kp : Memory.wf s.mem) : Memory.wf (State.modBlock s b f).mem := by
  unfold State.modBlock
  repeat' first
   | with_reducible assumption
   | with_reducible apply keeps_State_setBlock

theorem keeps_State_setLaunch {s : State} {l : Nat} {v : Launch} (kp : Memory.wf s.mem) : Memory.wf (State.setLaunch s l v).mem := kp

theorem keeps_State_modLaunch {s : State} {l : Nat} {f : Launch → Launch} (kp : Memory.wf s.mem) :
    Memory.wf (State.modLaunch s l f).mem := by
  unfold State.modLaunch
  repeat' first
   | with_reducible assumption
   | with_reducible apply keeps_State_setLaunch

theorem keeps_State_setCore {s : State} {c : Nat} {v : Core} (kp : Memory.wf s.mem) : Memory.wf (State.setCore s c v).mem := kp

theorem keeps_State_modCore {s : State} {c : Nat} {f : Core → Core} (kp : Memory.wf s.mem) : Memory.wf (State.modCore s c f).mem := by
  unfold State.modCore
  repeat' first
   | with_reducible assumption
   | with_reducible apply keeps_State_setCore

theorem keeps_State_setCluster {s : State} {c : Nat} {v : Cluster} (kp : Memory.wf s.mem) : Memory.wf (State.setCluster s c v).mem := kp

theorem keeps_State_modCluster {s : State} {c : Nat} {f : Cluster → Cluster} (kp : Memory.wf s.mem) :
    Memory.wf (State.modCluster s c f).mem := by
  unfold State.modCluster
  repeat' first
   | with_reducible assumption
   | with_reducible apply keeps_State_setCluster

theorem keeps_State_wire {s : State} {i : Msg} (kp : Memory.wf s.mem) : Memory.wf (State.wire s i).mem := kp

theorem keeps_State_wireOnce {s : State} {i : Msg} (kp : Memory.wf s.mem) : Memory.wf (State.wireOnce s i).mem := by
  unfold State.wireOnce
  repeat' first
   | with_reducible assumption
   | with_reducible apply keeps_State_wire
   | split

theorem keeps_State_fresh {s : State} (kp : Memory.wf s.mem) : Memory.wf (State.fresh s).2.mem := kp

/-! ### Cache.lean -/

theorem keeps_sendWb {s : State} {c frame : Nat} {m : BitVec 32} (kp : Memory.wf s.mem) : Memory.wf (sendWb s c frame m).mem := by
  unfold sendWb
  repeat' first
   | with_reducible assumption
   | with_reducible apply keeps_State_wire
   | split

theorem keeps_wbUe {s : State} {frame : Nat} {m : BitVec 32} (kp : Memory.wf s.mem) : Memory.wf (wbUe s frame m).mem := by
  unfold wbUe
  repeat' first
   | with_reducible assumption
   | with_reducible apply keeps_setUe
   | with_reducible refine keeps_foldl (fun _ _ _ => ?_) ?_
   | split

theorem keeps_dropCodeIf {s : State} {c : Nat} {hit : ISec → Bool} (kp : Memory.wf s.mem) : Memory.wf (dropCodeIf s c hit).mem := by
  unfold dropCodeIf
  repeat' first
   | with_reducible assumption
   | with_reducible apply keeps_State_modCore
   | with_reducible refine keeps_foldl (fun _ _ _ => ?_) ?_
   | split

theorem keeps_dropCode {s : State} {c frame : Nat} {m : BitVec 32} (kp : Memory.wf s.mem) : Memory.wf (dropCode s c frame m).mem := by
  unfold dropCode
  repeat' first
   | with_reducible assumption
   | with_reducible apply keeps_dropCodeIf

theorem keeps_dropFrom {s : State} {c key : Nat} {m : BitVec 32} (kp : Memory.wf s.mem) : Memory.wf (dropFrom s c key m).mem := by
  unfold dropFrom
  repeat' first
   | with_reducible assumption
   | with_reducible apply keeps_State_modCluster
   | with_reducible apply keeps_sendWb
   | with_reducible apply keeps_wbUe
   | split

theorem keeps_evictSlot {s : State} {c key : Nat} (kp : Memory.wf s.mem) : Memory.wf (evictSlot s c key).mem := by
  unfold evictSlot
  repeat' first
   | with_reducible assumption
   | with_reducible apply keeps_State_modCluster
   | with_reducible apply keeps_dropFrom
   | split

theorem keeps_slotFor {s : State} {c asid vframe pframe : Nat} (kp : Memory.wf s.mem) :
    Memory.wf (slotFor s c asid vframe pframe).1.mem := by
  unfold slotFor
  repeat' first
   | with_reducible assumption
   | with_reducible apply keeps_evictSlot
   | split

theorem keeps_install {s : State} {c : Nat} {t : Tlb} {va pframe : Nat} {m ue : BitVec 32} {x pc : Nat} (kp : Memory.wf s.mem) :
    Memory.wf (install s c t va pframe m ue x pc).mem := by
  unfold install
  repeat' first
   | with_reducible assumption
   | with_reducible apply keeps_State_modCluster
   | with_reducible apply keeps_dropFrom
   | with_reducible apply keeps_evictSlot
   | with_reducible apply keeps_slotFor
   | with_reducible refine keeps_foldl (fun _ _ _ => ?_) ?_
   | dsimp only
   | split

theorem keeps_trimSlot {s : State} {c asid va : Nat} (kp : Memory.wf s.mem) : Memory.wf (trimSlot s c asid va).mem := by
  unfold trimSlot
  repeat' first
   | with_reducible assumption
   | with_reducible apply keeps_dropFrom
   | split

theorem keeps_hintSlot {s : State} {c asid va hint : Nat} (kp : Memory.wf s.mem) : Memory.wf (hintSlot s c asid va hint).mem := by
  unfold hintSlot
  repeat' first
   | with_reducible assumption
   | with_reducible apply keeps_State_modCluster
   | split

theorem keeps_touchSlot {s : State} {c key : Nat} {m : BitVec 32} (kp : Memory.wf s.mem) : Memory.wf (touchSlot s c key m).mem := by
  unfold touchSlot
  repeat' first
   | with_reducible assumption
   | with_reducible apply keeps_State_modCluster

theorem keeps_addFill {s : State} {c : Nat} {f : Fill} (kp : Memory.wf s.mem) : Memory.wf (addFill s c f).mem := by
  unfold addFill
  repeat' first
   | with_reducible assumption
   | with_reducible apply keeps_State_modCluster

theorem keeps_endFill {s : State} {c : Nat} {f : Fill} {m : BitVec 32} (kp : Memory.wf s.mem) : Memory.wf (endFill s c f m).mem := by
  unfold endFill
  repeat' first
   | with_reducible assumption
   | with_reducible apply keeps_State_modCluster

theorem keeps_takeFill {s : State} {c : Nat} {who : Waiter} {frame : Nat} {m race ue : BitVec 32} {x : Nat} (kp : Memory.wf s.mem) :
    Memory.wf (takeFill s c who frame m race ue x).mem := by
  unfold takeFill
  repeat' first
   | with_reducible assumption
   | with_reducible apply keeps_install
   | with_reducible apply keeps_trimSlot
   | with_reducible apply keeps_hintSlot
   | with_reducible apply keeps_endFill
   | dsimp only
   | split

theorem keeps_State_send {s : State} {r : Req} (kp : Memory.wf s.mem) : Memory.wf (State.send s r).mem := by
  unfold State.send
  repeat' first
   | with_reducible assumption
   | with_reducible apply keeps_State_wire

/-! ### Trace.lean -/

theorem keeps_msi {s : State} {v : Nat} (kp : Memory.wf s.mem) : Memory.wf (msi s v).mem := kp

theorem keeps_dbgEvt {s : State} {bit : Nat} (kp : Memory.wf s.mem) : Memory.wf (dbgEvt s bit).mem := by
  unfold dbgEvt
  repeat' first
   | with_reducible assumption
   | with_reducible apply keeps_winSet
   | with_reducible apply keeps_msi
   | dsimp only
   | split

theorem keeps_alertSet {s : State} {bit : Nat} (kp : Memory.wf s.mem) : Memory.wf (alertSet s bit).mem := by
  unfold alertSet
  repeat' first
   | with_reducible assumption
   | with_reducible apply keeps_msi
   | dsimp only
   | split

theorem keeps_evCount {s : State} {code : Nat} {core : Option Nat} {n : Nat} (kp : Memory.wf s.mem) :
    Memory.wf (evCount s code core n).mem := by
  unfold evCount
  repeat' first
   | with_reducible assumption
   | with_reducible apply keeps_winSet
   | with_reducible refine keeps_foldl (fun _ _ _ => ?_) ?_
   | dsimp only
   | split

theorem keeps_traceDrop {s : State} (kp : Memory.wf s.mem) : Memory.wf (traceDrop s).mem := by
  unfold traceDrop
  repeat' first
   | with_reducible assumption
   | with_reducible apply keeps_winCount

theorem keeps_traceDone {s : State} (kp : Memory.wf s.mem) : Memory.wf (traceDone s).mem := by
  unfold traceDone
  repeat' first
   | with_reducible assumption
   | with_reducible apply keeps_winField

theorem keeps_leuth {s : State} {cls kind payload core group seq pc : Nat} {dev orphan : Bool} (kp : Memory.wf s.mem) :
    Memory.wf (leuth s cls kind payload core group seq pc dev orphan).mem := by
  unfold leuth
  repeat' first
   | with_reducible assumption
   | with_reducible apply keeps_State_wireOnce
   | with_reducible apply keeps_traceDrop
   | with_reducible apply keeps_traceDone
   | dsimp only
   | split

theorem keeps_rfrzTrigger {s : State} {bit : Nat} (kp : Memory.wf s.mem) : Memory.wf (rfrzTrigger s bit).mem := by
  unfold rfrzTrigger
  repeat' first
   | with_reducible assumption
   | with_reducible apply keeps_winSet
   | with_reducible apply keeps_dbgEvt
   | with_reducible apply keeps_leuth
   | dsimp only
   | split

theorem keeps_countError {s : State} {cls : Nat} {core : Option Nat} {ue : Bool} (kp : Memory.wf s.mem) :
    Memory.wf (countError s cls core ue).mem := by
  unfold countError
  repeat' first
   | with_reducible assumption
   | with_reducible apply keeps_winCount
   | with_reducible apply keeps_msi
   | with_reducible apply keeps_alertSet
   | with_reducible apply keeps_evCount
   | with_reducible apply keeps_rfrzTrigger
   | split

theorem keeps_countDram {s : State} {frame : Nat} {ue : Bool} (kp : Memory.wf s.mem) : Memory.wf (countDram s frame ue).mem := by
  unfold countDram
  repeat' first
   | with_reducible assumption
   | with_reducible apply keeps_winCount
   | with_reducible apply keeps_countError
   | split

theorem keeps_faultRecord {s : State} {core group seq pc cause sub : Nat} {orphan : Bool} (kp : Memory.wf s.mem) :
    Memory.wf (faultRecord s core group seq pc cause sub orphan).mem := by
  unfold faultRecord
  repeat' first
   | with_reducible assumption
   | with_reducible apply keeps_leuth

theorem keeps_watchRecord {s : State} {c core group seq pc : Nat} {h : WatchHit} {orphan : Bool} (kp : Memory.wf s.mem) :
    Memory.wf (watchRecord s c core group seq pc h orphan).mem := by
  unfold watchRecord
  repeat' first
   | with_reducible assumption
   | with_reducible apply keeps_leuth

/-! ### Walk.lean -/

theorem keeps_modWalk {s : State} {c asid region : Nat} {f : Walk → Walk} (kp : Memory.wf s.mem) :
    Memory.wf (modWalk s c asid region f).mem := by
  unfold modWalk
  repeat' first
   | with_reducible assumption
   | with_reducible apply keeps_State_modCluster

theorem keeps_joinWalk {s : State} {c asid : Nat} {w : WalkWait} {age : BitVec 24} (kp : Memory.wf s.mem) :
    Memory.wf (joinWalk s c asid w age).mem := by
  unfold joinWalk
  repeat' first
   | with_reducible assumption
   | with_reducible apply keeps_State_modCluster
   | with_reducible apply keeps_State_wireOnce
   | with_reducible apply keeps_evCount
   | with_reducible apply keeps_modWalk
   | split

theorem keeps_addWaiter {s : State} {c asid : Nat} {w : WalkWait} (kp : Memory.wf s.mem) : Memory.wf (addWaiter s c asid w).mem := by
  unfold addWaiter
  repeat' first
   | with_reducible assumption
   | with_reducible apply keeps_State_modCluster
   | with_reducible apply keeps_joinWalk
   | dsimp only
   | split

theorem keeps_drainMiss {s : State} {c : Nat} {fuel : Nat} (kp : Memory.wf s.mem) : Memory.wf (drainMiss s c fuel).mem := by
  induction fuel generalizing s c with
  | zero => exact kp
  | succ n ih =>
    unfold drainMiss
    repeat' first
     | with_reducible assumption
     | with_reducible apply ih
     | with_reducible apply keeps_State_modCluster
     | with_reducible apply keeps_joinWalk
     | split

theorem keeps_walkKick {s : State} (kp : Memory.wf s.mem) : Memory.wf (walkKick s).mem := by
  unfold walkKick
  repeat' first
   | with_reducible assumption
   | with_reducible apply keeps_State_wireOnce
   | with_reducible refine keeps_foldl (fun _ _ _ => ?_) ?_
   | split

theorem keeps_walkAnswer {s : State} {c : Nat} {w : Walk} {lo hi : Nat} {res : XRes} (kp : Memory.wf s.mem) :
    Memory.wf (walkAnswer s c w lo hi res).1.mem := by
  unfold walkAnswer
  repeat' first
   | with_reducible assumption
   | with_reducible apply keeps_State_wire
   | with_reducible apply keeps_modWalk

theorem keeps_walkGo {s : State} {c asid region : Nat} (kp : Memory.wf s.mem) : Memory.wf (walkGo s c asid region).1.mem := by
  unfold walkGo
  repeat' first
   | with_reducible assumption
   | with_reducible apply keeps_State_wire
   | with_reducible apply keeps_State_send
   | with_reducible apply keeps_modWalk
   | with_reducible apply keeps_walkAnswer
   | split

theorem keeps_walkEval {s : State} {c : Nat} {w : Walk} {ea : Nat} {ue : BitVec 32} (kp : Memory.wf s.mem) :
    Memory.wf (walkEval s c w ea ue).1.mem := by
  unfold walkEval
  repeat' first
   | with_reducible assumption
   | with_reducible apply keeps_State_modCluster
   | with_reducible apply keeps_State_wire
   | with_reducible apply keeps_State_send
   | with_reducible apply keeps_modWalk
   | with_reducible apply keeps_walkAnswer
   | with_reducible apply keeps_walkGo
   | dsimp only
   | split

theorem keeps_walkReply {s : State} {c asid region : Nat} {r : Req} {ue : BitVec 32} (kp : Memory.wf s.mem) :
    Memory.wf (walkReply s c asid region r ue).1.mem := by
  unfold walkReply
  repeat' first
   | with_reducible assumption
   | with_reducible apply keeps_walkGo
   | with_reducible apply keeps_walkEval
   | split

theorem keeps_walkSwap {s : State} {c asid region : Nat} {r : Req} (kp : Memory.wf s.mem) : Memory.wf (walkSwap s c asid region r).mem := by
  unfold walkSwap
  repeat' first
   | with_reducible assumption
   | with_reducible apply keeps_physWrite
   | with_reducible apply keeps_modWalk
   | split

theorem keeps_walkFlt {s : State} {c asid region cause sub : Nat} (kp : Memory.wf s.mem) :
    Memory.wf (walkFlt s c asid region cause sub).1.mem := by
  unfold walkFlt
  repeat' first
   | with_reducible assumption
   | with_reducible apply keeps_walkAnswer
   | split

theorem keeps_walkBegin {s : State} {c : Nat} (kp : Memory.wf s.mem) : Memory.wf (walkBegin s c).1.mem := by
  unfold walkBegin
  repeat' first
   | with_reducible assumption
   | with_reducible apply keeps_evCount
   | with_reducible apply keeps_modWalk
   | with_reducible apply keeps_walkKick
   | with_reducible apply keeps_walkGo
   | dsimp only
   | split

theorem keeps_walkEnd {s : State} {c asid region : Nat} (kp : Memory.wf s.mem) : Memory.wf (walkEnd s c asid region).1.mem := by
  unfold walkEnd
  repeat' first
   | with_reducible assumption
   | with_reducible apply keeps_State_modCluster
   | with_reducible apply keeps_drainMiss
   | with_reducible apply keeps_walkKick
   | with_reducible apply keeps_walkGo
   | dsimp only
   | split

theorem keeps_walkRestart {s : State} {c : Nat} {hit : Walk → Bool} (kp : Memory.wf s.mem) : Memory.wf (walkRestart s c hit).mem := by
  unfold walkRestart
  repeat' first
   | with_reducible assumption
   | with_reducible apply keeps_State_modCluster
   | with_reducible apply keeps_walkKick

/-! ### Ops.lean -/

theorem keeps_State_modPend {s : State} {g id : Nat} {f : Pend → Pend} (kp : Memory.wf s.mem) : Memory.wf (State.modPend s g id f).mem := by
  unfold State.modPend
  repeat' first
   | with_reducible assumption
   | with_reducible apply keeps_State_modGroup

theorem keeps_addPend {s : State} {g : Nat} {p : Pend} (kp : Memory.wf s.mem) : Memory.wf (addPend s g p).mem := by
  unfold addPend
  repeat' first
   | with_reducible assumption
   | with_reducible apply keeps_State_modGroup

theorem keeps_finishPend {s : State} {g id : Nat} (kp : Memory.wf s.mem) : Memory.wf (finishPend s g id).mem := by
  unfold finishPend
  repeat' first
   | with_reducible assumption
   | with_reducible apply keeps_State_setGroup
   | with_reducible apply keeps_State_wire
   | with_reducible refine keeps_foldl (fun _ _ _ => ?_) ?_
   | dsimp only
   | split

theorem keeps_cancelPend {s : State} {g id : Nat} (kp : Memory.wf s.mem) : Memory.wf (cancelPend s g id).mem := by
  unfold cancelPend
  repeat' first
   | with_reducible assumption
   | with_reducible apply keeps_State_modPend
   | with_reducible apply keeps_finishPend

theorem keeps_icPut {s : State} {core pa : Nat} {ue : Bool} (kp : Memory.wf s.mem) : Memory.wf (icPut s core pa ue).mem := by
  unfold icPut
  repeat' first
   | with_reducible assumption
   | with_reducible apply keeps_State_modCore

theorem keeps_moveF {s : State} {c : Nat} {t : Tlb} {va pframe : Nat} {m : BitVec 32} {pc : Nat} (kp : Memory.wf s.mem) :
    Memory.wf (moveF s c t va pframe m pc).mem := by
  unfold moveF
  repeat' first
   | with_reducible assumption
   | with_reducible apply keeps_install
   | with_reducible apply keeps_trimSlot
   | with_reducible refine keeps_foldl (fun _ _ _ => ?_) ?_
   | dsimp only
   | split

theorem keeps_fetchStart {s : State} {g va : Nat} (kp : Memory.wf s.mem) : Memory.wf (fetchStart s g va).mem := by
  unfold fetchStart
  repeat' first
   | with_reducible assumption
   | with_reducible apply keeps_State_modGroup
   | with_reducible apply keeps_touchSlot
   | with_reducible apply keeps_addFill
   | with_reducible apply keeps_State_send
   | with_reducible apply keeps_addWaiter
   | with_reducible apply keeps_icPut
   | with_reducible apply keeps_moveF
   | dsimp only
   | split

theorem keeps_fetchKick {s : State} {g : Nat} (kp : Memory.wf s.mem) : Memory.wf (fetchKick s g).mem := by
  unfold fetchKick
  repeat' first
   | with_reducible assumption
   | with_reducible apply keeps_State_modGroup
   | with_reducible apply keeps_fetchStart
   | with_reducible refine keeps_foldl (fun _ _ _ => ?_) ?_
   | dsimp only
   | split

theorem keeps_settle {s : State} {g : Nat} (kp : Memory.wf s.mem) : Memory.wf (settle s g).mem := by
  unfold settle
  repeat' first
   | with_reducible assumption
   | with_reducible apply keeps_State_modGroup

theorem keeps_releaseFut {s : State} {g k lane : Nat} (kp : Memory.wf s.mem) : Memory.wf (releaseFut s g k lane).mem := by
  unfold releaseFut
  repeat' first
   | with_reducible assumption
   | with_reducible apply keeps_State_modGroup
   | with_reducible apply keeps_State_modCluster
   | with_reducible apply keeps_State_wire
   | split

theorem keeps_setBar {s : State} {b : BarRef} {v : Bar} (kp : Memory.wf s.mem) : Memory.wf (setBar s b v).mem := by
  unfold setBar
  repeat' first
   | with_reducible assumption
   | with_reducible apply keeps_State_modBlock
   | with_reducible apply keeps_State_modLaunch
   | split

theorem keeps_advanceBar {s : State} {b : BarRef} {who : Nat} {pc : DWord} {last : BitVec 16} {fuel : Nat} (kp : Memory.wf s.mem) :
    Memory.wf (advanceBar s b who pc last fuel).mem := by
  induction fuel generalizing s b who pc last with
  | zero => exact kp
  | succ n ih =>
    unfold advanceBar
    repeat' first
     | with_reducible assumption
     | with_reducible apply ih
     | with_reducible apply keeps_State_wire
     | with_reducible apply keeps_leuth
     | with_reducible apply keeps_setBar
     | with_reducible refine keeps_foldl (fun _ _ _ => ?_) ?_
     | dsimp only
     | split

theorem keeps_launchFault {s : State} {l cause group : Nat} (kp : Memory.wf s.mem) : Memory.wf (launchFault s l cause group).mem := by
  unfold launchFault
  repeat' first
   | with_reducible assumption
   | with_reducible apply keeps_State_modLaunch

theorem keeps_causeTrigger {s : State} {cause : Nat} (kp : Memory.wf s.mem) : Memory.wf (causeTrigger s cause).mem := by
  unfold causeTrigger
  repeat' first
   | with_reducible assumption
   | with_reducible apply keeps_rfrzTrigger
   | split

theorem keeps_causesTrigger {s : State} {cs : List LaneCause} (kp : Memory.wf s.mem) : Memory.wf (causesTrigger s cs).mem := by
  unfold causesTrigger
  repeat' first
   | with_reducible assumption
   | with_reducible apply keeps_causeTrigger
   | with_reducible refine keeps_foldl (fun _ _ _ => ?_) ?_

theorem keeps_unpark {s : State} {p : Parked} {abandon : Bool} (kp : Memory.wf s.mem) : Memory.wf (unpark s p abandon).mem := by
  unfold unpark
  repeat' first
   | with_reducible assumption
   | with_reducible apply keeps_State_modCore
   | with_reducible apply keeps_State_modCluster
   | with_reducible apply keeps_State_wire
   | split

theorem keeps_queueEFault {s : State} {g : Nat} {e : EFault} (kp : Memory.wf s.mem) : Memory.wf (queueEFault s g e).mem := by
  unfold queueEFault
  repeat' first
   | with_reducible assumption
   | with_reducible apply keeps_State_modGroup
   | with_reducible apply keeps_dbgEvt
   | with_reducible apply keeps_faultRecord
   | with_reducible apply keeps_launchFault
   | with_reducible apply keeps_causeTrigger
   | with_reducible apply keeps_unpark
   | dsimp only
   | split

theorem keeps_replace {s : State} (kp : Memory.wf s.mem) : Memory.wf (replace s).mem := by
  unfold replace
  repeat' first
   | with_reducible assumption
   | with_reducible apply keeps_State_wireOnce
   | with_reducible refine keeps_foldl (fun _ _ _ => ?_) ?_
   | split

theorem keeps_childKick {s : State} (kp : Memory.wf s.mem) : Memory.wf (childKick s).mem := by
  unfold childKick
  repeat' first
   | with_reducible assumption
   | with_reducible apply keeps_State_wireOnce
   | with_reducible refine keeps_foldl (fun _ _ _ => ?_) ?_
   | dsimp only
   | split

theorem keeps_endGroup {s : State} {g : Nat} (kp : Memory.wf s.mem) : Memory.wf (endGroup s g).mem := by
  unfold endGroup
  repeat' first
   | with_reducible assumption
   | lift_lets
   | (intro stx
      have hstx : Memory.wf stx.mem := by
       dsimp (zeta := false) only [stx]
       repeat' first
        | with_reducible assumption
        | with_reducible apply keeps_State_modGroup
        | with_reducible apply keeps_State_modBlock
        | with_reducible apply keeps_State_modLaunch
        | with_reducible apply keeps_State_modCore
        | with_reducible apply keeps_State_wire
        | with_reducible apply keeps_dbgEvt
        | with_reducible apply keeps_cancelPend
        | with_reducible apply keeps_releaseFut
        | with_reducible apply keeps_setBar
        | with_reducible apply keeps_advanceBar
        | with_reducible apply keeps_launchFault
        | with_reducible apply keeps_causeTrigger
        | with_reducible apply keeps_State_wireOnce
        | with_reducible apply keeps_unpark
        | with_reducible refine keeps_foldl (fun _ _ _ => ?_) ?_
        | split
      clear_value stx)
   | (intro stx; clear_value stx)
   | with_reducible apply keeps_State_modGroup
   | with_reducible apply keeps_State_modBlock
   | with_reducible apply keeps_State_modLaunch
   | with_reducible apply keeps_State_modCore
   | with_reducible apply keeps_State_wire
   | with_reducible apply keeps_dbgEvt
   | with_reducible apply keeps_cancelPend
   | with_reducible apply keeps_releaseFut
   | with_reducible apply keeps_setBar
   | with_reducible apply keeps_advanceBar
   | with_reducible apply keeps_launchFault
   | with_reducible apply keeps_unpark
   | with_reducible apply keeps_childKick
   | with_reducible apply keeps_replace
   | with_reducible refine keeps_foldl (fun _ _ _ => ?_) ?_
   | split

theorem keeps_endGroupCause {s : State} {g cause sub pc : Nat} (kp : Memory.wf s.mem) : Memory.wf (endGroupCause s g cause sub pc).mem := by
  unfold endGroupCause
  repeat' first
   | with_reducible assumption
   | with_reducible apply keeps_dbgEvt
   | with_reducible apply keeps_faultRecord
   | with_reducible apply keeps_launchFault
   | with_reducible apply keeps_causeTrigger
   | with_reducible apply keeps_endGroup

theorem keeps_frameWatch {s : State} {g asid a : Nat} {pc : DWord} {wr : Bool} (kp : Memory.wf s.mem) :
    Memory.wf (frameWatch s g asid a pc wr).mem := by
  unfold frameWatch
  repeat' first
   | with_reducible assumption
   | with_reducible apply keeps_State_modGroup
   | with_reducible apply keeps_watchRecord
   | with_reducible refine keeps_foldl (fun _ _ _ => ?_) ?_
   | dsimp only
   | split

theorem keeps_takeTrap {s : State} {g : Nat} {t : TrapInfo} (kp : Memory.wf s.mem) : Memory.wf (takeTrap s g t).mem := by
  unfold takeTrap
  repeat' first
   | with_reducible assumption
   | with_reducible apply keeps_State_modGroup
   | with_reducible apply keeps_faultRecord
   | with_reducible apply keeps_causesTrigger
   | with_reducible apply keeps_endGroupCause
   | with_reducible apply keeps_addPend
   | with_reducible apply keeps_frameWatch
   | with_reducible apply keeps_State_fresh
   | with_reducible apply keeps_State_wire
   | dsimp only
   | split

theorem keeps_takeLater {s : State} {g : Nat} (kp : Memory.wf s.mem) : Memory.wf (takeLater s g).mem := by
  unfold takeLater
  repeat' first
   | with_reducible assumption
   | with_reducible apply keeps_State_modGroup
   | with_reducible apply keeps_State_wire
   | split

theorem keeps_passWires {s : State} {g : Nat} (kp : Memory.wf s.mem) : Memory.wf (passWires s g).mem := by
  unfold passWires
  repeat' first
   | with_reducible assumption
   | with_reducible apply keeps_State_wireOnce
   | with_reducible refine keeps_foldl (fun _ _ _ => ?_) ?_
   | split

theorem keeps_returnFromTrap {s : State} {g : Nat} {fr : List Nat} (kp : Memory.wf s.mem) : Memory.wf (returnFromTrap s g fr).mem := by
  unfold returnFromTrap
  repeat' first
   | with_reducible assumption
   | with_reducible apply keeps_State_setGroup
   | with_reducible apply keeps_settle
   | with_reducible apply keeps_unpark
   | with_reducible apply keeps_endGroup
   | with_reducible apply keeps_takeLater
   | with_reducible apply keeps_passWires
   | with_reducible refine keeps_foldl (fun _ _ _ => ?_) ?_
   | dsimp only
   | split

theorem keeps_eretTry {s : State} {g : Nat} (kp : Memory.wf s.mem) : Memory.wf (eretTry s g).mem := by
  unfold eretTry
  repeat' first
   | with_reducible assumption
   | with_reducible apply keeps_State_wire
   | with_reducible apply keeps_State_fresh
   | with_reducible apply keeps_addPend
   | with_reducible apply keeps_endGroupCause
   | with_reducible apply keeps_frameWatch
   | dsimp only
   | split

theorem keeps_rotateHeld {s : State} {g : Nat} (kp : Memory.wf s.mem) : Memory.wf (rotateHeld s g).mem := by
  unfold rotateHeld
  repeat' first
   | with_reducible assumption
   | with_reducible apply keeps_State_setGroup
   | with_reducible apply keeps_settle
   | dsimp only
   | split

theorem keeps_endRun {s : State} {g : Nat} (kp : Memory.wf s.mem) : Memory.wf (endRun s g).mem := by
  unfold endRun
  repeat' first
   | with_reducible assumption
   | with_reducible apply keeps_State_setGroup
   | with_reducible apply keeps_State_wire
   | with_reducible apply keeps_dbgEvt
   | with_reducible apply keeps_rotateHeld
   | with_reducible apply keeps_settle
   | with_reducible apply keeps_endGroup
   | with_reducible apply keeps_passWires
   | with_reducible apply keeps_eretTry
   | dsimp only
   | split

theorem keeps_trapPrecise {c : Ctx} {cs : List LaneCause} {atile : Option Nat} {s : State} (kp : Memory.wf s.mem) :
    Memory.wf (trapPrecise c cs atile s).mem := by
  unfold trapPrecise
  repeat' first
   | with_reducible assumption
   | with_reducible apply keeps_takeTrap

theorem keeps_trapEngine {c : Ctx} {cs : List LaneCause} {e : EFault} {s : State} (kp : Memory.wf s.mem) :
    Memory.wf (trapEngine c cs e s).mem := by
  unfold trapEngine
  repeat' first
   | with_reducible assumption
   | with_reducible apply keeps_takeTrap

theorem keeps_stallGroup {s : State} {g : Nat} {own : Bool} (kp : Memory.wf s.mem) : Memory.wf (stallGroup s g own).mem := by
  unfold stallGroup
  repeat' first
   | with_reducible assumption
   | with_reducible apply keeps_State_modGroup
   | with_reducible apply keeps_endGroup
   | split

theorem keeps_stopAt {c : Ctx} {s : State} (kp : Memory.wf s.mem) : Memory.wf (stopAt c s).mem := by
  unfold stopAt
  repeat' first
   | with_reducible assumption
   | with_reducible apply keeps_State_modGroup
   | with_reducible apply keeps_dbgEvt

theorem keeps_advance {c : Ctx} {s : State} (kp : Memory.wf s.mem) : Memory.wf (advance c s).mem := by
  unfold advance
  repeat' first
   | with_reducible assumption
   | with_reducible apply keeps_State_modGroup
   | with_reducible apply keeps_evCount
   | with_reducible apply keeps_endRun
   | dsimp only
   | split

theorem keeps_afterAct {c : Ctx} {sem : Meaning} {s0 : State} {r : State × Bool} (kp : Memory.wf r.1.mem) :
    Memory.wf (afterAct c sem s0 r).mem := by
  obtain ⟨rs, re⟩ := r
  unfold afterAct
  repeat' first
   | with_reducible assumption
   | with_reducible apply keeps_State_modGroup

theorem keeps_cutRun {s : State} {g : Nat} {pc : DWord} {lanes : Lanes} (kp : Memory.wf s.mem) : Memory.wf (cutRun s g pc lanes).mem := by
  unfold cutRun
  repeat' first
   | with_reducible assumption
   | with_reducible apply keeps_State_setGroup
   | dsimp only
   | split

theorem keeps_onGroup {f : Ctx → State → Group} {c : Ctx} {s : State} (kp : Memory.wf s.mem) : Memory.wf (onGroup f c s).1.mem := kp

theorem keeps_pendReady {c : Ctx} {s : State} {res : List RegWrite} (kp : Memory.wf s.mem) : Memory.wf (pendReady c s res).1.mem := by
  unfold pendReady
  repeat' first
   | with_reducible assumption
   | with_reducible apply keeps_State_wire
   | with_reducible apply keeps_State_fresh
   | with_reducible apply keeps_addPend

/-! ### Agents.lean -/

theorem keeps_Port_keep {s : State} {p : Port} {t : Tlb} (kp : Memory.wf s.mem) : Memory.wf (Port.keep s p t).mem := by
  unfold Port.keep
  repeat' first
   | with_reducible assumption
   | with_reducible apply keeps_State_modCore
   | split

theorem keeps_Port_xlate {s : State} {p : Port} {asid va kind : Nat} {v : Option Verdict} (kp : Memory.wf s.mem) :
    Memory.wf (Port.xlate s p asid va kind v).1.mem := by
  unfold Port.xlate
  repeat' first
   | with_reducible assumption
   | with_reducible apply keeps_Port_keep
   | dsimp only
   | split

theorem keeps_setEng {s : State} {id : Nat} {e : EngAcc} (kp : Memory.wf s.mem) : Memory.wf (setEng s id e).mem := kp

theorem keeps_dropEng {s : State} {id : Nat} (kp : Memory.wf s.mem) : Memory.wf (dropEng s id).mem := kp

theorem keeps_lockOrder {s : State} {id : Nat} {e : EngAcc} {v : Option Verdict} (kp : Memory.wf s.mem) :
    Memory.wf (lockOrder s id e v).mem := by
  unfold lockOrder
  repeat' first
   | with_reducible assumption
   | with_reducible apply keeps_addWaiter
   | with_reducible apply keeps_Port_xlate
   | with_reducible apply keeps_setEng
   | with_reducible refine keeps_foldl_fst (fun _ _ _ => ?_) ?_
   | (with_reducible apply keeps_fst; focus with_reducible assumption)
   | dsimp only
   | split

theorem keeps_engParts {s : State} {id : Nat} {v : Option Verdict} {fuel : Nat} (kp : Memory.wf s.mem) :
    Memory.wf (engParts s id v fuel).mem := by
  induction fuel generalizing s id v with
  | zero => exact kp
  | succ n ih =>
    unfold engParts
    repeat' first
     | with_reducible assumption
     | with_reducible apply ih
     | with_reducible apply keeps_State_send
     | with_reducible apply keeps_addWaiter
     | with_reducible apply keeps_Port_xlate
     | with_reducible apply keeps_setEng
     | with_reducible apply keeps_lockOrder
     | (with_reducible apply keeps_fst; focus with_reducible assumption)
     | dsimp only
     | split

theorem keeps_engAdvance {s : State} {id : Nat} {v : Option Verdict} (kp : Memory.wf s.mem) : Memory.wf (engAdvance s id v).mem := by
  unfold engAdvance
  repeat' first
   | with_reducible assumption
   | with_reducible apply keeps_State_wireOnce
   | with_reducible apply keeps_engParts
   | dsimp only
   | split

theorem keeps_engBegin {s : State} {id : Nat} {e : EngAcc} (kp : Memory.wf s.mem) : Memory.wf (engBegin s id e).mem := by
  unfold engBegin
  repeat' first
   | with_reducible assumption
   | with_reducible apply keeps_setEng
   | with_reducible apply keeps_engAdvance

theorem keeps_requestStop {s : State} {g : Nat} (kp : Memory.wf s.mem) : Memory.wf (requestStop s g).mem := by
  unfold requestStop
  repeat' first
   | with_reducible assumption
   | with_reducible apply keeps_State_modGroup
   | with_reducible apply keeps_dbgEvt
   | dsimp only
   | split

theorem keeps_engWatch {s : State} {t : Tag} {asid va n : Nat} (kp : Memory.wf s.mem) : Memory.wf (engWatch s t asid va n).mem := by
  unfold engWatch
  repeat' first
   | with_reducible assumption
   | with_reducible apply keeps_dbgEvt
   | with_reducible apply keeps_rfrzTrigger
   | with_reducible apply keeps_watchRecord
   | with_reducible apply keeps_requestStop
   | with_reducible refine keeps_foldl (fun _ _ _ => ?_) ?_
   | dsimp only
   | split

theorem keeps_tagUnits {s : State} {pa : Nat} {tags : List Bool} (kp : Memory.wf s.mem) : Memory.wf (tagUnits s pa tags).mem := by
  unfold tagUnits
  repeat' first
   | with_reducible assumption
   | with_reducible apply keeps_setUe
   | with_reducible refine keeps_foldl (fun _ _ _ => ?_) ?_
   | split

theorem keeps_engReply {s : State} {id k : Nat} {r : Req} {gr : Grant} {race ue : BitVec 32} (kp : Memory.wf s.mem) :
    Memory.wf (engReply s id k r gr race ue).mem := by
  unfold engReply
  repeat' first
   | with_reducible assumption
   | with_reducible apply keeps_setEng
   | with_reducible apply keeps_engAdvance
   | with_reducible apply keeps_engWatch
   | dsimp only
   | split

theorem keeps_engFlt {s : State} {id k cause sub : Nat} (kp : Memory.wf s.mem) : Memory.wf (engFlt s id k cause sub).mem := by
  unfold engFlt
  repeat' first
   | with_reducible assumption
   | with_reducible apply keeps_setEng
   | with_reducible apply keeps_engAdvance
   | split

theorem keeps_engFault {s : State} {t : Tag} {flag : Option (Bool × Nat)} {e : EngErr} {rprog : Nat} {p : Parked} {atile : Option Nat} (kp : Memory.wf s.mem) :
    Memory.wf (engFault s t flag e rprog p atile).mem := by
  unfold engFault
  repeat' first
   | with_reducible assumption
   | with_reducible apply keeps_queueEFault

/-! ### Directory.lean -/

theorem keeps_setDir {s : State} {frame : Nat} {d : DirEnt} (kp : Memory.wf s.mem) : Memory.wf (setDir s frame d).mem := kp

theorem keeps_modDir {s : State} {frame : Nat} {f : DirEnt → DirEnt} (kp : Memory.wf s.mem) : Memory.wf (modDir s frame f).mem := by
  unfold modDir
  repeat' first
   | with_reducible assumption
   | with_reducible apply keeps_setDir

theorem keeps_l2Install {s : State} {frame : Nat} {u own : BitVec 8} {dirty : BitVec 32} (kp : Memory.wf s.mem) :
    Memory.wf (l2Install s frame u own dirty).mem := kp

theorem keeps_cxlSend {s : State} {k : CxlKind} {line : Nat} (kp : Memory.wf s.mem) : Memory.wf (cxlSend s k line).mem := by
  unfold cxlSend
  repeat' first
   | with_reducible assumption
   | with_reducible apply keeps_State_wire

theorem keeps_cxlEvict {s : State} {frame : Nat} {u : BitVec 8} {dirty : BitVec 32} (kp : Memory.wf s.mem) :
    Memory.wf (cxlEvict s frame u dirty).mem := by
  unfold cxlEvict
  repeat' first
   | with_reducible assumption
   | with_reducible apply keeps_cxlSend
   | with_reducible refine keeps_foldl (fun _ _ _ => ?_) ?_
   | split

theorem keeps_performWrU {s : State} {r : Req} (kp : Memory.wf s.mem) : Memory.wf (performWrU s r).mem := by
  unfold performWrU
  repeat' first
   | with_reducible assumption
   | with_reducible apply keeps_physWrite
   | with_reducible refine keeps_foldl_fst (fun _ _ _ => ?_) ?_
   | split

theorem keeps_clearWhole {s : State} {r : Req} (kp : Memory.wf s.mem) : Memory.wf (clearWhole s r).mem := by
  unfold clearWhole
  repeat' first
   | with_reducible assumption
   | with_reducible apply keeps_setUe
   | with_reducible refine keeps_foldl (fun _ _ _ => ?_) ?_
   | split

theorem keeps_performAtm {s : State} {r : Req} (kp : Memory.wf s.mem) : Memory.wf (performAtm s r).mem := by
  unfold performAtm
  repeat' first
   | with_reducible assumption
   | with_reducible apply keeps_physWrite
   | with_reducible apply keeps_walkSwap
   | with_reducible apply keeps_State_modPend
   | split

theorem keeps_reqTags {s : State} {r : Req} (kp : Memory.wf s.mem) : Memory.wf (reqTags s r).mem := by
  unfold reqTags
  repeat' first
   | with_reducible assumption
   | with_reducible apply keeps_tagUnits
   | split

theorem keeps_hostRead {s : State} {frame : Nat} {m : BitVec 32} (kp : Memory.wf s.mem) : Memory.wf (hostRead s frame m).mem := kp

theorem keeps_dirFinish {s : State} {r : Req} {race : BitVec 32} (kp : Memory.wf s.mem) : Memory.wf (dirFinish s r race).mem := by
  unfold dirFinish
  repeat' first
   | with_reducible assumption
   | with_reducible apply keeps_State_wire
   | with_reducible apply keeps_setDir
   | with_reducible apply keeps_l2Install
   | with_reducible apply keeps_cxlEvict
   | with_reducible apply keeps_performWrU
   | with_reducible apply keeps_clearWhole
   | with_reducible apply keeps_performAtm
   | with_reducible apply keeps_reqTags
   | with_reducible apply keeps_hostRead
   | dsimp only
   | split

theorem keeps_sendRecalls {s : State} {frame : Nat} {m : BitVec 32} {keep : Bool} {t : RclFor}
    {x : List Nat × List Nat × List Nat} (kp : Memory.wf s.mem) :
    Memory.wf (sendRecalls s frame m keep t x).mem := by
  unfold sendRecalls
  repeat' first
   | with_reducible assumption
   | with_reducible apply keeps_State_wire
   | with_reducible refine keeps_foldl (fun _ _ _ => ?_) ?_

theorem keeps_sendFills {s : State} {r : Req} {u : BitVec 8} (kp : Memory.wf s.mem) : Memory.wf (sendFills s r u).mem := by
  unfold sendFills
  repeat' first
   | with_reducible assumption
   | with_reducible apply keeps_State_wireOnce
   | with_reducible apply keeps_evCount
   | with_reducible apply keeps_cxlSend
   | with_reducible refine keeps_foldl (fun _ _ _ => ?_) ?_
   | dsimp only
   | split

theorem keeps_buffer {s : State} {t : Txn} (kp : Memory.wf s.mem) : Memory.wf (buffer s t).mem := kp

theorem keeps_evictDone {s : State} {frame : Nat} (kp : Memory.wf s.mem) : Memory.wf (evictDone s frame).mem := by
  unfold evictDone
  repeat' first
   | with_reducible assumption
   | with_reducible apply keeps_touchTails
   | with_reducible apply keeps_modDir
   | with_reducible apply keeps_cxlEvict
   | dsimp only
   | split

theorem keeps_evictFor {s : State} {frame : Nat} (kp : Memory.wf s.mem) : Memory.wf (evictFor s frame).mem := by
  unfold evictFor
  repeat' first
   | with_reducible assumption
   | with_reducible apply keeps_setDir
   | with_reducible apply keeps_sendRecalls
   | with_reducible apply keeps_evictDone
   | dsimp only
   | split

theorem keeps_dirOpen {s : State} {r : Req} {race : BitVec 32} {since : Nat} (kp : Memory.wf s.mem) :
    Memory.wf (dirOpen s r race since).mem := by
  unfold dirOpen
  repeat' first
   | with_reducible assumption
   | with_reducible apply keeps_State_wire
   | with_reducible apply keeps_evCount
   | with_reducible apply keeps_setDir
   | with_reducible apply keeps_l2Install
   | with_reducible apply keeps_dirFinish
   | with_reducible apply keeps_sendRecalls
   | with_reducible apply keeps_sendFills
   | with_reducible apply keeps_buffer
   | with_reducible apply keeps_evictFor
   | dsimp only
   | split

theorem keeps_dirPlace {s : State} {t : Txn} (kp : Memory.wf s.mem) : Memory.wf (dirPlace s t).mem := by
  unfold dirPlace
  repeat' first
   | with_reducible assumption
   | with_reducible apply keeps_setDir
   | with_reducible apply keeps_buffer
   | with_reducible apply keeps_dirOpen
   | dsimp only
   | split

theorem keeps_dirPump {s : State} {frame : Nat} {fuel : Nat} (kp : Memory.wf s.mem) : Memory.wf (dirPump s frame fuel).mem := by
  induction fuel generalizing s frame with
  | zero => exact kp
  | succ n ih =>
    unfold dirPump
    repeat' first
     | with_reducible assumption
     | with_reducible apply ih
     | with_reducible apply keeps_setDir
     | with_reducible apply keeps_dirOpen
     | dsimp only
     | split

theorem keeps_pump {s : State} {frame : Nat} (kp : Memory.wf s.mem) : Memory.wf (pump s frame).mem := by
  unfold pump
  repeat' first
   | with_reducible assumption
   | with_reducible apply keeps_dirPump

theorem keeps_wayKick {s : State} {frame : Nat} {fuel : Nat} (kp : Memory.wf s.mem) : Memory.wf (wayKick s frame fuel).mem := by
  induction fuel generalizing s frame with
  | zero => exact kp
  | succ n ih =>
    unfold wayKick
    repeat' first
     | with_reducible assumption
     | with_reducible apply ih
     | with_reducible apply keeps_evictFor
     | with_reducible apply keeps_dirPlace
     | dsimp only
     | split

theorem keeps_dirSettle {s : State} {frame : Nat} {fuel : Nat} (kp : Memory.wf s.mem) : Memory.wf (dirSettle s frame fuel).mem := by
  induction fuel generalizing s frame with
  | zero => exact kp
  | succ n ih =>
    unfold dirSettle
    repeat' first
     | with_reducible assumption
     | with_reducible apply ih
     | with_reducible apply keeps_State_wire
     | with_reducible apply keeps_setDir
     | with_reducible apply keeps_dirFinish
     | with_reducible apply keeps_pump
     | with_reducible apply keeps_wayKick
     | dsimp only
     | split

theorem keeps_settleDir {s : State} {frame : Nat} (kp : Memory.wf s.mem) : Memory.wf (settleDir s frame).mem := by
  unfold settleDir
  repeat' first
   | with_reducible assumption
   | with_reducible apply keeps_dirSettle

theorem keeps_keepBack {s : State} {r : Req} (kp : Memory.wf s.mem) : Memory.wf (keepBack s r).mem := by
  unfold keepBack
  repeat' first
   | with_reducible assumption

theorem keeps_dirArrive {s : State} {r : Req} (kp : Memory.wf s.mem) : Memory.wf (dirArrive s r).mem := by
  unfold dirArrive
  repeat' first
   | with_reducible assumption
   | with_reducible apply keeps_evCount
   | with_reducible apply keeps_setDir
   | with_reducible apply keeps_evictFor
   | with_reducible apply keeps_dirPlace
   | with_reducible apply keeps_keepBack
   | with_reducible refine keeps_foldl (fun _ _ _ => ?_) ?_
   | dsimp only
   | split

theorem keeps_cqeRead {s : State} {r : Req} (kp : Memory.wf s.mem) : Memory.wf (cqeRead s r).mem := by
  unfold cqeRead
  repeat' first
   | with_reducible assumption
   | with_reducible apply keeps_State_wire
   | dsimp only
   | split

theorem keeps_evReq {k : ReqKind} {r : Req} {s : State} (kp : Memory.wf s.mem) : Memory.wf (evReq k r s).mem := by
  unfold evReq
  repeat' first
   | with_reducible assumption
   | with_reducible apply keeps_dirArrive
   | with_reducible apply keeps_cqeRead
   | split

theorem keeps_portReq {k : ReqKind} {r : Req} {s : State} (kp : Memory.wf s.mem) : Memory.wf (portReq k r s).mem := by
  unfold portReq
  repeat' first
   | with_reducible assumption
   | with_reducible apply keeps_State_wire
   | with_reducible apply keeps_evReq
   | dsimp only
   | split

theorem keeps_evRds {r : Req} {s : State} (kp : Memory.wf s.mem) : Memory.wf (evRds r s).mem := by
  unfold evRds
  repeat' first
   | with_reducible assumption
   | with_reducible apply keeps_portReq

theorem keeps_evRdo {r : Req} {s : State} (kp : Memory.wf s.mem) : Memory.wf (evRdo r s).mem := by
  unfold evRdo
  repeat' first
   | with_reducible assumption
   | with_reducible apply keeps_portReq

theorem keeps_evUpg {r : Req} {s : State} (kp : Memory.wf s.mem) : Memory.wf (evUpg r s).mem := by
  unfold evUpg
  repeat' first
   | with_reducible assumption
   | with_reducible apply keeps_portReq

theorem keeps_evRdu {r : Req} {s : State} (kp : Memory.wf s.mem) : Memory.wf (evRdu r s).mem := by
  unfold evRdu
  repeat' first
   | with_reducible assumption
   | with_reducible apply keeps_portReq

theorem keeps_evWru {r : Req} {s : State} (kp : Memory.wf s.mem) : Memory.wf (evWru r s).mem := by
  unfold evWru
  repeat' first
   | with_reducible assumption
   | with_reducible apply keeps_portReq

theorem keeps_evAtm {r : Req} {s : State} (kp : Memory.wf s.mem) : Memory.wf (evAtm r s).mem := by
  unfold evAtm
  repeat' first
   | with_reducible assumption
   | with_reducible apply keeps_portReq

theorem keeps_evWb {c frame : Nat} {mask : BitVec 32} {keep : Bool} {s : State} (kp : Memory.wf s.mem) :
    Memory.wf (evWb c frame mask keep s).mem := by
  unfold evWb
  repeat' first
   | with_reducible assumption
   | with_reducible apply keeps_modDir
   | with_reducible apply keeps_l2Install
   | with_reducible refine keeps_foldl (fun _ _ _ => ?_) ?_
   | dsimp only
   | split

theorem keeps_snoopAgain {s : State} {x : Snoop} (kp : Memory.wf s.mem) : Memory.wf (snoopAgain s x).mem := by
  unfold snoopAgain
  repeat' first
   | with_reducible assumption
   | with_reducible apply keeps_modDir
   | with_reducible apply keeps_cxlSend
   | with_reducible refine keeps_foldl (fun _ _ _ => ?_) ?_
   | dsimp only
   | split

theorem keeps_snoopDone {s : State} {x : Snoop} (kp : Memory.wf s.mem) : Memory.wf (snoopDone s x).mem := by
  unfold snoopDone
  repeat' first
   | with_reducible assumption
   | with_reducible apply keeps_touchTails
   | with_reducible apply keeps_modDir
   | with_reducible apply keeps_snoopAgain
   | dsimp only
   | split

theorem keeps_answered {s : State} {k frame : Nat} {t : RclFor} (kp : Memory.wf s.mem) : Memory.wf (answered s k frame t).mem := by
  unfold answered
  repeat' first
   | with_reducible assumption
   | with_reducible apply keeps_State_wireOnce
   | with_reducible apply keeps_modDir
   | with_reducible apply keeps_evictDone
   | with_reducible apply keeps_pump
   | with_reducible apply keeps_wayKick
   | with_reducible apply keeps_settleDir
   | with_reducible apply keeps_snoopDone
   | dsimp only
   | split

theorem keeps_unlock {s : State} {id : Nat} {bytes : Option (Sp (List Byte))} (kp : Memory.wf s.mem) :
    Memory.wf (unlock s id bytes).mem := by
  unfold unlock
  repeat' first
   | with_reducible assumption
   | with_reducible apply keeps_modDir
   | with_reducible apply keeps_dirFinish
   | with_reducible apply keeps_pump
   | with_reducible apply keeps_wayKick
   | with_reducible apply keeps_answered
   | with_reducible refine keeps_foldl (fun _ _ _ => ?_) ?_
   | dsimp only
   | split

theorem keeps_evAck {c frame : Nat} {t : RclFor} {s : State} (kp : Memory.wf s.mem) : Memory.wf (evAck c frame t s).mem := by
  unfold evAck
  repeat' first
   | with_reducible assumption
   | with_reducible apply keeps_answered

theorem keeps_dropShared {s : State} {c frame : Nat} {m : BitVec 32} (kp : Memory.wf s.mem) : Memory.wf (dropShared s c frame m).mem := by
  unfold dropShared
  repeat' first
   | with_reducible assumption
   | with_reducible apply keeps_dropCode
   | with_reducible apply keeps_dropFrom
   | with_reducible refine keeps_foldl (fun _ _ _ => ?_) ?_
   | dsimp only
   | split

theorem keeps_cleanPhys {s : State} {c frame : Nat} {m : BitVec 32} (kp : Memory.wf s.mem) : Memory.wf (cleanPhys s c frame m).mem := by
  unfold cleanPhys
  repeat' first
   | with_reducible assumption
   | with_reducible apply keeps_State_modCluster
   | with_reducible apply keeps_wbUe
   | with_reducible refine keeps_foldl (fun _ _ _ => ?_) ?_
   | dsimp only
   | split

theorem keeps_evInv {c frame : Nat} {mask : BitVec 32} {t : RclFor} {s : State} (kp : Memory.wf s.mem) :
    Memory.wf (evInv c frame mask t s).mem := by
  unfold evInv
  repeat' first
   | with_reducible assumption
   | with_reducible apply keeps_State_wire
   | with_reducible apply keeps_dropShared

theorem keeps_evRcl {c frame : Nat} {mask : BitVec 32} {keep : Bool} {t : RclFor} {s : State} (kp : Memory.wf s.mem) :
    Memory.wf (evRcl c frame mask keep t s).mem := by
  unfold evRcl
  repeat' first
   | with_reducible assumption
   | with_reducible apply keeps_State_wire
   | with_reducible apply keeps_evWb
   | with_reducible apply keeps_dropShared
   | with_reducible apply keeps_cleanPhys
   | split

theorem keeps_evBisnpResponse {line : Nat} {bytes : List (BitVec 8)} {t : RclFor} {s : State} (kp : Memory.wf s.mem) :
    Memory.wf (evBisnpResponse line bytes t s).mem := by
  unfold evBisnpResponse
  repeat' first
   | with_reducible assumption
   | with_reducible apply keeps_physWrite
   | with_reducible apply keeps_modDir
   | with_reducible apply keeps_answered
   | split

theorem keeps_lineCame {s : State} {line : Nat} {own : Bool} (kp : Memory.wf s.mem) : Memory.wf (lineCame s line own).mem := by
  unfold lineCame
  repeat' first
   | with_reducible assumption
   | with_reducible apply keeps_modDir
   | with_reducible apply keeps_l2Install
   | with_reducible apply keeps_settleDir
   | split

theorem keeps_evCxlCacheResponse {line : Nat} {bytes : List (BitVec 8)} {s : State} (kp : Memory.wf s.mem) :
    Memory.wf (evCxlCacheResponse line bytes s).mem := by
  unfold evCxlCacheResponse
  repeat' first
   | with_reducible assumption
   | with_reducible apply keeps_physWrite
   | with_reducible apply keeps_lineCame
   | split

theorem keeps_evDramFill {line : Nat} {e : ErrKind} {s : State} (kp : Memory.wf s.mem) : Memory.wf (evDramFill line e s).mem := by
  unfold evDramFill
  repeat' first
   | with_reducible assumption
   | with_reducible apply keeps_setUe
   | with_reducible apply keeps_countDram
   | with_reducible apply keeps_lineCame
   | split

theorem keeps_evHostSnoop {line : Nat} {drop : Bool} {s : State} (kp : Memory.wf s.mem) : Memory.wf (evHostSnoop line drop s).mem := by
  unfold evHostSnoop
  repeat' first
   | with_reducible assumption
   | with_reducible apply keeps_setDir
   | with_reducible apply keeps_sendRecalls
   | with_reducible apply keeps_snoopDone
   | dsimp only
   | split

theorem keeps_evL2Watchdog {frame agent age : Nat} {s : State} (kp : Memory.wf s.mem) : Memory.wf (evL2Watchdog frame agent age s).mem := by
  unfold evL2Watchdog
  repeat' first
   | with_reducible assumption
   | with_reducible apply keeps_State_wire
   | with_reducible apply keeps_setDir
   | with_reducible apply keeps_pump
   | dsimp only
   | split

theorem keeps_dueRetire {s : State} {t : Txn} (kp : Memory.wf s.mem) : Memory.wf (dueRetire s t).mem := by
  unfold dueRetire
  exact keeps_ite (keeps_State_wireOnce kp) kp

theorem keeps_dueL2 {s : State} (kp : Memory.wf s.mem) : Memory.wf (dueL2 s).mem := by
  unfold dueL2
  exact keeps_foldl (fun _ _ => keeps_dueRetire) kp

theorem keeps_evDramScrub {line : Nat} {e : ErrKind} {s : State} (kp : Memory.wf s.mem) : Memory.wf (evDramScrub line e s).mem := by
  unfold evDramScrub
  repeat' first
   | with_reducible assumption
   | with_reducible apply keeps_setUe
   | with_reducible apply keeps_countDram
   | split

/-! ### Run.lean -/

theorem keeps_modTile {s : State} {core p : Nat} {f : Tile → Tile} (kp : Memory.wf s.mem) : Memory.wf (modTile s core p f).mem := by
  unfold modTile
  repeat' first
   | with_reducible assumption
   | with_reducible apply keeps_State_modCore

theorem keeps_beginRun {s : State} {g : Nat} {e : Entry} {f : Fetched} (kp : Memory.wf s.mem) : Memory.wf (beginRun s g e f).mem := by
  unfold beginRun
  repeat' first
   | with_reducible assumption
   | with_reducible apply keeps_State_modGroup

theorem keeps_headerTrap {s : State} {g : Nat} {e : Entry} {cause sub : Nat} (kp : Memory.wf s.mem) :
    Memory.wf (headerTrap s g e cause sub).mem := by
  unfold headerTrap
  repeat' first
   | with_reducible assumption
   | with_reducible apply keeps_State_modGroup
   | with_reducible apply keeps_takeTrap

theorem keeps_engineTrap {s : State} {g : Nat} {lanes active : Lanes} {pc hdr : DWord} {e : EFault} (kp : Memory.wf s.mem) :
    Memory.wf (engineTrap s g lanes active pc hdr e).mem := by
  unfold engineTrap
  repeat' first
   | with_reducible assumption
   | with_reducible apply keeps_State_modGroup
   | with_reducible apply keeps_takeTrap

theorem keeps_startRun {s : State} {g : Nat} {h : HForm} {r : Run} (kp : Memory.wf s.mem) : Memory.wf (startRun s g h r).mem := by
  unfold startRun
  repeat' first
   | with_reducible assumption
   | lift_lets
   | intro stx
   | with_reducible apply keeps_State_setGroup
   | with_reducible apply keeps_evCount
   | with_reducible apply keeps_endRun
   | split

theorem keeps_unissue {s : State} {g : Nat} {r : Run} (kp : Memory.wf s.mem) : Memory.wf (unissue s g r).mem := by
  unfold unissue
  repeat' first
   | with_reducible assumption
   | with_reducible apply keeps_State_modGroup

theorem keeps_badOpTrap {s : State} {g : Nat} (kp : Memory.wf s.mem) : Memory.wf (badOpTrap s g).mem := by
  unfold badOpTrap
  repeat' first
   | with_reducible assumption
   | with_reducible apply keeps_takeTrap
   | with_reducible apply keeps_stallGroup
   | with_reducible apply keeps_cutRun
   | dsimp only
   | split

end Sys2Proof.Machine
end

