-- ==== Sys2Proof/Laws/KeepsMemory.lean ====
section
/-!
SUPPORT. Global memory keeps its canonical form (addresses rise strictly, no listed byte is the one an unlisted address reads as) under
the integer, floating and memory instructions: one lemma each.
-/

namespace Sys2Proof.Machine

open Sys2Proof

/-! ### Integer.lean -/

theorem keeps_regAct {f : Ctx → Group → Group} {c : Ctx} {s : State} (kp : Memory.wf s.mem) : Memory.wf ((regAct f).act c s).1.mem := by
  unfold regAct
  repeat' first
   | with_reducible assumption
   | with_reducible apply keeps_onGroup

theorem keeps_elemSem {bImm : Option Bool} {f : Ctx → Bool → Nat → Nat → Nat → Nat → Nat} {c : Ctx} {s : State} (kp : Memory.wf s.mem) :
    Memory.wf ((elemSem bImm f).act c s).1.mem := by
  unfold elemSem
  repeat' first
   | with_reducible assumption
   | with_reducible apply keeps_regAct

theorem keeps_iaddSem {c : Ctx} {s : State} (kp : Memory.wf s.mem) : Memory.wf (iaddSem.act c s).1.mem := by
  unfold iaddSem
  repeat' first
   | with_reducible assumption
   | with_reducible apply keeps_elemSem

theorem keeps_iaddImmSem {c : Ctx} {s : State} (kp : Memory.wf s.mem) : Memory.wf (iaddImmSem.act c s).1.mem := by
  unfold iaddImmSem
  repeat' first
   | with_reducible assumption
   | with_reducible apply keeps_elemSem

theorem keeps_isubSem {c : Ctx} {s : State} (kp : Memory.wf s.mem) : Memory.wf (isubSem.act c s).1.mem := by
  unfold isubSem
  repeat' first
   | with_reducible assumption
   | with_reducible apply keeps_elemSem

theorem keeps_imulSem {c : Ctx} {s : State} (kp : Memory.wf s.mem) : Memory.wf (imulSem.act c s).1.mem := by
  unfold imulSem
  repeat' first
   | with_reducible assumption
   | with_reducible apply keeps_elemSem

theorem keeps_imulhSem {c : Ctx} {s : State} (kp : Memory.wf s.mem) : Memory.wf (imulhSem.act c s).1.mem := by
  unfold imulhSem
  repeat' first
   | with_reducible assumption
   | with_reducible apply keeps_elemSem

theorem keeps_imadSem {c : Ctx} {s : State} (kp : Memory.wf s.mem) : Memory.wf (imadSem.act c s).1.mem := by
  unfold imadSem
  repeat' first
   | with_reducible assumption
   | with_reducible apply keeps_elemSem

theorem keeps_iminSem {c : Ctx} {s : State} (kp : Memory.wf s.mem) : Memory.wf (iminSem.act c s).1.mem := by
  unfold iminSem
  repeat' first
   | with_reducible assumption
   | with_reducible apply keeps_elemSem

theorem keeps_imaxSem {c : Ctx} {s : State} (kp : Memory.wf s.mem) : Memory.wf (imaxSem.act c s).1.mem := by
  unfold imaxSem
  repeat' first
   | with_reducible assumption
   | with_reducible apply keeps_elemSem

theorem keeps_iabsSem {c : Ctx} {s : State} (kp : Memory.wf s.mem) : Memory.wf (iabsSem.act c s).1.mem := by
  unfold iabsSem
  repeat' first
   | with_reducible assumption
   | with_reducible apply keeps_elemSem

theorem keeps_andSem {c : Ctx} {s : State} (kp : Memory.wf s.mem) : Memory.wf (andSem.act c s).1.mem := by
  unfold andSem
  repeat' first
   | with_reducible assumption
   | with_reducible apply keeps_elemSem

theorem keeps_andImmSem {c : Ctx} {s : State} (kp : Memory.wf s.mem) : Memory.wf (andImmSem.act c s).1.mem := by
  unfold andImmSem
  repeat' first
   | with_reducible assumption
   | with_reducible apply keeps_elemSem

theorem keeps_orSem {c : Ctx} {s : State} (kp : Memory.wf s.mem) : Memory.wf (orSem.act c s).1.mem := by
  unfold orSem
  repeat' first
   | with_reducible assumption
   | with_reducible apply keeps_elemSem

theorem keeps_xorSem {c : Ctx} {s : State} (kp : Memory.wf s.mem) : Memory.wf (xorSem.act c s).1.mem := by
  unfold xorSem
  repeat' first
   | with_reducible assumption
   | with_reducible apply keeps_elemSem

theorem keeps_andnSem {c : Ctx} {s : State} (kp : Memory.wf s.mem) : Memory.wf (andnSem.act c s).1.mem := by
  unfold andnSem
  repeat' first
   | with_reducible assumption
   | with_reducible apply keeps_elemSem

theorem keeps_notSem {c : Ctx} {s : State} (kp : Memory.wf s.mem) : Memory.wf (notSem.act c s).1.mem := by
  unfold notSem
  repeat' first
   | with_reducible assumption
   | with_reducible apply keeps_elemSem

theorem keeps_shlSem {c : Ctx} {s : State} (kp : Memory.wf s.mem) : Memory.wf (shlSem.act c s).1.mem := by
  unfold shlSem
  repeat' first
   | with_reducible assumption
   | with_reducible apply keeps_elemSem

theorem keeps_shlImmSem {c : Ctx} {s : State} (kp : Memory.wf s.mem) : Memory.wf (shlImmSem.act c s).1.mem := by
  unfold shlImmSem
  repeat' first
   | with_reducible assumption
   | with_reducible apply keeps_elemSem

theorem keeps_shrSem {c : Ctx} {s : State} (kp : Memory.wf s.mem) : Memory.wf (shrSem.act c s).1.mem := by
  unfold shrSem
  repeat' first
   | with_reducible assumption
   | with_reducible apply keeps_elemSem

theorem keeps_shrImmSem {c : Ctx} {s : State} (kp : Memory.wf s.mem) : Memory.wf (shrImmSem.act c s).1.mem := by
  unfold shrImmSem
  repeat' first
   | with_reducible assumption
   | with_reducible apply keeps_elemSem

theorem keeps_sarSem {c : Ctx} {s : State} (kp : Memory.wf s.mem) : Memory.wf (sarSem.act c s).1.mem := by
  unfold sarSem
  repeat' first
   | with_reducible assumption
   | with_reducible apply keeps_elemSem

theorem keeps_sarImmSem {c : Ctx} {s : State} (kp : Memory.wf s.mem) : Memory.wf (sarImmSem.act c s).1.mem := by
  unfold sarImmSem
  repeat' first
   | with_reducible assumption
   | with_reducible apply keeps_elemSem

theorem keeps_rotSem {c : Ctx} {s : State} (kp : Memory.wf s.mem) : Memory.wf (rotSem.act c s).1.mem := by
  unfold rotSem
  repeat' first
   | with_reducible assumption
   | with_reducible apply keeps_elemSem

theorem keeps_movSem {c : Ctx} {s : State} (kp : Memory.wf s.mem) : Memory.wf (movSem.act c s).1.mem := by
  unfold movSem
  repeat' first
   | with_reducible assumption
   | with_reducible apply keeps_elemSem

theorem keeps_liSem {c : Ctx} {s : State} (kp : Memory.wf s.mem) : Memory.wf (liSem.act c s).1.mem := by
  unfold liSem
  repeat' first
   | with_reducible assumption
   | with_reducible apply keeps_regAct

theorem keeps_leaSem {c : Ctx} {s : State} (kp : Memory.wf s.mem) : Memory.wf (leaSem.act c s).1.mem := by
  unfold leaSem
  repeat' first
   | with_reducible assumption
   | with_reducible apply keeps_regAct

theorem keeps_bfeSem {c : Ctx} {s : State} (kp : Memory.wf s.mem) : Memory.wf (bfeSem.act c s).1.mem := by
  unfold bfeSem
  repeat' first
   | with_reducible assumption
   | with_reducible apply keeps_elemSem

theorem keeps_bfiSem {c : Ctx} {s : State} (kp : Memory.wf s.mem) : Memory.wf (bfiSem.act c s).1.mem := by
  unfold bfiSem
  repeat' first
   | with_reducible assumption
   | with_reducible apply keeps_elemSem

theorem keeps_popcSem {c : Ctx} {s : State} (kp : Memory.wf s.mem) : Memory.wf (popcSem.act c s).1.mem := by
  unfold popcSem
  repeat' first
   | with_reducible assumption
   | with_reducible apply keeps_elemSem

theorem keeps_clzSem {c : Ctx} {s : State} (kp : Memory.wf s.mem) : Memory.wf (clzSem.act c s).1.mem := by
  unfold clzSem
  repeat' first
   | with_reducible assumption
   | with_reducible apply keeps_elemSem

theorem keeps_brevSem {c : Ctx} {s : State} (kp : Memory.wf s.mem) : Memory.wf (brevSem.act c s).1.mem := by
  unfold brevSem
  repeat' first
   | with_reducible assumption
   | with_reducible apply keeps_elemSem

theorem keeps_selSem {c : Ctx} {s : State} (kp : Memory.wf s.mem) : Memory.wf (selSem.act c s).1.mem := by
  unfold selSem
  repeat' first
   | with_reducible assumption
   | with_reducible apply keeps_regAct

theorem keeps_cmpSem {holds : Ctx → Nat → Bool} {c : Ctx} {s : State} (kp : Memory.wf s.mem) :
    Memory.wf ((cmpSem holds).act c s).1.mem := by
  unfold cmpSem
  repeat' first
   | with_reducible assumption
   | with_reducible apply keeps_regAct

theorem keeps_icmpSem {c : Ctx} {s : State} (kp : Memory.wf s.mem) : Memory.wf (icmpSem.act c s).1.mem := by
  unfold icmpSem
  repeat' first
   | with_reducible assumption
   | with_reducible apply keeps_cmpSem

theorem keeps_plopSem {c : Ctx} {s : State} (kp : Memory.wf s.mem) : Memory.wf (plopSem.act c s).1.mem := by
  unfold plopSem
  repeat' first
   | with_reducible assumption
   | with_reducible apply keeps_regAct

theorem keeps_brmhSem {c : Ctx} {s : State} (kp : Memory.wf s.mem) : Memory.wf (brmhSem.act c s).1.mem := by
  unfold brmhSem
  repeat' first
   | with_reducible assumption
   | with_reducible apply keeps_regAct

/-! ### FloatOps.lean -/

theorem keeps_floatSem {f : Ctx → Fmt → Nat → Nat → Nat → Nat → Nat} {c : Ctx} {s : State} (kp : Memory.wf s.mem) :
    Memory.wf ((floatSem f).act c s).1.mem := by
  unfold floatSem
  repeat' first
   | with_reducible assumption
   | with_reducible apply keeps_regAct

theorem keeps_faddSem {c : Ctx} {s : State} (kp : Memory.wf s.mem) : Memory.wf (faddSem.act c s).1.mem := by
  unfold faddSem
  repeat' first
   | with_reducible assumption
   | with_reducible apply keeps_floatSem

theorem keeps_fsubSem {c : Ctx} {s : State} (kp : Memory.wf s.mem) : Memory.wf (fsubSem.act c s).1.mem := by
  unfold fsubSem
  repeat' first
   | with_reducible assumption
   | with_reducible apply keeps_floatSem

theorem keeps_fmulSem {c : Ctx} {s : State} (kp : Memory.wf s.mem) : Memory.wf (fmulSem.act c s).1.mem := by
  unfold fmulSem
  repeat' first
   | with_reducible assumption
   | with_reducible apply keeps_floatSem

theorem keeps_ffmaSem {c : Ctx} {s : State} (kp : Memory.wf s.mem) : Memory.wf (ffmaSem.act c s).1.mem := by
  unfold ffmaSem
  repeat' first
   | with_reducible assumption
   | with_reducible apply keeps_floatSem

theorem keeps_fminSem {c : Ctx} {s : State} (kp : Memory.wf s.mem) : Memory.wf (fminSem.act c s).1.mem := by
  unfold fminSem
  repeat' first
   | with_reducible assumption
   | with_reducible apply keeps_floatSem

theorem keeps_fmaxSem {c : Ctx} {s : State} (kp : Memory.wf s.mem) : Memory.wf (fmaxSem.act c s).1.mem := by
  unfold fmaxSem
  repeat' first
   | with_reducible assumption
   | with_reducible apply keeps_floatSem

theorem keeps_fabsSem {c : Ctx} {s : State} (kp : Memory.wf s.mem) : Memory.wf (fabsSem.act c s).1.mem := by
  unfold fabsSem
  repeat' first
   | with_reducible assumption
   | with_reducible apply keeps_floatSem

theorem keeps_fnegSem {c : Ctx} {s : State} (kp : Memory.wf s.mem) : Memory.wf (fnegSem.act c s).1.mem := by
  unfold fnegSem
  repeat' first
   | with_reducible assumption
   | with_reducible apply keeps_floatSem

theorem keeps_frndSem {c : Ctx} {s : State} (kp : Memory.wf s.mem) : Memory.wf (frndSem.act c s).1.mem := by
  unfold frndSem
  repeat' first
   | with_reducible assumption
   | with_reducible apply keeps_floatSem

theorem keeps_fcmpSem {c : Ctx} {s : State} (kp : Memory.wf s.mem) : Memory.wf (fcmpSem.act c s).1.mem := by
  unfold fcmpSem
  repeat' first
   | with_reducible assumption
   | with_reducible apply keeps_cmpSem

theorem keeps_dotSem {n : Nat} {c : Ctx} {s : State} (kp : Memory.wf s.mem) : Memory.wf ((dotSem n).act c s).1.mem := by
  unfold dotSem
  repeat' first
   | with_reducible assumption
   | with_reducible apply keeps_regAct

theorem keeps_dot2Sem {c : Ctx} {s : State} (kp : Memory.wf s.mem) : Memory.wf (dot2Sem.act c s).1.mem := by
  unfold dot2Sem
  repeat' first
   | with_reducible assumption
   | with_reducible apply keeps_dotSem

theorem keeps_dot4Sem {c : Ctx} {s : State} (kp : Memory.wf s.mem) : Memory.wf (dot4Sem.act c s).1.mem := by
  unfold dot4Sem
  repeat' first
   | with_reducible assumption
   | with_reducible apply keeps_dotSem

theorem keeps_cvtGen {sr : Bool} {c : Ctx} {s : State} (kp : Memory.wf s.mem) : Memory.wf ((cvtGen sr).act c s).1.mem := by
  unfold cvtGen
  repeat' first
   | with_reducible assumption
   | with_reducible apply keeps_onGroup

theorem keeps_cvtSem {c : Ctx} {s : State} (kp : Memory.wf s.mem) : Memory.wf (cvtSem.act c s).1.mem := by
  unfold cvtSem
  repeat' first
   | with_reducible assumption
   | with_reducible apply keeps_cvtGen

theorem keeps_cvtsrSem {c : Ctx} {s : State} (kp : Memory.wf s.mem) : Memory.wf (cvtsrSem.act c s).1.mem := by
  unfold cvtsrSem
  repeat' first
   | with_reducible assumption
   | with_reducible apply keeps_cvtGen

theorem keeps_rngSem {c : Ctx} {s : State} (kp : Memory.wf s.mem) : Memory.wf (rngSem.act c s).1.mem := by
  unfold rngSem
  repeat' first
   | with_reducible assumption
   | with_reducible apply keeps_regAct

/-! ### Sfu.lean -/

theorem keeps_sfuSem {fn : SfuFn} {c : Ctx} {s : State} (kp : Memory.wf s.mem) : Memory.wf ((sfuSem fn).act c s).1.mem := by
  unfold sfuSem
  repeat' first
   | with_reducible assumption
   | with_reducible apply keeps_floatSem

theorem keeps_rcpSem {c : Ctx} {s : State} (kp : Memory.wf s.mem) : Memory.wf (rcpSem.act c s).1.mem := by
  unfold rcpSem
  repeat' first
   | with_reducible assumption
   | with_reducible apply keeps_sfuSem

theorem keeps_rsqSem {c : Ctx} {s : State} (kp : Memory.wf s.mem) : Memory.wf (rsqSem.act c s).1.mem := by
  unfold rsqSem
  repeat' first
   | with_reducible assumption
   | with_reducible apply keeps_sfuSem

theorem keeps_sqrtSem {c : Ctx} {s : State} (kp : Memory.wf s.mem) : Memory.wf (sqrtSem.act c s).1.mem := by
  unfold sqrtSem
  repeat' first
   | with_reducible assumption
   | with_reducible apply keeps_sfuSem

theorem keeps_exp2Sem {c : Ctx} {s : State} (kp : Memory.wf s.mem) : Memory.wf (exp2Sem.act c s).1.mem := by
  unfold exp2Sem
  repeat' first
   | with_reducible assumption
   | with_reducible apply keeps_sfuSem

theorem keeps_log2Sem {c : Ctx} {s : State} (kp : Memory.wf s.mem) : Memory.wf (log2Sem.act c s).1.mem := by
  unfold log2Sem
  repeat' first
   | with_reducible assumption
   | with_reducible apply keeps_sfuSem

theorem keeps_tanhSem {c : Ctx} {s : State} (kp : Memory.wf s.mem) : Memory.wf (tanhSem.act c s).1.mem := by
  unfold tanhSem
  repeat' first
   | with_reducible assumption
   | with_reducible apply keeps_sfuSem

theorem keeps_sigmSem {c : Ctx} {s : State} (kp : Memory.wf s.mem) : Memory.wf (sigmSem.act c s).1.mem := by
  unfold sigmSem
  repeat' first
   | with_reducible assumption
   | with_reducible apply keeps_sfuSem

theorem keeps_sinSem {c : Ctx} {s : State} (kp : Memory.wf s.mem) : Memory.wf (sinSem.act c s).1.mem := by
  unfold sinSem
  repeat' first
   | with_reducible assumption
   | with_reducible apply keeps_sfuSem

theorem keeps_cosSem {c : Ctx} {s : State} (kp : Memory.wf s.mem) : Memory.wf (cosSem.act c s).1.mem := by
  unfold cosSem
  repeat' first
   | with_reducible assumption
   | with_reducible apply keeps_sfuSem

theorem keeps_geluSem {c : Ctx} {s : State} (kp : Memory.wf s.mem) : Memory.wf (geluSem.act c s).1.mem := by
  unfold geluSem
  repeat' first
   | with_reducible assumption
   | with_reducible apply keeps_sfuSem

theorem keeps_siluSem {c : Ctx} {s : State} (kp : Memory.wf s.mem) : Memory.wf (siluSem.act c s).1.mem := by
  unfold siluSem
  repeat' first
   | with_reducible assumption
   | with_reducible apply keeps_sfuSem

theorem keeps_erfSem {c : Ctx} {s : State} (kp : Memory.wf s.mem) : Memory.wf (erfSem.act c s).1.mem := by
  unfold erfSem
  repeat' first
   | with_reducible assumption
   | with_reducible apply keeps_sfuSem

/-! ### Spaces.lean -/

theorem keeps_frameFault {s : State} {g : Nat} {p : Pend} {use : FrameUse} {causes : List LaneCause} (kp : Memory.wf s.mem) :
    Memory.wf (frameFault s g p use causes).mem := by
  unfold frameFault
  repeat' first
   | with_reducible assumption
   | with_reducible apply keeps_faultRecord
   | with_reducible apply keeps_finishPend
   | with_reducible apply keeps_endGroupCause
   | dsimp only
   | split

theorem keeps_deferFault {s : State} {g id : Nat} {causes : List LaneCause} (kp : Memory.wf s.mem) :
    Memory.wf (deferFault s g id causes).mem := by
  unfold deferFault
  repeat' first
   | with_reducible assumption
   | with_reducible apply keeps_State_modGroup
   | with_reducible apply keeps_State_wire
   | with_reducible apply keeps_finishPend
   | with_reducible apply keeps_frameFault
   | with_reducible refine keeps_foldl (fun _ _ _ => ?_) ?_
   | dsimp only
   | split

theorem keeps_evDeferredFault {g : Nat} {s : State} (kp : Memory.wf s.mem) : Memory.wf (evDeferredFault g s).mem := by
  unfold evDeferredFault
  repeat' first
   | with_reducible assumption
   | with_reducible apply keeps_State_setGroup
   | with_reducible apply keeps_State_wire
   | with_reducible apply keeps_takeTrap
   | dsimp only
   | split

theorem keeps_taintTiles {s : State} {core a n : Nat} {own : Option Nat} (kp : Memory.wf s.mem) :
    Memory.wf (taintTiles s core a n own).mem := by
  unfold taintTiles
  repeat' first
   | with_reducible assumption
   | with_reducible apply keeps_State_modCore

theorem keeps_coreWrite {s : State} {core a : Nat} {b : List Byte} {own : Option Nat} (kp : Memory.wf s.mem) :
    Memory.wf (coreWrite s core a b own).mem := by
  unfold coreWrite
  repeat' first
   | with_reducible assumption
   | with_reducible apply keeps_State_modCore
   | with_reducible apply keeps_taintTiles

theorem keeps_chipWrite {s : State} {a : Nat} {b : List Byte} (kp : Memory.wf s.mem) : Memory.wf (chipWrite s a b).mem := kp

theorem keeps_engWrite {s : State} {core a : Nat} {b : List Byte} {own : Option Nat} (kp : Memory.wf s.mem) :
    Memory.wf (engWrite s core a b own).mem := by
  unfold engWrite
  repeat' first
   | with_reducible assumption
   | with_reducible apply keeps_State_modCore
   | with_reducible apply keeps_coreWrite

theorem keeps_locWrite {s : State} {g : Nat} {k : Loc} {x n : Nat} (kp : Memory.wf s.mem) : Memory.wf (locWrite s g k x n).mem := by
  unfold locWrite
  repeat' first
   | with_reducible assumption
   | with_reducible apply keeps_State_modGroup
   | with_reducible apply keeps_coreWrite
   | with_reducible apply keeps_chipWrite
   | split

theorem keeps_setShadow {s : State} {k : Loc} {v : Shadow} (kp : Memory.wf s.mem) : Memory.wf (setShadow s k v).mem := by
  unfold setShadow
  repeat' first
   | with_reducible assumption
   | with_reducible apply keeps_State_modCore
   | split

theorem keeps_raceRecord {s : State} {gr : Group} {sp ofs pc : Nat} {r : Shadow} (kp : Memory.wf s.mem) :
    Memory.wf (raceRecord s gr sp ofs pc r).mem := by
  unfold raceRecord
  repeat' first
   | with_reducible assumption
   | with_reducible apply keeps_leuth

theorem keeps_performLane {s : State} {g : Nat} {p : Pend} {x : Piece} (kp : Memory.wf s.mem) : Memory.wf (performLane s g p x).1.mem := by
  unfold performLane
  repeat' first
   | with_reducible assumption
   | with_reducible apply keeps_locWrite
   | with_reducible apply keeps_setShadow
   | dsimp only
   | split

theorem keeps_spaceFinish {s : State} {g : Nat} {p : Pend} {ws : List RegWrite} (kp : Memory.wf s.mem) :
    Memory.wf (spaceFinish s g p ws).mem := by
  unfold spaceFinish
  repeat' first
   | with_reducible assumption
   | with_reducible apply keeps_State_modGroup
   | with_reducible apply keeps_finishPend

theorem keeps_atomLane {s : State} {g : Nat} {p : Pend} (kp : Memory.wf s.mem) : Memory.wf (atomLane s g p).mem := by
  unfold atomLane
  repeat' first
   | with_reducible assumption
   | with_reducible apply keeps_State_wire
   | with_reducible apply keeps_State_modPend
   | with_reducible apply keeps_performLane
   | with_reducible apply keeps_spaceFinish
   | split

theorem keeps_performSpace {s : State} {g : Nat} {p : Pend} (kp : Memory.wf s.mem) : Memory.wf (performSpace s g p).mem := by
  unfold performSpace
  repeat' first
   | with_reducible assumption
   | with_reducible apply keeps_State_modGroup
   | with_reducible apply keeps_State_modPend
   | with_reducible apply keeps_deferFault
   | with_reducible apply keeps_raceRecord
   | with_reducible apply keeps_performLane
   | with_reducible apply keeps_spaceFinish
   | with_reducible apply keeps_atomLane
   | with_reducible refine keeps_foldl (fun _ _ _ => ?_) ?_
   | with_reducible refine keeps_foldl_fst (fun _ _ _ => ?_) ?_
   | split

theorem keeps_drainMark {s : State} {g : Nat} {p : Pend} (kp : Memory.wf s.mem) : Memory.wf (drainMark s g p).mem := by
  unfold drainMark
  repeat' first
   | with_reducible assumption
   | with_reducible apply keeps_State_modPend

theorem keeps_spaceSem {c : Ctx} {s : State} (kp : Memory.wf s.mem) : Memory.wf (spaceSem.act c s).1.mem := by
  unfold spaceSem
  repeat' first
   | with_reducible assumption
   | with_reducible apply keeps_State_wire
   | with_reducible apply keeps_State_fresh
   | with_reducible apply keeps_addPend

theorem keeps_ldsSem {c : Ctx} {s : State} (kp : Memory.wf s.mem) : Memory.wf (ldsSem.act c s).1.mem := by
  unfold ldsSem
  repeat' first
   | with_reducible assumption
   | with_reducible apply keeps_spaceSem

theorem keeps_stsSem {c : Ctx} {s : State} (kp : Memory.wf s.mem) : Memory.wf (stsSem.act c s).1.mem := by
  unfold stsSem
  repeat' first
   | with_reducible assumption
   | with_reducible apply keeps_spaceSem

theorem keeps_ldkSem {c : Ctx} {s : State} (kp : Memory.wf s.mem) : Memory.wf (ldkSem.act c s).1.mem := by
  unfold ldkSem
  repeat' first
   | with_reducible assumption
   | with_reducible apply keeps_spaceSem

theorem keeps_stkSem {c : Ctx} {s : State} (kp : Memory.wf s.mem) : Memory.wf (stkSem.act c s).1.mem := by
  unfold stkSem
  repeat' first
   | with_reducible assumption
   | with_reducible apply keeps_spaceSem

theorem keeps_ldxSem {c : Ctx} {s : State} (kp : Memory.wf s.mem) : Memory.wf (ldxSem.act c s).1.mem := by
  unfold ldxSem
  repeat' first
   | with_reducible assumption
   | with_reducible apply keeps_spaceSem

theorem keeps_stxSem {c : Ctx} {s : State} (kp : Memory.wf s.mem) : Memory.wf (stxSem.act c s).1.mem := by
  unfold stxSem
  repeat' first
   | with_reducible assumption
   | with_reducible apply keeps_spaceSem

theorem keeps_ldlSem {c : Ctx} {s : State} (kp : Memory.wf s.mem) : Memory.wf (ldlSem.act c s).1.mem := by
  unfold ldlSem
  repeat' first
   | with_reducible assumption
   | with_reducible apply keeps_spaceSem

theorem keeps_stlSem {c : Ctx} {s : State} (kp : Memory.wf s.mem) : Memory.wf (stlSem.act c s).1.mem := by
  unfold stlSem
  repeat' first
   | with_reducible assumption
   | with_reducible apply keeps_spaceSem

theorem keeps_atomSSem {c : Ctx} {s : State} (kp : Memory.wf s.mem) : Memory.wf (atomSSem.act c s).1.mem := by
  unfold atomSSem
  repeat' first
   | with_reducible assumption
   | with_reducible apply keeps_spaceSem

theorem keeps_atomKSem {c : Ctx} {s : State} (kp : Memory.wf s.mem) : Memory.wf (atomKSem.act c s).1.mem := by
  unfold atomKSem
  repeat' first
   | with_reducible assumption
   | with_reducible apply keeps_spaceSem

theorem keeps_atomXSem {c : Ctx} {s : State} (kp : Memory.wf s.mem) : Memory.wf (atomXSem.act c s).1.mem := by
  unfold atomXSem
  repeat' first
   | with_reducible assumption
   | with_reducible apply keeps_spaceSem

theorem keeps_casSSem {c : Ctx} {s : State} (kp : Memory.wf s.mem) : Memory.wf (casSSem.act c s).1.mem := by
  unfold casSSem
  repeat' first
   | with_reducible assumption
   | with_reducible apply keeps_spaceSem

theorem keeps_casKSem {c : Ctx} {s : State} (kp : Memory.wf s.mem) : Memory.wf (casKSem.act c s).1.mem := by
  unfold casKSem
  repeat' first
   | with_reducible assumption
   | with_reducible apply keeps_spaceSem

theorem keeps_casXSem {c : Ctx} {s : State} (kp : Memory.wf s.mem) : Memory.wf (casXSem.act c s).1.mem := by
  unfold casXSem
  repeat' first
   | with_reducible assumption
   | with_reducible apply keeps_spaceSem

/-! ### Lsu.lean -/

theorem keeps_watchRecs {s : State} {gr : Group} {asid op : Nat} {f : EForm} {addrs : List (Nat × Nat)} {seq pc : Nat} (kp : Memory.wf s.mem) :
    Memory.wf (watchRecs s gr asid op f addrs seq pc).mem := by
  unfold watchRecs
  repeat' first
   | with_reducible assumption
   | with_reducible apply keeps_watchRecord
   | with_reducible refine keeps_foldl (fun _ _ _ => ?_) ?_
   | split

theorem keeps_watchLog {c : Ctx} {s : State} (kp : Memory.wf s.mem) : Memory.wf (watchLog c s).mem := by
  unfold watchLog
  repeat' first
   | with_reducible assumption
   | with_reducible apply keeps_watchRecs

theorem keeps_lsuWake {s : State} {c : Nat} (kp : Memory.wf s.mem) : Memory.wf (lsuWake s c).mem := by
  unfold lsuWake
  repeat' first
   | with_reducible assumption
   | with_reducible apply keeps_State_wireOnce
   | with_reducible refine keeps_foldl (fun _ _ _ => ?_) ?_

theorem keeps_lsuFault {s : State} {g id : Nat} {cs : List LaneCause} (kp : Memory.wf s.mem) : Memory.wf (lsuFault s g id cs).mem := by
  unfold lsuFault
  repeat' first
   | with_reducible assumption
   | with_reducible apply keeps_deferFault
   | with_reducible apply keeps_lsuWake

theorem keeps_storeDone {s : State} {g op : Nat} (kp : Memory.wf s.mem) : Memory.wf (storeDone s g op).mem := by
  unfold storeDone
  repeat' first
   | with_reducible assumption
   | with_reducible apply keeps_State_wireOnce
   | with_reducible apply keeps_State_modPend
   | with_reducible apply keeps_lsuWake
   | dsimp only
   | split

theorem keeps_cleanUnit {s : State} {c : Nat} {e : StoreEnt} (kp : Memory.wf s.mem) : Memory.wf (cleanUnit s c e).mem := by
  unfold cleanUnit
  repeat' first
   | with_reducible assumption
   | with_reducible apply keeps_setUe
   | with_reducible apply keeps_State_modCluster
   | with_reducible refine keeps_foldl (fun _ _ _ => ?_) ?_
   | dsimp only
   | split

theorem keeps_performStore {s : State} {c : Nat} {e : StoreEnt} (kp : Memory.wf s.mem) : Memory.wf (performStore s c e).mem := by
  unfold performStore
  repeat' first
   | with_reducible assumption
   | with_reducible apply keeps_physWrite
   | with_reducible apply keeps_dropCode
   | with_reducible apply keeps_touchSlot
   | with_reducible apply keeps_evWb
   | with_reducible apply keeps_cleanPhys
   | with_reducible apply keeps_storeDone
   | with_reducible apply keeps_cleanUnit
   | with_reducible refine keeps_foldl (fun _ _ _ => ?_) ?_
   | dsimp only
   | split

theorem keeps_sendOwn {s : State} {c : Nat} {ids : List Nat} (kp : Memory.wf s.mem) : Memory.wf (sendOwn s c ids).mem := by
  unfold sendOwn
  repeat' first
   | with_reducible assumption
   | with_reducible apply keeps_State_modCluster
   | with_reducible apply keeps_addFill
   | with_reducible apply keeps_State_send
   | with_reducible refine keeps_foldl (fun _ _ _ => ?_) ?_
   | dsimp only
   | split

theorem keeps_admitStores {s : State} {c g : Nat} {p : Pend} {es : List (Nat × Piece × Sp Byte)} (kp : Memory.wf s.mem) :
    Memory.wf (admitStores s c g p es).1.mem := by
  unfold admitStores
  repeat' first
   | with_reducible assumption
   | with_reducible apply keeps_State_modCluster
   | with_reducible apply keeps_State_wireOnce
   | with_reducible apply keeps_State_fresh
   | with_reducible apply keeps_State_modPend
   | with_reducible apply keeps_performStore
   | with_reducible apply keeps_sendOwn
   | with_reducible refine keeps_foldl_fst (fun _ _ _ => ?_) ?_
   | dsimp only
   | split

theorem keeps_evWcFlush {c : Nat} {s : State} (kp : Memory.wf s.mem) : Memory.wf (evWcFlush c s).mem := by
  unfold evWcFlush
  repeat' first
   | with_reducible assumption
   | with_reducible apply keeps_State_modCluster
   | with_reducible apply keeps_State_send
   | with_reducible refine keeps_foldl (fun _ _ _ => ?_) ?_
   | dsimp only
   | split

theorem keeps_lsuDirect {s : State} {g id : Nat} (kp : Memory.wf s.mem) : Memory.wf (lsuDirect s g id).mem := by
  unfold lsuDirect
  repeat' first
   | with_reducible assumption
   | with_reducible apply keeps_State_wire
   | with_reducible apply keeps_State_wireOnce
   | with_reducible apply keeps_State_send
   | dsimp only
   | split

theorem keeps_winDone {s : State} {g id : Nat} (kp : Memory.wf s.mem) : Memory.wf (winDone s g id).mem := by
  unfold winDone
  repeat' first
   | with_reducible assumption
   | with_reducible apply keeps_dropCode
   | with_reducible apply keeps_State_modPend
   | with_reducible apply keeps_lsuDirect
   | with_reducible refine keeps_foldl (fun _ _ _ => ?_) ?_
   | dsimp only
   | split

theorem keeps_bindPiece {s : State} {g id : Nat} {x : Piece} {race ue : Bool} (kp : Memory.wf s.mem) :
    Memory.wf (bindPiece s g id x race ue).mem := by
  unfold bindPiece
  repeat' first
   | with_reducible assumption
   | with_reducible apply keeps_touchSlot
   | with_reducible apply keeps_State_modPend
   | split

theorem keeps_bindHits {s : State} {g id : Nat} (kp : Memory.wf s.mem) : Memory.wf (bindHits s g id).mem := by
  unfold bindHits
  repeat' first
   | with_reducible assumption
   | with_reducible apply keeps_bindPiece
   | with_reducible refine keeps_foldl (fun _ _ _ => ?_) ?_
   | dsimp only
   | split

theorem keeps_ucNext {s : State} {g id : Nat} {fuel : Nat} (kp : Memory.wf s.mem) : Memory.wf (ucNext s g id fuel).mem := by
  induction fuel generalizing s g id with
  | zero => exact kp
  | succ n ih =>
    unfold ucNext
    repeat' first
     | with_reducible assumption
     | with_reducible apply ih
     | with_reducible apply keeps_State_wireOnce
     | with_reducible apply keeps_State_send
     | with_reducible apply keeps_bindPiece
     | split

theorem keeps_lsuAsk {s : State} {g : Nat} {p : Pend} {k : ReqKind} {fr : Nat} {m : BitVec 32} (kp : Memory.wf s.mem) :
    Memory.wf (lsuAsk s g p k fr m).mem := by
  unfold lsuAsk
  repeat' first
   | with_reducible assumption
   | with_reducible apply keeps_State_send
   | with_reducible apply keeps_State_modPend

theorem keeps_fillFrame {s : State} {g : Nat} {p : Pend} {vframe frame : Nat} (kp : Memory.wf s.mem) :
    Memory.wf (fillFrame s g p vframe frame).mem := by
  unfold fillFrame
  repeat' first
   | with_reducible assumption
   | with_reducible apply keeps_addFill
   | with_reducible apply keeps_evCount
   | with_reducible apply keeps_moveF
   | with_reducible apply keeps_bindHits
   | with_reducible apply keeps_lsuAsk
   | with_reducible refine keeps_foldl (fun _ _ _ => ?_) ?_
   | dsimp only
   | split

theorem keeps_lsuFill {s : State} {g : Nat} {p : Pend} (kp : Memory.wf s.mem) : Memory.wf (lsuFill s g p).mem := by
  unfold lsuFill
  repeat' first
   | with_reducible assumption
   | with_reducible apply keeps_bindHits
   | with_reducible apply keeps_lsuAsk
   | with_reducible apply keeps_fillFrame
   | with_reducible refine keeps_foldl (fun _ _ _ => ?_) ?_
   | dsimp only
   | split

theorem keeps_lsuFinish {s : State} {g : Nat} {p : Pend} (kp : Memory.wf s.mem) : Memory.wf (lsuFinish s g p).mem := by
  unfold lsuFinish
  repeat' first
   | with_reducible assumption
   | with_reducible apply keeps_State_modGroup
   | with_reducible apply keeps_finishPend
   | with_reducible apply keeps_returnFromTrap
   | with_reducible apply keeps_lsuWake
   | with_reducible apply keeps_lsuFault
   | dsimp only
   | split

theorem keeps_atomFill {s : State} {g : Nat} {p : Pend} (kp : Memory.wf s.mem) : Memory.wf (atomFill s g p).mem := by
  unfold atomFill
  repeat' first
   | with_reducible assumption
   | with_reducible apply keeps_State_send
   | with_reducible apply keeps_State_modPend
   | with_reducible refine keeps_foldl (fun _ _ _ => ?_) ?_
   | dsimp only
   | split

theorem keeps_lsuCommit {s : State} {g : Nat} {p : Pend} (kp : Memory.wf s.mem) : Memory.wf (lsuCommit s g p).mem := by
  unfold lsuCommit
  repeat' first
   | with_reducible assumption
   | with_reducible apply keeps_State_modGroup
   | with_reducible apply keeps_State_modPend
   | with_reducible apply keeps_lsuFault
   | dsimp only
   | split

theorem keeps_lsuAdmit {s : State} {g : Nat} {p : Pend} (kp : Memory.wf s.mem) : Memory.wf (lsuAdmit s g p).mem := by
  unfold lsuAdmit
  repeat' first
   | with_reducible assumption
   | with_reducible apply keeps_State_wireOnce
   | with_reducible apply keeps_State_modPend
   | with_reducible apply keeps_lsuWake
   | with_reducible apply keeps_admitStores
   | with_reducible apply keeps_lsuDirect
   | with_reducible refine keeps_foldl (fun _ _ _ => ?_) ?_
   | dsimp only
   | split

theorem keeps_lsuIssue {s : State} {g id : Nat} (kp : Memory.wf s.mem) : Memory.wf (lsuIssue s g id).mem := by
  unfold lsuIssue
  repeat' first
   | with_reducible assumption
   | with_reducible apply keeps_State_wireOnce
   | with_reducible apply keeps_State_modPend
   | with_reducible apply keeps_drainMark
   | with_reducible apply keeps_lsuWake
   | with_reducible apply keeps_lsuFault
   | with_reducible apply keeps_ucNext
   | with_reducible apply keeps_lsuFill
   | with_reducible apply keeps_lsuAdmit
   | dsimp only
   | split

theorem keeps_lsuStep {s : State} {g id : Nat} {v : Option Verdict} (kp : Memory.wf s.mem) : Memory.wf (lsuStep s g id v).mem := by
  unfold lsuStep
  repeat' first
   | with_reducible assumption
   | with_reducible apply keeps_addWaiter
   | with_reducible apply keeps_State_modPend
   | with_reducible apply keeps_lsuWake
   | with_reducible apply keeps_lsuFault
   | with_reducible apply keeps_lsuFinish
   | with_reducible apply keeps_atomFill
   | with_reducible apply keeps_lsuCommit
   | with_reducible apply keeps_lsuAdmit
   | with_reducible apply keeps_lsuIssue
   | with_reducible refine keeps_foldl (fun _ _ _ => ?_) ?_
   | dsimp only
   | split

theorem keeps_lsuData {g op : Nat} {r : Req} {gr : Grant} {race ue : BitVec 32} {s : State} (kp : Memory.wf s.mem) :
    Memory.wf (lsuData g op r gr race ue s).mem := by
  unfold lsuData
  repeat' first
   | with_reducible assumption
   | lift_lets
   | (intro stx
      have hstx : Memory.wf stx.mem := by
       dsimp (zeta := false) only [stx]
       repeat' first
        | with_reducible assumption
        | with_reducible apply keeps_State_wireOnce
        | with_reducible apply keeps_hintSlot
        | with_reducible apply keeps_takeFill
        | with_reducible apply keeps_evCount
        | with_reducible apply keeps_State_modPend
        | with_reducible apply keeps_lsuWake
        | with_reducible apply keeps_lsuFault
        | with_reducible apply keeps_lsuDirect
        | with_reducible apply keeps_bindPiece
        | with_reducible apply keeps_ucNext
        | with_reducible refine keeps_foldl (fun _ _ _ => ?_) ?_
        | split
      clear_value stx)
   | (intro stx; clear_value stx)
   | with_reducible apply keeps_State_wireOnce
   | with_reducible apply keeps_hintSlot
   | with_reducible apply keeps_takeFill
   | with_reducible apply keeps_evCount
   | with_reducible apply keeps_State_modPend
   | with_reducible apply keeps_lsuWake
   | with_reducible apply keeps_lsuFault
   | with_reducible apply keeps_lsuDirect
   | with_reducible apply keeps_bindPiece
   | with_reducible apply keeps_ucNext
   | with_reducible refine keeps_foldl (fun _ _ _ => ?_) ?_
   | split

theorem keeps_queueData {c id : Nat} {r : Req} {gr : Grant} {ue : BitVec 32} {s : State} (kp : Memory.wf s.mem) :
    Memory.wf (queueData c id r gr ue s).mem := by
  unfold queueData
  repeat' first
   | with_reducible assumption
   | with_reducible apply keeps_State_modCluster
   | with_reducible apply keeps_State_wire
   | with_reducible apply keeps_dropFrom
   | with_reducible apply keeps_install
   | with_reducible apply keeps_trimSlot
   | with_reducible apply keeps_endFill
   | with_reducible apply keeps_storeDone
   | with_reducible apply keeps_performStore
   | with_reducible refine keeps_foldl (fun _ _ _ => ?_) ?_
   | dsimp only
   | split

theorem keeps_lsuFlt {g op : Nat} {r : Req} {cause sub : Nat} {s : State} (kp : Memory.wf s.mem) :
    Memory.wf (lsuFlt g op r cause sub s).mem := by
  unfold lsuFlt
  repeat' first
   | with_reducible assumption
   | with_reducible apply keeps_endFill
   | with_reducible apply keeps_finishPend
   | with_reducible apply keeps_lsuFault
   | dsimp only
   | split

theorem keeps_storeFlt {c id : Nat} {r : Req} {cause sub : Nat} {s : State} (kp : Memory.wf s.mem) :
    Memory.wf (storeFlt c id r cause sub s).mem := by
  unfold storeFlt
  repeat' first
   | with_reducible assumption
   | with_reducible apply keeps_State_modCluster
   | with_reducible apply keeps_State_wireOnce
   | with_reducible apply keeps_endFill
   | with_reducible apply keeps_lsuWake
   | with_reducible apply keeps_lsuFault
   | with_reducible apply keeps_sendOwn
   | with_reducible refine keeps_foldl (fun _ _ _ => ?_) ?_
   | dsimp only
   | split

theorem keeps_globalSem {c : Ctx} {s : State} (kp : Memory.wf s.mem) : Memory.wf (globalSem.act c s).1.mem := by
  unfold globalSem
  repeat' first
   | with_reducible assumption
   | with_reducible apply keeps_State_fresh
   | with_reducible apply keeps_addPend
   | with_reducible apply keeps_watchLog
   | with_reducible apply keeps_lsuStep

theorem keeps_ldgSem {c : Ctx} {s : State} (kp : Memory.wf s.mem) : Memory.wf (ldgSem.act c s).1.mem := by
  unfold ldgSem
  repeat' first
   | with_reducible assumption
   | with_reducible apply keeps_globalSem

theorem keeps_stgSem {c : Ctx} {s : State} (kp : Memory.wf s.mem) : Memory.wf (stgSem.act c s).1.mem := by
  unfold stgSem
  repeat' first
   | with_reducible assumption
   | with_reducible apply keeps_globalSem

theorem keeps_atomGSem {c : Ctx} {s : State} (kp : Memory.wf s.mem) : Memory.wf (atomGSem.act c s).1.mem := by
  unfold atomGSem
  repeat' first
   | with_reducible assumption
   | with_reducible apply keeps_globalSem

theorem keeps_casGSem {c : Ctx} {s : State} (kp : Memory.wf s.mem) : Memory.wf (casGSem.act c s).1.mem := by
  unfold casGSem
  repeat' first
   | with_reducible assumption
   | with_reducible apply keeps_globalSem

theorem keeps_pfgSem {c : Ctx} {s : State} (kp : Memory.wf s.mem) : Memory.wf (pfgSem.act c s).1.mem := by
  unfold pfgSem
  repeat' first
   | with_reducible assumption
   | with_reducible apply keeps_State_modGroup
   | with_reducible apply keeps_State_fresh
   | with_reducible apply keeps_addPend
   | with_reducible apply keeps_lsuStep
   | dsimp only
   | split

theorem keeps_closeWindows {s : State} {g : Nat} (kp : Memory.wf s.mem) : Memory.wf (closeWindows s g).mem := by
  unfold closeWindows
  repeat' first
   | with_reducible assumption
   | with_reducible apply keeps_State_modCore
   | with_reducible apply keeps_State_wireOnce
   | with_reducible refine keeps_foldl (fun _ _ _ => ?_) ?_
   | split

theorem keeps_fenceSem {c : Ctx} {s : State} (kp : Memory.wf s.mem) : Memory.wf (fenceSem.act c s).1.mem := by
  unfold fenceSem
  repeat' first
   | with_reducible assumption
   | with_reducible apply keeps_State_wire
   | with_reducible apply keeps_State_fresh
   | with_reducible apply keeps_addPend
   | with_reducible apply keeps_closeWindows
   | split

theorem keeps_xfenceSem {c : Ctx} {s : State} (kp : Memory.wf s.mem) : Memory.wf (xfenceSem.act c s).1.mem := by
  unfold xfenceSem
  repeat' first
   | with_reducible assumption
   | with_reducible apply keeps_State_wire
   | with_reducible apply keeps_State_fresh
   | with_reducible apply keeps_addPend
   | with_reducible apply keeps_closeWindows
   | split

theorem keeps_fenceStep {s : State} {g : Nat} {p : Pend} (kp : Memory.wf s.mem) : Memory.wf (fenceStep s g p).mem := by
  unfold fenceStep
  repeat' first
   | with_reducible assumption
   | with_reducible apply keeps_State_modGroup
   | with_reducible apply keeps_State_wire
   | with_reducible apply keeps_leuth
   | with_reducible apply keeps_State_modPend
   | with_reducible apply keeps_finishPend
   | with_reducible apply keeps_drainMark
   | dsimp only
   | split

/-! ### Gsc.lean -/

theorem keeps_forceWin {core : Nat} {s : State} {n : Nat} (kp : Memory.wf s.mem) : Memory.wf (forceWin core s n).mem := by
  unfold forceWin
  repeat' first
   | with_reducible assumption
   | with_reducible apply keeps_State_modCore
   | with_reducible apply keeps_State_wireOnce
   | split

theorem keeps_gscPort {core win : Nat} {s : State} (kp : Memory.wf s.mem) : Memory.wf (gscPort core win s).mem := by
  unfold gscPort
  repeat' first
   | with_reducible assumption
   | with_reducible apply keeps_State_modCore
   | with_reducible refine keeps_foldl (fun _ _ _ => ?_) ?_
   | dsimp only
   | split

theorem keeps_closeWin {core win : Nat} {s : State} (kp : Memory.wf s.mem) : Memory.wf (closeWin core win s).mem := by
  unfold closeWin
  repeat' first
   | with_reducible assumption
   | with_reducible apply keeps_State_modCore
   | with_reducible apply keeps_State_send
   | with_reducible apply keeps_evCount
   | with_reducible apply keeps_State_modPend
   | with_reducible apply keeps_gscPort
   | with_reducible refine keeps_foldl_fst (fun _ _ _ => ?_) ?_
   | with_reducible refine keeps_foldl (fun _ _ _ => ?_) ?_
   | dsimp only
   | split

theorem keeps_evGscWindowTimeout {core win : Nat} {s : State} (kp : Memory.wf s.mem) : Memory.wf (evGscWindowTimeout core win s).mem := by
  unfold evGscWindowTimeout
  repeat' first
   | with_reducible assumption
   | with_reducible apply keeps_closeWin
   | with_reducible refine keeps_foldl (fun _ _ _ => ?_) ?_
   | dsimp only
   | split

theorem keeps_gscDrop {core : Nat} {s : State} (kp : Memory.wf s.mem) : Memory.wf (gscDrop core s).mem := by
  unfold gscDrop
  repeat' first
   | with_reducible assumption
   | with_reducible apply keeps_State_modCore
   | with_reducible apply keeps_State_wireOnce
   | dsimp only
   | split

theorem keeps_gscTake {core : Nat} {v : Option Verdict} {s : State} (kp : Memory.wf s.mem) : Memory.wf (gscTake core v s).mem := by
  unfold gscTake
  repeat' first
   | with_reducible assumption
   | with_reducible apply keeps_State_modGroup
   | with_reducible apply keeps_State_setCore
   | with_reducible apply keeps_addWaiter
   | with_reducible apply keeps_State_modPend
   | with_reducible apply keeps_deferFault
   | with_reducible apply keeps_watchRecs
   | with_reducible apply keeps_forceWin
   | with_reducible apply keeps_gscDrop
   | with_reducible refine keeps_foldl (fun _ _ _ => ?_) ?_
   | dsimp only
   | split

theorem keeps_evGscInputDequeue {core : Nat} {s : State} (kp : Memory.wf s.mem) : Memory.wf (evGscInputDequeue core s).mem := by
  unfold evGscInputDequeue
  repeat' first
   | with_reducible assumption
   | with_reducible apply keeps_gscTake

theorem keeps_evGscReply {core win frame : Nat} {race : BitVec 32} {s : State} (kp : Memory.wf s.mem) :
    Memory.wf (evGscReply core win frame race s).mem := by
  unfold evGscReply
  repeat' first
   | with_reducible assumption
   | with_reducible apply keeps_State_modCore
   | with_reducible apply keeps_State_wire
   | with_reducible apply keeps_State_wireOnce
   | with_reducible apply keeps_evCount
   | with_reducible apply keeps_State_modPend
   | with_reducible apply keeps_deferFault
   | with_reducible refine keeps_foldl (fun _ _ _ => ?_) ?_
   | dsimp only
   | split

theorem keeps_gscStep {s : State} {g : Nat} {p : Pend} (kp : Memory.wf s.mem) : Memory.wf (gscStep s g p).mem := by
  unfold gscStep
  repeat' first
   | with_reducible assumption
   | with_reducible apply keeps_State_modGroup
   | with_reducible apply keeps_State_wireOnce
   | with_reducible apply keeps_finishPend
   | dsimp only
   | split

theorem keeps_gscSem {c : Ctx} {s : State} (kp : Memory.wf s.mem) : Memory.wf (gscSem.act c s).1.mem := by
  unfold gscSem
  repeat' first
   | with_reducible assumption
   | with_reducible apply keeps_State_modCore
   | with_reducible apply keeps_State_wireOnce
   | with_reducible apply keeps_State_fresh
   | with_reducible apply keeps_addPend

theorem keeps_ldgcSem {c : Ctx} {s : State} (kp : Memory.wf s.mem) : Memory.wf (ldgcSem.act c s).1.mem := by
  unfold ldgcSem
  repeat' first
   | with_reducible assumption
   | with_reducible apply keeps_gscSem

theorem keeps_stgcSem {c : Ctx} {s : State} (kp : Memory.wf s.mem) : Memory.wf (stgcSem.act c s).1.mem := by
  unfold stgcSem
  repeat' first
   | with_reducible assumption
   | with_reducible apply keeps_gscSem

theorem keeps_gscFlt {core win : Nat} {r : Req} {cause sub : Nat} {s : State} (kp : Memory.wf s.mem) :
    Memory.wf (gscFlt core win r cause sub s).mem := by
  unfold gscFlt
  repeat' first
   | with_reducible assumption
   | with_reducible apply keeps_State_modCore
   | with_reducible apply keeps_State_wireOnce
   | with_reducible apply keeps_deferFault
   | with_reducible refine keeps_foldl (fun _ _ _ => ?_) ?_
   | dsimp only
   | split

/-! ### Freeze.lean -/

theorem keeps_resolvePend {s : State} {g id : Nat} {res : List RegWrite} (kp : Memory.wf s.mem) :
    Memory.wf (resolvePend s g id res).mem := by
  unfold resolvePend
  repeat' first
   | with_reducible assumption
   | with_reducible apply keeps_State_wire
   | with_reducible apply keeps_State_modPend

theorem keeps_kickTsch {s : State} {core : Nat} (kp : Memory.wf s.mem) : Memory.wf (kickTsch s core).mem := by
  unfold kickTsch
  repeat' first
   | with_reducible assumption
   | with_reducible apply keeps_State_wireOnce
   | with_reducible refine keeps_foldl (fun _ _ _ => ?_) ?_

theorem keeps_decCounter {s : State} {core k : Nat} (kp : Memory.wf s.mem) : Memory.wf (decCounter s core k).mem := by
  unfold decCounter
  repeat' first
   | with_reducible assumption
   | with_reducible apply keeps_State_modCore
   | with_reducible apply keeps_kickTsch
   | dsimp only
   | split

theorem keeps_cleanSlot {s : State} {c key : Nat} {m : BitVec 32} (kp : Memory.wf s.mem) : Memory.wf (cleanSlot s c key m).mem := by
  unfold cleanSlot
  repeat' first
   | with_reducible assumption
   | with_reducible apply keeps_State_modCluster
   | with_reducible apply keeps_wbUe
   | with_reducible apply keeps_evWb
   | dsimp only
   | split

theorem keeps_maintain {s : State} {c : Nat} {sel : CSlot → BitVec 32} {gone : Nat → Bool} (kp : Memory.wf s.mem) :
    Memory.wf (maintain s c sel gone).mem := by
  unfold maintain
  repeat' first
   | with_reducible assumption
   | with_reducible apply keeps_dropFrom
   | with_reducible apply keeps_cleanSlot
   | with_reducible refine keeps_foldl (fun _ _ _ => ?_) ?_
   | dsimp only
   | split

theorem keeps_maintAct {s : State} {g : Nat} {p : Pend} {ps : List (Nat × Nat)} (kp : Memory.wf s.mem) :
    Memory.wf (maintAct s g p ps).mem := by
  unfold maintAct
  repeat' first
   | with_reducible assumption
   | with_reducible apply keeps_dropCodeIf
   | with_reducible apply keeps_finishPend
   | with_reducible apply keeps_maintain
   | with_reducible refine keeps_foldl (fun _ _ _ => ?_) ?_
   | dsimp only
   | split

theorem keeps_maintStep {s : State} {g id : Nat} {v : Option Verdict} (kp : Memory.wf s.mem) : Memory.wf (maintStep s g id v).mem := by
  unfold maintStep
  repeat' first
   | with_reducible assumption
   | with_reducible apply keeps_addWaiter
   | with_reducible apply keeps_State_modPend
   | with_reducible apply keeps_maintAct
   | dsimp only
   | split

theorem keeps_maintSem {c : Ctx} {s : State} (kp : Memory.wf s.mem) : Memory.wf (maintSem.act c s).1.mem := by
  unfold maintSem
  repeat' first
   | with_reducible assumption
   | with_reducible apply keeps_State_wire
   | with_reducible apply keeps_State_fresh
   | with_reducible apply keeps_addPend
   | dsimp only
   | split

theorem keeps_cflushSem {c : Ctx} {s : State} (kp : Memory.wf s.mem) : Memory.wf (cflushSem.act c s).1.mem := by
  unfold cflushSem
  repeat' first
   | with_reducible assumption
   | with_reducible apply keeps_maintSem

theorem keeps_cinvSem {c : Ctx} {s : State} (kp : Memory.wf s.mem) : Memory.wf (cinvSem.act c s).1.mem := by
  unfold cinvSem
  repeat' first
   | with_reducible assumption
   | with_reducible apply keeps_maintSem

theorem keeps_ccleanSem {c : Ctx} {s : State} (kp : Memory.wf s.mem) : Memory.wf (ccleanSem.act c s).1.mem := by
  unfold ccleanSem
  repeat' first
   | with_reducible assumption
   | with_reducible apply keeps_maintSem

theorem keeps_setFz {s : State} {h : Nat} {e : FzEnt} (kp : Memory.wf s.mem) : Memory.wf (setFz s h e).mem := kp

theorem keeps_refilter {s : State} (kp : Memory.wf s.mem) : Memory.wf (refilter s).mem := by
  unfold refilter
  repeat' first
   | with_reducible assumption
   | with_reducible apply keeps_State_modCluster
   | with_reducible refine keeps_foldl (fun _ _ _ => ?_) ?_

theorem keeps_fzWake {s : State} {w : FzWait} {res : State → Nat → Nat → List RegWrite} (kp : Memory.wf s.mem) :
    Memory.wf (fzWake s w res).mem := by
  unfold fzWake
  repeat' first
   | with_reducible assumption
   | with_reducible apply keeps_State_wire
   | with_reducible apply keeps_resolvePend
   | with_reducible apply keeps_decCounter
   | split

theorem keeps_freezeAccept {s : State} {g id asid va pa n : Nat} {d : BitVec 8} (kp : Memory.wf s.mem) :
    Memory.wf (freezeAccept s g id asid va pa n d).mem := by
  unfold freezeAccept
  repeat' first
   | with_reducible assumption
   | with_reducible apply keeps_State_wire
   | with_reducible apply keeps_resolvePend
   | with_reducible apply keeps_setFz
   | dsimp only
   | split

theorem keeps_evFreezeAck {h : Nat} {s : State} (kp : Memory.wf s.mem) : Memory.wf (evFreezeAck h s).mem := by
  unfold evFreezeAck
  repeat' first
   | with_reducible assumption
   | with_reducible apply keeps_State_wire
   | with_reducible apply keeps_setFz
   | with_reducible apply keeps_refilter
   | with_reducible refine keeps_foldl (fun _ _ _ => ?_) ?_
   | dsimp only
   | split

theorem keeps_startThaw {s : State} {h : Nat} (kp : Memory.wf s.mem) : Memory.wf (startThaw s h).mem := by
  unfold startThaw
  repeat' first
   | with_reducible assumption
   | with_reducible apply keeps_State_wire
   | with_reducible apply keeps_setFz
   | with_reducible refine keeps_foldl (fun _ _ _ => ?_) ?_

theorem keeps_fzFrozen {s : State} {h : Nat} (kp : Memory.wf s.mem) : Memory.wf (fzFrozen s h).mem := by
  unfold fzFrozen
  repeat' first
   | with_reducible assumption
   | with_reducible apply keeps_setFz
   | with_reducible apply keeps_fzWake
   | with_reducible apply keeps_startThaw
   | with_reducible refine keeps_foldl (fun _ _ _ => ?_) ?_
   | dsimp only
   | split

theorem keeps_evFreezeSliceReport {h slice : Nat} {s : State} (kp : Memory.wf s.mem) : Memory.wf (evFreezeSliceReport h slice s).mem := by
  unfold evFreezeSliceReport
  repeat' first
   | with_reducible assumption
   | with_reducible apply keeps_State_wire
   | with_reducible apply keeps_evCount
   | with_reducible apply keeps_sendRecalls
   | with_reducible apply keeps_setFz
   | with_reducible apply keeps_fzFrozen
   | with_reducible refine keeps_foldl (fun _ _ _ => ?_) ?_
   | dsimp only
   | split

theorem keeps_evCollect {h c : Nat} {s : State} (kp : Memory.wf s.mem) : Memory.wf (evCollect h c s).mem := by
  unfold evCollect
  repeat' first
   | with_reducible assumption
   | with_reducible apply keeps_State_wireOnce
   | with_reducible apply keeps_dropCodeIf
   | with_reducible apply keeps_maintain
   | with_reducible apply keeps_setFz
   | dsimp only
   | split

theorem keeps_evThawAck {h : Nat} {s : State} (kp : Memory.wf s.mem) : Memory.wf (evThawAck h s).mem := by
  unfold evThawAck
  repeat' first
   | with_reducible assumption
   | with_reducible apply keeps_State_wire
   | with_reducible apply keeps_refilter
   | with_reducible apply keeps_fzWake
   | with_reducible refine keeps_foldl (fun _ _ _ => ?_) ?_
   | dsimp only
   | split

theorem keeps_freezeStep {s : State} {g id : Nat} {v : Option Verdict} (kp : Memory.wf s.mem) : Memory.wf (freezeStep s g id v).mem := by
  unfold freezeStep
  repeat' first
   | with_reducible assumption
   | with_reducible apply keeps_State_wire
   | with_reducible apply keeps_addWaiter
   | with_reducible apply keeps_State_modPend
   | with_reducible apply keeps_deferFault
   | with_reducible apply keeps_drainMark
   | with_reducible apply keeps_freezeAccept
   | dsimp only
   | split

theorem keeps_freezeSem {c : Ctx} {s : State} (kp : Memory.wf s.mem) : Memory.wf (freezeSem.act c s).1.mem := by
  unfold freezeSem
  repeat' first
   | with_reducible assumption
   | with_reducible apply keeps_State_fresh
   | with_reducible apply keeps_addPend
   | with_reducible apply keeps_freezeStep

theorem keeps_thawAccept {s : State} {h : Nat} {ws : List FzWait} (kp : Memory.wf s.mem) : Memory.wf (thawAccept s h ws).mem := by
  unfold thawAccept
  repeat' first
   | with_reducible assumption
   | with_reducible apply keeps_setFz
   | with_reducible apply keeps_fzWake
   | with_reducible apply keeps_startThaw
   | with_reducible refine keeps_foldl (fun _ _ _ => ?_) ?_
   | dsimp only
   | split

theorem keeps_thawSem {c : Ctx} {s : State} (kp : Memory.wf s.mem) : Memory.wf (thawSem.act c s).1.mem := by
  unfold thawSem
  repeat' first
   | with_reducible assumption
   | with_reducible apply keeps_State_fresh
   | with_reducible apply keeps_addPend
   | with_reducible apply keeps_thawAccept

theorem keeps_frzqSem {c : Ctx} {s : State} (kp : Memory.wf s.mem) : Memory.wf (frzqSem.act c s).1.mem := by
  unfold frzqSem
  repeat' first
   | with_reducible assumption
   | with_reducible apply keeps_pendReady

end Sys2Proof.Machine
end

