-- ==== Sys2Proof/Laws/KeepsEngines.lean ====
section
/-!
SUPPORT. Global memory keeps its canonical form (addresses rise strictly, no listed byte is the one an unlisted address reads as) under
the cluster and matrix engines: one lemma each.
-/

namespace Sys2Proof.Machine

open Sys2Proof

/-! ### Engines.lean -/

theorem keeps_tagCore {s : State} {core a : Nat} {tags : List Bool} (kp : Memory.wf s.mem) : Memory.wf (tagCore s core a tags).mem := by
  unfold tagCore
  repeat' first
   | with_reducible assumption
   | with_reducible apply keeps_State_modCore
   | with_reducible refine keeps_foldl (fun _ _ _ => ?_) ?_
   | split

theorem keeps_tagChip {s : State} {a : Nat} {tags : List Bool} (kp : Memory.wf s.mem) : Memory.wf (tagChip s a tags).mem := by
  unfold tagChip
  repeat' first
   | with_reducible assumption
   | with_reducible refine keeps_foldl (fun _ _ _ => ?_) ?_
   | split

theorem keeps_engChip {s : State} {a : Nat} {b : List Byte} (kp : Memory.wf s.mem) : Memory.wf (engChip s a b).mem := by
  unfold engChip
  repeat' first
   | with_reducible assumption
   | with_reducible apply keeps_chipWrite

theorem keeps_shareRevoke {s : State} {b : Nat} (kp : Memory.wf s.mem) : Memory.wf (shareRevoke s b).mem := by
  unfold shareRevoke
  repeat' first
   | with_reducible assumption
   | with_reducible apply keeps_State_modCluster
   | split

theorem keeps_shareFree {s : State} {b : Nat} (kp : Memory.wf s.mem) : Memory.wf (shareFree s b).mem := by
  unfold shareFree
  repeat' first
   | with_reducible assumption
   | with_reducible apply keeps_State_modBlock
   | with_reducible apply keeps_State_modCluster
   | split

theorem keeps_joinSem {c : Ctx} {s : State} (kp : Memory.wf s.mem) : Memory.wf (joinSem.act c s).1.mem := by
  unfold joinSem
  repeat' first
   | with_reducible assumption
   | with_reducible apply keeps_State_modCluster
   | with_reducible apply keeps_State_wire
   | with_reducible apply keeps_State_fresh
   | with_reducible apply keeps_addPend
   | with_reducible apply keeps_pendReady
   | dsimp only
   | split

theorem keeps_evJoinComplete {g op : Nat} {s : State} (kp : Memory.wf s.mem) : Memory.wf (evJoinComplete g op s).mem := by
  unfold evJoinComplete
  repeat' first
   | with_reducible assumption
   | with_reducible apply keeps_State_modGroup
   | with_reducible apply keeps_State_modBlock
   | with_reducible apply keeps_finishPend
   | split

theorem keeps_leaveSem {c : Ctx} {s : State} (kp : Memory.wf s.mem) : Memory.wf (leaveSem.act c s).1.mem := by
  unfold leaveSem
  repeat' first
   | with_reducible assumption
   | with_reducible apply keeps_State_wire
   | with_reducible apply keeps_State_fresh
   | with_reducible apply keeps_addPend
   | with_reducible apply keeps_shareRevoke

theorem keeps_evLeaveComplete {g op : Nat} {s : State} (kp : Memory.wf s.mem) : Memory.wf (evLeaveComplete g op s).mem := by
  unfold evLeaveComplete
  repeat' first
   | with_reducible assumption
   | with_reducible apply keeps_State_wire
   | with_reducible apply keeps_finishPend
   | with_reducible apply keeps_shareFree
   | split

/-! ### Tiles.lean -/

theorem keeps_slotReady {s : State} {core p : Nat} {tagged : Bool} (kp : Memory.wf s.mem) : Memory.wf (slotReady s core p tagged).mem := by
  unfold slotReady
  repeat' first
   | with_reducible assumption
   | with_reducible apply keeps_modTile

theorem keeps_slotEmpty {s : State} {core p : Nat} (kp : Memory.wf s.mem) : Memory.wf (slotEmpty s core p).mem := by
  unfold slotEmpty
  repeat' first
   | with_reducible assumption
   | with_reducible apply keeps_modTile

theorem keeps_tdefSem {c : Ctx} {s : State} (kp : Memory.wf s.mem) : Memory.wf (tdefSem.act c s).1.mem := by
  unfold tdefSem
  repeat' first
   | with_reducible assumption
   | with_reducible apply keeps_modTile
   | with_reducible apply keeps_kickTsch
   | dsimp only
   | split

theorem keeps_tstatSem {c : Ctx} {s : State} (kp : Memory.wf s.mem) : Memory.wf (tstatSem.act c s).1.mem := by
  unfold tstatSem
  repeat' first
   | with_reducible assumption
   | with_reducible apply keeps_pendReady

theorem keeps_copySem {store : Bool} {c : Ctx} {s : State} (kp : Memory.wf s.mem) : Memory.wf ((copySem store).act c s).1.mem := by
  unfold copySem
  repeat' first
   | with_reducible assumption
   | with_reducible apply keeps_State_modCore
   | with_reducible apply keeps_State_wire
   | with_reducible apply keeps_State_fresh
   | with_reducible apply keeps_addPend
   | with_reducible apply keeps_modTile
   | dsimp only
   | split

theorem keeps_tcopySem {c : Ctx} {s : State} (kp : Memory.wf s.mem) : Memory.wf (tcopySem.act c s).1.mem := by
  unfold tcopySem
  repeat' first
   | with_reducible assumption
   | with_reducible apply keeps_copySem

theorem keeps_tstoreSem {c : Ctx} {s : State} (kp : Memory.wf s.mem) : Memory.wf (tstoreSem.act c s).1.mem := by
  unfold tstoreSem
  repeat' first
   | with_reducible assumption
   | with_reducible apply keeps_copySem

theorem keeps_bceDrop {s : State} {core id : Nat} (kp : Memory.wf s.mem) : Memory.wf (bceDrop s core id).mem := by
  unfold bceDrop
  repeat' first
   | with_reducible assumption
   | with_reducible apply keeps_State_modCore
   | with_reducible apply keeps_State_wireOnce
   | with_reducible apply keeps_dropEng
   | dsimp only
   | split

theorem keeps_bceCancel {s : State} {core : Nat} {b : BceCmd} (kp : Memory.wf s.mem) : Memory.wf (bceCancel s core b).mem := by
  unfold bceCancel
  repeat' first
   | with_reducible assumption
   | with_reducible apply keeps_cancelPend
   | with_reducible apply keeps_bceDrop

theorem keeps_modBce {s : State} {core id : Nat} {f : BceCmd → BceCmd} (kp : Memory.wf s.mem) : Memory.wf (modBce s core id f).mem := by
  unfold modBce
  repeat' first
   | with_reducible assumption
   | with_reducible apply keeps_State_modCore

theorem keeps_evBceStart {core : Nat} {s : State} (kp : Memory.wf s.mem) : Memory.wf (evBceStart core s).mem := by
  unfold evBceStart
  repeat' first
   | with_reducible assumption
   | with_reducible apply keeps_State_wire
   | with_reducible apply keeps_State_wireOnce
   | with_reducible apply keeps_bceCancel
   | with_reducible apply keeps_modBce
   | dsimp only
   | split

theorem keeps_copyIn {s : State} {core : Nat} {b : BceCmd} {x : Nat × Nat × Nat} {d : EngGot} (kp : Memory.wf s.mem) :
    Memory.wf (copyIn s core b x d).mem := by
  unfold copyIn
  repeat' first
   | with_reducible assumption
   | with_reducible apply keeps_engWrite
   | with_reducible apply keeps_tagCore
   | with_reducible apply keeps_tagChip
   | with_reducible apply keeps_engChip
   | with_reducible apply keeps_modBce
   | split

theorem keeps_copyNext {s : State} {core id : Nat} (kp : Memory.wf s.mem) : Memory.wf (copyNext s core id).mem := by
  unfold copyNext
  repeat' first
   | with_reducible assumption
   | with_reducible apply keeps_State_wire
   | with_reducible apply keeps_engBegin
   | split

theorem keeps_evBcePart {core id : Nat} {s : State} (kp : Memory.wf s.mem) : Memory.wf (evBcePart core id s).mem := by
  unfold evBcePart
  repeat' first
   | with_reducible assumption
   | with_reducible apply keeps_State_wire
   | with_reducible apply keeps_dropEng
   | with_reducible apply keeps_bceCancel
   | with_reducible apply keeps_modBce
   | with_reducible apply keeps_copyIn
   | with_reducible apply keeps_copyNext
   | dsimp only
   | split

theorem keeps_evBceComplete {core id : Nat} {s : State} (kp : Memory.wf s.mem) : Memory.wf (evBceComplete core id s).mem := by
  unfold evBceComplete
  repeat' first
   | with_reducible assumption
   | with_reducible apply keeps_finishPend
   | with_reducible apply keeps_modTile
   | with_reducible apply keeps_kickTsch
   | with_reducible apply keeps_decCounter
   | with_reducible apply keeps_slotReady
   | with_reducible apply keeps_bceDrop
   | with_reducible apply keeps_bceCancel
   | split

theorem keeps_evBceFault {core id cause sub addr : Nat} {s : State} (kp : Memory.wf s.mem) :
    Memory.wf (evBceFault core id cause sub addr s).mem := by
  unfold evBceFault
  repeat' first
   | with_reducible assumption
   | with_reducible apply keeps_finishPend
   | with_reducible apply keeps_engFault
   | with_reducible apply keeps_modTile
   | with_reducible apply keeps_kickTsch
   | with_reducible apply keeps_slotEmpty
   | with_reducible apply keeps_bceDrop
   | with_reducible apply keeps_bceCancel
   | split

/-! ### Act.lean -/

theorem keeps_modAct {s : State} {core k : Nat} {f : ActTable → ActTable} (kp : Memory.wf s.mem) : Memory.wf (modAct s core k f).mem := by
  unfold modAct
  repeat' first
   | with_reducible assumption
   | with_reducible apply keeps_State_modCore

theorem keeps_actSem {c : Ctx} {s : State} (kp : Memory.wf s.mem) : Memory.wf (actSem.act c s).1.mem := by
  unfold actSem
  repeat' first
   | with_reducible assumption
   | with_reducible apply keeps_floatSem

theorem keeps_atloadSem {c : Ctx} {s : State} (kp : Memory.wf s.mem) : Memory.wf (atloadSem.act c s).1.mem := by
  unfold atloadSem
  repeat' first
   | with_reducible assumption
   | with_reducible apply keeps_State_wire
   | with_reducible apply keeps_State_fresh
   | with_reducible apply keeps_addPend
   | with_reducible apply keeps_modAct

theorem keeps_evAtloadComplete {core k : Nat} {s : State} (kp : Memory.wf s.mem) : Memory.wf (evAtloadComplete core k s).mem := by
  unfold evAtloadComplete
  repeat' first
   | with_reducible assumption
   | with_reducible apply keeps_State_wire
   | with_reducible apply keeps_finishPend
   | with_reducible apply keeps_deferFault
   | with_reducible apply keeps_raceRecord
   | with_reducible apply keeps_kickTsch
   | with_reducible apply keeps_modAct
   | with_reducible refine keeps_foldl (fun _ _ _ => ?_) ?_
   | dsimp only
   | split

theorem keeps_atstatSem {c : Ctx} {s : State} (kp : Memory.wf s.mem) : Memory.wf (atstatSem.act c s).1.mem := by
  unfold atstatSem
  repeat' first
   | with_reducible assumption
   | with_reducible apply keeps_onGroup

/-! ### Matrix.lean -/

theorem keeps_accFill {s : State} {core p : Nat} {f : Nat → Nat → Word} (kp : Memory.wf s.mem) : Memory.wf (accFill s core p f).mem := by
  unfold accFill
  repeat' first
   | with_reducible assumption
   | with_reducible apply keeps_State_modCore

theorem keeps_modAcc {s : State} {core p : Nat} {f : AccSt → AccSt} (kp : Memory.wf s.mem) : Memory.wf (modAcc s core p f).mem := by
  unfold modAcc
  repeat' first
   | with_reducible assumption
   | with_reducible apply keeps_State_modCore

theorem keeps_setPois {s : State} {core p : Nat} {b : Bool} (kp : Memory.wf s.mem) : Memory.wf (setPois s core p b).mem := by
  unfold setPois
  repeat' first
   | with_reducible assumption
   | with_reducible apply keeps_modAcc

/-! ### Tsch.lean -/

theorem keeps_readersMove {s : State} {core : Nat} {before after : List Nat} (kp : Memory.wf s.mem) :
    Memory.wf (readersMove s core before after).mem := by
  unfold readersMove
  repeat' first
   | with_reducible assumption
   | with_reducible apply keeps_modTile
   | with_reducible refine keeps_foldl (fun _ _ _ => ?_) ?_

theorem keeps_setOp {s : State} {core : Nat} {o o' : TOp} (kp : Memory.wf s.mem) : Memory.wf (setOp s core o o').mem := by
  unfold setOp
  repeat' first
   | with_reducible assumption
   | with_reducible apply keeps_State_modCore
   | with_reducible apply keeps_readersMove

theorem keeps_dropAccess {s : State} {id : Nat} (kp : Memory.wf s.mem) : Memory.wf (dropAccess s id).mem := by
  unfold dropAccess
  repeat' first
   | with_reducible assumption
   | with_reducible apply keeps_dropEng
   | with_reducible apply keeps_unlock
   | split

theorem keeps_removeOp {s : State} {core : Nat} {o : TOp} (kp : Memory.wf s.mem) : Memory.wf (removeOp s core o).mem := by
  unfold removeOp
  repeat' first
   | with_reducible assumption
   | with_reducible apply keeps_State_modCore
   | with_reducible apply keeps_State_wire
   | with_reducible apply keeps_kickTsch
   | with_reducible apply keeps_modAcc
   | with_reducible apply keeps_readersMove
   | with_reducible apply keeps_dropAccess
   | with_reducible refine keeps_foldl (fun _ _ _ => ?_) ?_

theorem keeps_takeTiles {s : State} {b : Block} {ctx : Nat} {ts : List Nat} (kp : Memory.wf s.mem) :
    Memory.wf (takeTiles s b ctx ts).mem := by
  unfold takeTiles
  repeat' first
   | with_reducible assumption
   | with_reducible apply keeps_modAcc
   | with_reducible refine keeps_foldl (fun _ _ _ => ?_) ?_

theorem keeps_chainOps {base : TOp} {op : Nat} {l : List (BitVec 512)} {prev : Option Nat} {s : State} (kp : Memory.wf s.mem) :
    Memory.wf (chainOps base op l prev s).1.mem := by
  induction l generalizing prev s with
  | nil => exact kp
  | cons r rs ih => exact ih kp

theorem keeps_acceptOps {s : State} {core : Nat} {ops : List TOp} (kp : Memory.wf s.mem) : Memory.wf (acceptOps s core ops).mem := by
  unfold acceptOps
  repeat' first
   | with_reducible assumption
   | with_reducible apply keeps_State_modCore
   | with_reducible apply keeps_kickTsch
   | with_reducible apply keeps_modAcc
   | with_reducible refine keeps_foldl (fun _ _ _ => ?_) ?_

theorem keeps_acceptOne {c : Ctx} {s : State} {f : TOp → TOp} {kind : TKind} {sh : Nat} (kp : Memory.wf s.mem) :
    Memory.wf (acceptOne c s f kind sh).1.mem := by
  unfold acceptOne
  repeat' first
   | with_reducible assumption
   | with_reducible apply keeps_State_fresh
   | with_reducible apply keeps_addPend
   | with_reducible apply keeps_takeTiles
   | with_reducible apply keeps_acceptOps

theorem keeps_evTschAccept {core : Nat} {s : State} (kp : Memory.wf s.mem) : Memory.wf (evTschAccept core s).mem := by
  unfold evTschAccept
  repeat' first
   | with_reducible assumption
   | dsimp only
   | split

theorem keeps_resolveFut {s : State} {g k lane cmd : Nat} {f : Fut → Fut} (kp : Memory.wf s.mem) :
    Memory.wf (resolveFut s g k lane cmd f).mem := by
  unfold resolveFut
  repeat' first
   | with_reducible assumption
   | with_reducible apply keeps_State_modGroup
   | dsimp only
   | split

theorem keeps_modBaton {s : State} {c q : Nat} {f : Baton → Baton} (kp : Memory.wf s.mem) : Memory.wf (modBaton s c q f).mem := by
  unfold modBaton
  repeat' first
   | with_reducible assumption
   | with_reducible apply keeps_State_modCluster

theorem keeps_batchFail {s : State} {k : Nat × Nat × Nat} {code : Nat} {e : EngErr} (kp : Memory.wf s.mem) :
    Memory.wf (batchFail s k code e).mem := by
  unfold batchFail
  repeat' first
   | with_reducible assumption
   | with_reducible apply keeps_State_wire
   | with_reducible apply keeps_resolveFut
   | with_reducible apply keeps_modBaton
   | with_reducible refine keeps_foldl (fun _ _ _ => ?_) ?_
   | dsimp only
   | split

theorem keeps_batchDone {s : State} {k : Nat × Nat × Nat} (kp : Memory.wf s.mem) : Memory.wf (batchDone s k).mem := by
  unfold batchDone
  repeat' first
   | with_reducible assumption
   | with_reducible apply keeps_State_wire
   | with_reducible apply keeps_resolveFut
   | with_reducible apply keeps_modBaton
   | with_reducible refine keeps_foldl (fun _ _ _ => ?_) ?_
   | dsimp only
   | split

theorem keeps_dropTail {s : State} {core : Nat} {o : TOp} (kp : Memory.wf s.mem) : Memory.wf (dropTail s core o).mem := by
  unfold dropTail
  repeat' first
   | with_reducible assumption
   | with_reducible apply keeps_removeOp
   | with_reducible refine keeps_foldl (fun _ _ _ => ?_) ?_

theorem keeps_poisFrom {s : State} {core : Nat} {o : TOp} {t : Nat} (kp : Memory.wf s.mem) : Memory.wf (poisFrom s core o t).mem := by
  unfold poisFrom
  repeat' first
   | with_reducible assumption
   | with_reducible apply keeps_setPois
   | with_reducible refine keeps_foldl (fun _ _ _ => ?_) ?_

theorem keeps_dropFill {s : State} {core : Nat} {o : TOp} (kp : Memory.wf s.mem) : Memory.wf (dropFill s core o).mem := by
  unfold dropFill
  repeat' first
   | with_reducible assumption
   | with_reducible apply keeps_slotEmpty
   | split

theorem keeps_flagAll {s : State} {o : TOp} (kp : Memory.wf s.mem) : Memory.wf (flagAll s o).mem := by
  unfold flagAll
  repeat' first
   | with_reducible assumption
   | with_reducible apply keeps_finishPend

theorem keeps_abortOp {s : State} {core : Nat} {o : TOp} {e : EngErr} {pois : Bool} (kp : Memory.wf s.mem) :
    Memory.wf (abortOp s core o e pois).mem := by
  unfold abortOp
  repeat' first
   | with_reducible assumption
   | with_reducible apply keeps_engFault
   | with_reducible apply keeps_removeOp
   | with_reducible apply keeps_batchFail
   | with_reducible apply keeps_dropTail
   | with_reducible apply keeps_poisFrom
   | with_reducible apply keeps_dropFill
   | with_reducible apply keeps_flagAll
   | split

theorem keeps_cancelOp {s : State} {core : Nat} {o : TOp} (kp : Memory.wf s.mem) : Memory.wf (cancelOp s core o).mem := by
  unfold cancelOp
  repeat' first
   | with_reducible assumption
   | with_reducible apply keeps_cancelPend
   | with_reducible apply keeps_setOp
   | with_reducible apply keeps_removeOp
   | with_reducible apply keeps_poisFrom
   | with_reducible apply keeps_dropFill
   | dsimp only
   | split

theorem keeps_evTschStart {core id : Nat} {s : State} (kp : Memory.wf s.mem) : Memory.wf (evTschStart core id s).mem := by
  unfold evTschStart
  repeat' first
   | with_reducible assumption
   | with_reducible apply keeps_State_wire
   | with_reducible apply keeps_modTile
   | with_reducible apply keeps_kickTsch
   | with_reducible apply keeps_setOp
   | with_reducible apply keeps_cancelOp
   | split

theorem keeps_evTaskComplete {core id : Nat} {s : State} (kp : Memory.wf s.mem) : Memory.wf (evTaskComplete core id s).mem := by
  unfold evTaskComplete
  repeat' first
   | with_reducible assumption
   | with_reducible apply keeps_State_modPend
   | with_reducible apply keeps_finishPend
   | with_reducible apply keeps_decCounter
   | with_reducible apply keeps_removeOp
   | with_reducible apply keeps_batchFail
   | with_reducible apply keeps_batchDone
   | with_reducible apply keeps_dropTail
   | with_reducible apply keeps_poisFrom
   | with_reducible apply keeps_dropFill
   | with_reducible apply keeps_flagAll
   | with_reducible apply keeps_cancelOp
   | dsimp only
   | split

theorem keeps_applyChunk {s : State} {core : Nat} {o : TOp} {fa fb : Nat} {skip : Bool} {ra rb : List RowGot} (kp : Memory.wf s.mem) :
    Memory.wf (applyChunk s core o fa fb skip ra rb).mem := by
  unfold applyChunk
  repeat' first
   | with_reducible assumption
   | with_reducible apply keeps_accFill

theorem keeps_zeroFirst {s : State} {core : Nat} {o : TOp} (kp : Memory.wf s.mem) : Memory.wf (zeroFirst s core o).mem := by
  unfold zeroFirst
  repeat' first
   | with_reducible assumption
   | with_reducible apply keeps_accFill
   | with_reducible apply keeps_setPois
   | split

theorem keeps_matrixSum {s : State} {core : Nat} {o : TOp} {e : Option EngAcc} (kp : Memory.wf s.mem) :
    Memory.wf (matrixSum s core o e).mem := by
  unfold matrixSum
  repeat' first
   | with_reducible assumption
   | with_reducible apply keeps_State_wire
   | with_reducible apply keeps_evCount
   | with_reducible apply keeps_kickTsch
   | with_reducible apply keeps_setPois
   | with_reducible apply keeps_setOp
   | with_reducible apply keeps_abortOp
   | with_reducible apply keeps_applyChunk
   | dsimp only
   | split

theorem keeps_evMatrixChunk {core id : Nat} {s : State} (kp : Memory.wf s.mem) : Memory.wf (evMatrixChunk core id s).mem := by
  unfold evMatrixChunk
  repeat' first
   | with_reducible assumption
   | with_reducible apply keeps_State_wireOnce
   | with_reducible apply keeps_dropEng
   | with_reducible apply keeps_engBegin
   | with_reducible apply keeps_cancelOp
   | with_reducible apply keeps_zeroFirst
   | with_reducible apply keeps_matrixSum
   | dsimp only
   | split

theorem keeps_evEnginePark {core id : Nat} {s : State} (kp : Memory.wf s.mem) : Memory.wf (evEnginePark core id s).mem := by
  unfold evEnginePark
  repeat' first
   | with_reducible assumption
   | with_reducible apply keeps_dropEng
   | with_reducible apply keeps_engFault
   | with_reducible apply keeps_kickTsch
   | with_reducible apply keeps_setOp
   | with_reducible apply keeps_abortOp
   | with_reducible apply keeps_cancelOp
   | split

theorem keeps_drainSlot {s : State} {core p : Nat} {o : TOp} {t : Nat} {t' : State} (e' : drainSlot s core p o t = some t')
    (kp : Memory.wf s.mem) : Memory.wf t'.mem := by
  unfold drainSlot at e'
  dsimp only at e'
  split at e'
  · cases e'
  · cases e'
    exact keeps_foldl (fun _ _ h => keeps_tagCore (keeps_engWrite h)) kp

theorem keeps_drainLocked {s : State} {core : Nat} {o : TOp} {t : Nat} {e : EngAcc} {t' : State} (e' : drainLocked s core o t e = some t')
    (kp : Memory.wf s.mem) : Memory.wf t'.mem := by
  unfold drainLocked at e'
  dsimp only at e'
  split at e'
  · cases e'
  · cases e'
    exact keeps_foldl (fun _ _ h => keeps_engWatch h) (keeps_dropEng (keeps_unlock (keeps_setEng kp)))

theorem keeps_fillReady {s : State} {core : Nat} {o : TOp} (kp : Memory.wf s.mem) : Memory.wf (fillReady s core o).mem := by
  unfold fillReady
  repeat' first
   | with_reducible assumption
   | with_reducible apply keeps_slotReady
   | split

theorem keeps_drainDone {s : State} {core : Nat} {o : TOp} (kp : Memory.wf s.mem) : Memory.wf (drainDone s core o).mem := by
  unfold drainDone
  repeat' first
   | with_reducible assumption
   | with_reducible apply keeps_State_wire
   | with_reducible apply keeps_evCount
   | with_reducible apply keeps_setOp
   | with_reducible apply keeps_fillReady
   | split

theorem keeps_drainNext {s : State} {core : Nat} {o : TOp} (kp : Memory.wf s.mem) : Memory.wf (drainNext s core o).mem := by
  unfold drainNext
  repeat' first
   | with_reducible assumption
   | with_reducible apply keeps_State_wire
   | with_reducible apply keeps_setOp
   | with_reducible apply keeps_drainDone
   | dsimp only
   | split

theorem keeps_drainStart {s : State} {core : Nat} {o : TOp} (kp : Memory.wf s.mem) : Memory.wf (drainStart s core o).mem := by
  unfold drainStart
  repeat' first
   | with_reducible assumption
   | with_reducible apply keeps_engBegin
   | with_reducible apply keeps_abortOp
   | (with_reducible apply keeps_drainSlot; focus with_reducible assumption)
   | with_reducible apply keeps_drainNext
   | split

theorem keeps_drainBegin {s : State} {core : Nat} {o : TOp} (kp : Memory.wf s.mem) : Memory.wf (drainBegin s core o).mem := by
  unfold drainBegin
  repeat' first
   | with_reducible assumption
   | with_reducible apply keeps_engBegin
   | with_reducible apply keeps_accFill
   | with_reducible apply keeps_setPois
   | with_reducible apply keeps_drainDone
   | with_reducible apply keeps_drainStart
   | with_reducible refine keeps_foldl (fun _ _ _ => ?_) ?_
   | split

theorem keeps_drainGot {s : State} {core : Nat} {o : TOp} {e : EngAcc} (kp : Memory.wf s.mem) : Memory.wf (drainGot s core o e).mem := by
  unfold drainGot
  repeat' first
   | with_reducible assumption
   | with_reducible apply keeps_accFill
   | with_reducible apply keeps_setPois
   | with_reducible apply keeps_drainDone
   | with_reducible apply keeps_drainNext
   | split

theorem keeps_evDrainComplete {core id : Nat} {s : State} (kp : Memory.wf s.mem) : Memory.wf (evDrainComplete core id s).mem := by
  unfold evDrainComplete
  repeat' first
   | with_reducible assumption
   | with_reducible apply keeps_dropEng
   | with_reducible apply keeps_abortOp
   | with_reducible apply keeps_cancelOp
   | (with_reducible apply keeps_drainLocked; focus with_reducible assumption)
   | with_reducible apply keeps_drainNext
   | with_reducible apply keeps_drainBegin
   | with_reducible apply keeps_drainGot
   | dsimp only
   | split

theorem keeps_tmmSem {c : Ctx} {s : State} (kp : Memory.wf s.mem) : Memory.wf (tmmSem.act c s).1.mem := by
  unfold tmmSem
  repeat' first
   | with_reducible assumption
   | with_reducible apply keeps_acceptOne

theorem keeps_ttaskSem {c : Ctx} {s : State} (kp : Memory.wf s.mem) : Memory.wf (ttaskSem.act c s).1.mem := by
  unfold ttaskSem
  repeat' first
   | with_reducible assumption
   | with_reducible apply keeps_State_fresh
   | with_reducible apply keeps_addPend
   | with_reducible apply keeps_takeTiles
   | with_reducible apply keeps_chainOps
   | with_reducible apply keeps_acceptOps
   | dsimp only
   | split

theorem keeps_tdepSem {c : Ctx} {s : State} (kp : Memory.wf s.mem) : Memory.wf (tdepSem.act c s).1.mem := by
  unfold tdepSem
  repeat' first
   | with_reducible assumption
   | with_reducible apply keeps_State_modGroup
   | with_reducible apply keeps_State_modCore
   | with_reducible apply keeps_kickTsch
   | dsimp only
   | split

theorem keeps_azeroSem {c : Ctx} {s : State} (kp : Memory.wf s.mem) : Memory.wf (azeroSem.act c s).1.mem := by
  unfold azeroSem
  repeat' first
   | with_reducible assumption
   | with_reducible apply keeps_acceptOne

theorem keeps_adrainSem {c : Ctx} {s : State} (kp : Memory.wf s.mem) : Memory.wf (adrainSem.act c s).1.mem := by
  unfold adrainSem
  repeat' first
   | with_reducible assumption
   | with_reducible apply keeps_acceptOne

theorem keeps_aownSem {c : Ctx} {s : State} (kp : Memory.wf s.mem) : Memory.wf (aownSem.act c s).1.mem := by
  unfold aownSem
  repeat' first
   | with_reducible assumption
   | with_reducible apply keeps_State_modGroup
   | with_reducible apply keeps_modAcc
   | dsimp only
   | split

theorem keeps_accImageSem {kind : TKind} {c : Ctx} {s : State} (kp : Memory.wf s.mem) : Memory.wf ((accImageSem kind).act c s).1.mem := by
  unfold accImageSem
  repeat' first
   | with_reducible assumption
   | with_reducible apply keeps_acceptOne

theorem keeps_asaveSem {c : Ctx} {s : State} (kp : Memory.wf s.mem) : Memory.wf (asaveSem.act c s).1.mem := by
  unfold asaveSem
  repeat' first
   | with_reducible assumption
   | with_reducible apply keeps_accImageSem

theorem keeps_aloadSem {c : Ctx} {s : State} (kp : Memory.wf s.mem) : Memory.wf (aloadSem.act c s).1.mem := by
  unfold aloadSem
  repeat' first
   | with_reducible assumption
   | with_reducible apply keeps_accImageSem

/-! ### BatonQ.lean -/

theorem keeps_batonFire {s : State} {c q : Nat} (kp : Memory.wf s.mem) : Memory.wf (batonFire s c q).mem := by
  unfold batonFire
  repeat' first
   | with_reducible assumption
   | with_reducible apply keeps_State_wireOnce
   | with_reducible apply keeps_modBaton
   | split

theorem keeps_putRow {s : State} {b : Baton} {half j : Nat} {bytes : Tile → List Byte} (kp : Memory.wf s.mem) :
    Memory.wf (putRow s b half j bytes).mem := by
  unfold putRow
  repeat' first
   | with_reducible assumption
   | with_reducible apply keeps_engWrite

theorem keeps_openBatch {s : State} {c q : Nat} (kp : Memory.wf s.mem) : Memory.wf (openBatch s c q).mem := by
  unfold openBatch
  repeat' first
   | with_reducible assumption
   | with_reducible apply keeps_State_wire
   | with_reducible apply keeps_State_fresh
   | with_reducible apply keeps_modTile
   | with_reducible apply keeps_modBaton

theorem keeps_pushRow {s : State} {c q : Nat} {r : BatonRow} {row : List Byte} (kp : Memory.wf s.mem) :
    Memory.wf (pushRow s c q r row).1.mem := by
  unfold pushRow
  repeat' first
   | with_reducible assumption
   | with_reducible apply keeps_modBaton
   | with_reducible apply keeps_batonFire
   | with_reducible apply keeps_putRow
   | with_reducible apply keeps_openBatch
   | dsimp only
   | split

theorem keeps_batonOps {s : State} {c q : Nat} {b : Baton} {x : Batch} {e : Nat} (kp : Memory.wf s.mem) :
    Memory.wf (batonOps s c q b x e).1.mem := by
  unfold batonOps
  repeat' first
   | with_reducible assumption
   | with_reducible apply keeps_chainOps

theorem keeps_batonLaunch {s : State} {c q : Nat} {b : Baton} {x : Batch} (kp : Memory.wf s.mem) :
    Memory.wf (batonLaunch s c q b x).mem := by
  unfold batonLaunch
  repeat' first
   | with_reducible assumption
   | with_reducible apply keeps_engFault
   | with_reducible apply keeps_modTile
   | with_reducible apply keeps_takeTiles
   | with_reducible apply keeps_acceptOps
   | with_reducible apply keeps_modBaton
   | with_reducible apply keeps_putRow
   | with_reducible apply keeps_batonOps
   | with_reducible refine keeps_foldl (fun _ _ _ => ?_) ?_
   | dsimp only
   | split

theorem keeps_batonBind {s : State} {c q g op : Nat} {pc : DWord} {seq : BitVec 32} {cfg : BitVec 256}
    {tmpl : List (BitVec 512)} (kp : Memory.wf s.mem) :
    Memory.wf (batonBind s c q g op pc seq cfg tmpl).mem := by
  unfold batonBind
  repeat' first
   | with_reducible assumption
   | with_reducible apply keeps_modBaton

theorem keeps_batonUnbound {s : State} {c q : Nat} (kp : Memory.wf s.mem) : Memory.wf (batonUnbound s c q).mem := by
  unfold batonUnbound
  repeat' first
   | with_reducible assumption
   | with_reducible apply keeps_resolvePend
   | with_reducible apply keeps_modBaton
   | with_reducible apply keeps_batonBind
   | with_reducible refine keeps_foldl (fun _ _ _ => ?_) ?_
   | split

theorem keeps_evBatonResume {c q : Nat} {s : State} (kp : Memory.wf s.mem) : Memory.wf (evBatonResume c q s).mem := by
  unfold evBatonResume
  repeat' first
   | with_reducible assumption
   | with_reducible apply keeps_State_wireOnce
   | with_reducible apply keeps_batonLaunch
   | with_reducible apply keeps_batonUnbound
   | dsimp only
   | split

theorem keeps_evBatonTimeout {c q : Nat} {s : State} (kp : Memory.wf s.mem) : Memory.wf (evBatonTimeout c q s).mem := by
  unfold evBatonTimeout
  repeat' first
   | with_reducible assumption
   | with_reducible apply keeps_State_wireOnce
   | with_reducible apply keeps_batonFire
   | dsimp only
   | split

theorem keeps_evLeafAccept {c q : Nat} {s : State} (kp : Memory.wf s.mem) : Memory.wf (evLeafAccept c q s).mem := by
  unfold evLeafAccept
  repeat' first
   | with_reducible assumption
   | split

theorem keeps_batonClose {s : State} {c q : Nat} (kp : Memory.wf s.mem) : Memory.wf (batonClose s c q).mem := by
  unfold batonClose
  repeat' first
   | with_reducible assumption
   | with_reducible apply keeps_State_wireOnce
   | with_reducible apply keeps_modBaton
   | with_reducible apply keeps_batonFire

theorem keeps_leafcfgSem {c : Ctx} {s : State} (kp : Memory.wf s.mem) : Memory.wf (leafcfgSem.act c s).1.mem := by
  unfold leafcfgSem
  repeat' first
   | with_reducible assumption
   | with_reducible apply keeps_State_fresh
   | with_reducible apply keeps_addPend
   | with_reducible apply keeps_pendReady
   | with_reducible apply keeps_modBaton
   | with_reducible apply keeps_batonBind
   | with_reducible apply keeps_batonClose
   | dsimp only
   | split

theorem keeps_leafSem {c : Ctx} {s : State} (kp : Memory.wf s.mem) : Memory.wf (leafSem.act c s).1.mem := by
  unfold leafSem
  repeat' first
   | with_reducible assumption
   | with_reducible apply keeps_State_modGroup
   | with_reducible apply keeps_releaseFut
   | with_reducible apply keeps_pendReady
   | with_reducible apply keeps_raceRecord
   | with_reducible apply keeps_batonFire
   | with_reducible apply keeps_pushRow
   | with_reducible refine keeps_foldl (fun _ _ _ => ?_) ?_
   | dsimp only
   | split

theorem keeps_leafFlushSem {c : Ctx} {s : State} (kp : Memory.wf s.mem) : Memory.wf (leafFlushSem.act c s).1.mem := by
  unfold leafFlushSem
  repeat' first
   | with_reducible assumption
   | with_reducible apply keeps_batonFire

/-! ### Side.lean -/

theorem keeps_readFutures {c : Ctx} {s : State} (kp : Memory.wf s.mem) : Memory.wf (readFutures c s).mem := by
  unfold readFutures
  repeat' first
   | with_reducible assumption
   | with_reducible apply keeps_State_setGroup
   | with_reducible apply keeps_releaseFut
   | with_reducible refine keeps_foldl (fun _ _ _ => ?_) ?_
   | dsimp only
   | split

theorem keeps_fwaitSem {c : Ctx} {s : State} (kp : Memory.wf s.mem) : Memory.wf (fwaitSem.act c s).1.mem := by
  unfold fwaitSem
  repeat' first
   | with_reducible assumption
   | with_reducible apply keeps_State_modGroup
   | with_reducible apply keeps_readFutures
   | dsimp only
   | split

theorem keeps_fpollSem {c : Ctx} {s : State} (kp : Memory.wf s.mem) : Memory.wf (fpollSem.act c s).1.mem := by
  unfold fpollSem
  repeat' first
   | with_reducible assumption
   | with_reducible apply keeps_readFutures

theorem keeps_fdropSem {c : Ctx} {s : State} (kp : Memory.wf s.mem) : Memory.wf (fdropSem.act c s).1.mem := by
  unfold fdropSem
  repeat' first
   | with_reducible assumption
   | with_reducible apply keeps_releaseFut
   | with_reducible refine keeps_foldl (fun _ _ _ => ?_) ?_

theorem keeps_setQuery {s : State} {c : Nat} {q : Query} (kp : Memory.wf s.mem) : Memory.wf (setQuery s c q).mem := by
  unfold setQuery
  repeat' first
   | with_reducible assumption
   | with_reducible apply keeps_State_modCluster

theorem keeps_queryGone {s : State} {c : Nat} {q : Query} (kp : Memory.wf s.mem) : Memory.wf (queryGone s c q).mem := by
  unfold queryGone
  repeat' first
   | with_reducible assumption
   | with_reducible apply keeps_State_modCluster
   | with_reducible apply keeps_evCount
   | with_reducible apply keeps_State_modPend
   | with_reducible apply keeps_finishPend
   | dsimp only
   | split

theorem keeps_queryFail {s : State} {c : Nat} {q : Query} {e : EngErr} (kp : Memory.wf s.mem) : Memory.wf (queryFail s c q e).mem := by
  unfold queryFail
  repeat' first
   | with_reducible assumption
   | with_reducible apply keeps_resolveFut
   | with_reducible apply keeps_queryGone

theorem keeps_queryGo {s : State} {c : Nat} {q : Query} (kp : Memory.wf s.mem) : Memory.wf (queryGo s c q).mem := by
  unfold queryGo
  repeat' first
   | with_reducible assumption
   | with_reducible apply keeps_engBegin
   | with_reducible apply keeps_resolveFut
   | with_reducible apply keeps_queryGone
   | with_reducible apply keeps_queryFail
   | split

theorem keeps_queryTake {s : State} {c : Nat} {q : Query} {e : EngAcc} (kp : Memory.wf s.mem) : Memory.wf (queryTake s c q e).mem := by
  unfold queryTake
  repeat' first
   | with_reducible assumption
   | with_reducible apply keeps_setQuery
   | with_reducible apply keeps_queryFail
   | with_reducible apply keeps_queryGo
   | dsimp only
   | split

theorem keeps_evCqeNodeRead {c id : Nat} {s : State} (kp : Memory.wf s.mem) : Memory.wf (evCqeNodeRead c id s).mem := by
  unfold evCqeNodeRead
  repeat' first
   | with_reducible assumption
   | with_reducible apply keeps_State_wireOnce
   | with_reducible apply keeps_dropEng
   | with_reducible apply keeps_resolveFut
   | with_reducible apply keeps_setQuery
   | with_reducible apply keeps_queryGone
   | with_reducible apply keeps_queryFail
   | with_reducible apply keeps_queryGo
   | with_reducible apply keeps_queryTake
   | split

theorem keeps_evCqePark {c id : Nat} {s : State} (kp : Memory.wf s.mem) : Memory.wf (evCqePark c id s).mem := by
  unfold evCqePark
  repeat' first
   | with_reducible assumption
   | with_reducible apply keeps_dropEng
   | with_reducible apply keeps_engFault
   | with_reducible apply keeps_setQuery
   | with_reducible apply keeps_queryGone
   | dsimp only
   | split

theorem keeps_querySem {kind : Nat} {c : Ctx} {s : State} (kp : Memory.wf s.mem) : Memory.wf ((querySem kind).act c s).1.mem := by
  unfold querySem
  repeat' first
   | with_reducible assumption
   | with_reducible apply keeps_State_modGroup
   | with_reducible apply keeps_State_modCluster
   | with_reducible apply keeps_State_wire
   | with_reducible apply keeps_State_fresh
   | with_reducible apply keeps_releaseFut
   | with_reducible apply keeps_addPend
   | with_reducible refine keeps_foldl (fun _ _ _ => ?_) ?_

theorem keeps_cqraySem {c : Ctx} {s : State} (kp : Memory.wf s.mem) : Memory.wf (cqraySem.act c s).1.mem := by
  unfold cqraySem
  repeat' first
   | with_reducible assumption
   | with_reducible apply keeps_querySem

theorem keeps_cqsphSem {c : Ctx} {s : State} (kp : Memory.wf s.mem) : Memory.wf (cqsphSem.act c s).1.mem := by
  unfold cqsphSem
  repeat' first
   | with_reducible assumption
   | with_reducible apply keeps_querySem

theorem keeps_cqboxSem {c : Ctx} {s : State} (kp : Memory.wf s.mem) : Memory.wf (cqboxSem.act c s).1.mem := by
  unfold cqboxSem
  repeat' first
   | with_reducible assumption
   | with_reducible apply keeps_querySem

theorem keeps_modHacc {s : State} {k : Nat} {f : Hacc → Hacc} (kp : Memory.wf s.mem) : Memory.wf (modHacc s k f).mem := by
  unfold modHacc
  repeat' first
   | with_reducible assumption
   | with_reducible apply keeps_State_modCluster

theorem keeps_haccAccept {c : Ctx} {s : State} {f : Pend → Pend} (kp : Memory.wf s.mem) : Memory.wf (haccAccept c s f).1.mem := by
  unfold haccAccept
  repeat' first
   | with_reducible assumption
   | with_reducible apply keeps_State_wire
   | with_reducible apply keeps_State_fresh
   | with_reducible apply keeps_addPend
   | with_reducible apply keeps_modHacc

theorem keeps_haccPop {s : State} {k : Nat} (kp : Memory.wf s.mem) : Memory.wf (haccPop s k).mem := by
  unfold haccPop
  repeat' first
   | with_reducible assumption
   | with_reducible apply keeps_State_wireOnce
   | with_reducible apply keeps_modHacc
   | dsimp only
   | split

theorem keeps_hcfgSem {c : Ctx} {s : State} (kp : Memory.wf s.mem) : Memory.wf (hcfgSem.act c s).1.mem := by
  unfold hcfgSem
  repeat' first
   | with_reducible assumption
   | with_reducible apply keeps_haccAccept

theorem keeps_hcfgDone {s : State} {k g : Nat} {p : Pend} (kp : Memory.wf s.mem) : Memory.wf (hcfgDone s k g p).mem := by
  unfold hcfgDone
  repeat' first
   | with_reducible assumption
   | with_reducible apply keeps_finishPend
   | with_reducible apply keeps_modHacc
   | with_reducible apply keeps_haccPop

theorem keeps_pendFault {s : State} {g : Nat} {p : Pend} {e : EngErr} (kp : Memory.wf s.mem) : Memory.wf (pendFault s g p e).mem := by
  unfold pendFault
  repeat' first
   | with_reducible assumption
   | with_reducible apply keeps_engFault

theorem keeps_pendWrite {s : State} {g : Nat} {p : Pend} {c agent asid : Nat} {segs : List EngSeg} (kp : Memory.wf s.mem) :
    Memory.wf (pendWrite s g p c agent asid segs).mem := by
  unfold pendWrite
  repeat' first
   | with_reducible assumption
   | with_reducible apply keeps_engBegin

theorem keeps_haddSpill {s : State} {k g : Nat} {p : Pend} (kp : Memory.wf s.mem) : Memory.wf (haddSpill s k g p).mem := by
  unfold haddSpill
  repeat' first
   | with_reducible assumption
   | with_reducible apply keeps_finishPend
   | with_reducible apply keeps_haccPop
   | with_reducible apply keeps_pendWrite
   | split

theorem keeps_haddStep {s : State} {k g : Nat} {p : Pend} (kp : Memory.wf s.mem) : Memory.wf (haddStep s k g p).mem := by
  unfold haddStep
  repeat' first
   | with_reducible assumption
   | with_reducible apply keeps_State_modPend
   | with_reducible apply keeps_dropEng
   | with_reducible apply keeps_modHacc
   | with_reducible apply keeps_pendFault
   | with_reducible apply keeps_haddSpill
   | split

theorem keeps_haddSem {c : Ctx} {s : State} (kp : Memory.wf s.mem) : Memory.wf (haddSem.act c s).1.mem := by
  unfold haddSem
  repeat' first
   | with_reducible assumption
   | with_reducible apply keeps_haccAccept

theorem keeps_hdrainStep {s : State} {k g : Nat} {p : Pend} (kp : Memory.wf s.mem) : Memory.wf (hdrainStep s k g p).mem := by
  unfold hdrainStep
  repeat' first
   | with_reducible assumption
   | with_reducible apply keeps_State_modGroup
   | with_reducible apply keeps_finishPend
   | with_reducible apply keeps_dropEng
   | with_reducible apply keeps_modHacc
   | with_reducible apply keeps_haccPop
   | with_reducible apply keeps_pendFault
   | with_reducible apply keeps_pendWrite
   | split

theorem keeps_hdrainSem {c : Ctx} {s : State} (kp : Memory.wf s.mem) : Memory.wf (hdrainSem.act c s).1.mem := by
  unfold hdrainSem
  repeat' first
   | with_reducible assumption
   | with_reducible apply keeps_haccAccept

theorem keeps_haccStep {s : State} {g id : Nat} (kp : Memory.wf s.mem) : Memory.wf (haccStep s g id).mem := by
  unfold haccStep
  repeat' first
   | with_reducible assumption
   | with_reducible apply keeps_hcfgDone
   | with_reducible apply keeps_haddStep
   | with_reducible apply keeps_hdrainStep
   | dsimp only
   | split

theorem keeps_modSpk {s : State} {q : Nat} {f : Spike → Spike} (kp : Memory.wf s.mem) : Memory.wf (modSpk s q f).mem := kp

theorem keeps_spkPop {c : Ctx} {q : Nat} {s : State} {l : Nat} (kp : Memory.wf s.mem) : Memory.wf (spkPop c q s l).mem := by
  unfold spkPop
  repeat' first
   | with_reducible assumption
   | with_reducible apply keeps_State_modGroup
   | with_reducible apply keeps_modSpk
   | dsimp only
   | split

theorem keeps_spkpopSem {c : Ctx} {s : State} (kp : Memory.wf s.mem) : Memory.wf (spkpopSem.act c s).1.mem := by
  unfold spkpopSem
  repeat' first
   | with_reducible assumption
   | with_reducible apply keeps_spkPop
   | with_reducible refine keeps_foldl (fun _ _ _ => ?_) ?_

theorem keeps_spkstatSem {c : Ctx} {s : State} (kp : Memory.wf s.mem) : Memory.wf (spkstatSem.act c s).1.mem := by
  unfold spkstatSem
  repeat' first
   | with_reducible assumption
   | with_reducible apply keeps_pendReady
   | with_reducible apply keeps_modSpk
   | split

theorem keeps_modPool {s : State} {p : Nat} {f : Pool → Pool} (kp : Memory.wf s.mem) : Memory.wf (modPool s p f).mem := kp

theorem keeps_allocLane {c : Ctx} {a : State × List (Nat × Nat)} {l : Nat} (kp : Memory.wf a.1.mem) :
    Memory.wf (allocLane c a l).1.mem := by
  obtain ⟨as, ae⟩ := a
  unfold allocLane
  repeat' first
   | with_reducible assumption
   | with_reducible apply keeps_modPool
   | dsimp only
   | split

theorem keeps_allocSem {c : Ctx} {s : State} (kp : Memory.wf s.mem) : Memory.wf (allocSem.act c s).1.mem := by
  unfold allocSem
  repeat' first
   | with_reducible assumption
   | with_reducible apply keeps_State_wire
   | with_reducible apply keeps_State_fresh
   | with_reducible apply keeps_addPend
   | with_reducible apply keeps_pendReady
   | with_reducible apply keeps_allocLane
   | with_reducible refine keeps_foldl_fst (fun _ _ _ => ?_) ?_
   | dsimp only
   | split

theorem keeps_allocStep {s : State} {g : Nat} {p : Pend} (kp : Memory.wf s.mem) : Memory.wf (allocStep s g p).mem := by
  unfold allocStep
  repeat' first
   | with_reducible assumption
   | with_reducible apply keeps_State_modGroup
   | with_reducible apply keeps_State_modPend
   | with_reducible apply keeps_finishPend
   | with_reducible apply keeps_dropEng
   | with_reducible apply keeps_pendFault
   | with_reducible apply keeps_pendWrite
   | dsimp only
   | split

theorem keeps_freeOne {g : Nat} {p : Pend} {s : State} {x : Nat × Nat} (kp : Memory.wf s.mem) : Memory.wf (freeOne g p s x).mem := by
  unfold freeOne
  repeat' first
   | with_reducible assumption
   | with_reducible apply keeps_pendFault
   | with_reducible apply keeps_modPool
   | dsimp only
   | split

theorem keeps_freeStep {s : State} {g : Nat} {p : Pend} (kp : Memory.wf s.mem) : Memory.wf (freeStep s g p).mem := by
  unfold freeStep
  repeat' first
   | with_reducible assumption
   | with_reducible apply keeps_State_wire
   | with_reducible apply keeps_finishPend
   | with_reducible apply keeps_drainMark
   | with_reducible apply keeps_freeOne
   | with_reducible refine keeps_foldl (fun _ _ _ => ?_) ?_
   | split

theorem keeps_freeSem {c : Ctx} {s : State} (kp : Memory.wf s.mem) : Memory.wf (freeSem.act c s).1.mem := by
  unfold freeSem
  repeat' first
   | with_reducible assumption
   | with_reducible apply keeps_State_wire
   | with_reducible apply keeps_State_fresh
   | with_reducible apply keeps_addPend

theorem keeps_poolcfgSem {c : Ctx} {s : State} (kp : Memory.wf s.mem) : Memory.wf (poolcfgSem.act c s).1.mem := by
  unfold poolcfgSem
  repeat' first
   | with_reducible assumption
   | with_reducible apply keeps_pendReady
   | with_reducible apply keeps_dropEng
   | with_reducible apply keeps_engBegin
   | with_reducible apply keeps_modPool
   | dsimp only
   | split

end Sys2Proof.Machine
end

