-- ==== Sys2Proof/Laws/KeepsControl.lean ====
section
/-!
SUPPORT. Global memory keeps its canonical form (addresses rise strictly, no listed byte is the one an unlisted address reads as) under
control, cross-lane and system instructions: one lemma each.
-/

namespace Sys2Proof.Machine

open Sys2Proof

/-! ### Place.lean -/

theorem keeps_setBind {s : State} {g core phys : Nat} {b : List Nat × Nat × Nat} (kp : Memory.wf s.mem) :
    Memory.wf (setBind s g core phys b).mem := by
  unfold setBind
  repeat' first
   | with_reducible assumption
   | with_reducible apply keeps_State_modGroup
   | with_reducible apply keeps_State_modCore

theorem keeps_preemptFor {s : State} {core w regs lp prio : Nat} (kp : Memory.wf s.mem) :
    Memory.wf (preemptFor s core w regs lp prio).mem := by
  unfold preemptFor
  repeat' first
   | with_reducible assumption
   | with_reducible apply keeps_State_modGroup
   | with_reducible apply keeps_State_modCore
   | with_reducible apply keeps_State_wireOnce
   | with_reducible refine keeps_foldl (fun _ _ _ => ?_) ?_
   | dsimp only
   | split

theorem keeps_bindWaiters {s : State} {core : Nat} (kp : Memory.wf s.mem) : Memory.wf (bindWaiters s core).mem := by
  unfold bindWaiters
  repeat' first
   | with_reducible assumption
   | with_reducible apply keeps_setBind
   | with_reducible apply keeps_preemptFor
   | with_reducible refine keeps_foldl (fun _ _ _ => ?_) ?_
   | dsimp only
   | split

theorem keeps_roomFreed {s : State} {core : Nat} (kp : Memory.wf s.mem) : Memory.wf (roomFreed s core).mem := by
  unfold roomFreed
  repeat' first
   | with_reducible assumption
   | with_reducible apply keeps_State_wireOnce
   | with_reducible apply keeps_replace
   | with_reducible apply keeps_childKick
   | with_reducible apply keeps_bindWaiters
   | with_reducible refine keeps_foldl (fun _ _ _ => ?_) ?_

theorem keeps_startGroup {s : State} {x : Start} (kp : Memory.wf s.mem) : Memory.wf (startGroup s x).1.mem := by
  unfold startGroup
  repeat' first
   | with_reducible assumption
   | with_reducible apply keeps_State_setGroup
   | with_reducible apply keeps_State_fresh
   | with_reducible apply keeps_leuth

theorem keeps_placeChild {s : State} {launch block stage base subtree w lanes : Nat} {pc arg : DWord} {t' : State × Nat}
    (e : placeChild s launch block stage base subtree w lanes pc arg = some t') (kp : Memory.wf s.mem) : Memory.wf t'.1.mem := by
  unfold placeChild at e
  dsimp only at e
  split at e
  · cases e
  · split at e
    · cases e
      exact keeps_setBind (keeps_startGroup kp)
    · split at e
      · cases e
      · split at e
        · cases e
        · cases e
          exact keeps_setBind (keeps_startGroup kp)

theorem keeps_placeChild_pair {s : State} {launch block stage base subtree w lanes : Nat} {pc arg : DWord} {t : State} {k : Nat}
    (e : placeChild s launch block stage base subtree w lanes pc arg = some (t, k)) (kp : Memory.wf s.mem) : Memory.wf t.mem :=
  keeps_placeChild e kp

theorem keeps_evSpawnPlace {core : Nat} {s : State} (kp : Memory.wf s.mem) : Memory.wf (evSpawnPlace core s).mem := by
  unfold evSpawnPlace
  repeat' first
   | with_reducible assumption
   | with_reducible apply keeps_State_modCore
   | with_reducible apply keeps_State_wireOnce
   | with_reducible apply keeps_finishPend
   | with_reducible apply keeps_preemptFor
   | (with_reducible apply keeps_placeChild_pair; focus with_reducible assumption)
   | split

theorem keeps_evRelayGroupPlace {core id : Nat} {s : State} (kp : Memory.wf s.mem) : Memory.wf (evRelayGroupPlace core id s).mem := by
  unfold evRelayGroupPlace
  repeat' first
   | with_reducible assumption
   | with_reducible apply keeps_State_modGroup
   | with_reducible apply keeps_State_modCore
   | with_reducible apply keeps_preemptFor
   | (with_reducible apply keeps_placeChild_pair; focus with_reducible assumption)
   | with_reducible refine keeps_foldl (fun _ _ _ => ?_) ?_
   | dsimp only
   | split

/-! ### Control.lean -/

theorem keeps_modRun {s : State} {g : Nat} {f : Run → Run} (kp : Memory.wf s.mem) : Memory.wf (modRun s g f).mem := by
  unfold modRun
  repeat' first
   | with_reducible assumption
   | with_reducible apply keeps_State_modGroup

theorem keeps_setNext {s : State} {c : Ctx} {t : Nat → DWord} (kp : Memory.wf s.mem) : Memory.wf (setNext s c t).mem := by
  unfold setNext
  repeat' first
   | with_reducible assumption
   | with_reducible apply keeps_modRun

theorem keeps_brSem {c : Ctx} {s : State} (kp : Memory.wf s.mem) : Memory.wf (brSem.act c s).1.mem := by
  unfold brSem
  repeat' first
   | with_reducible assumption
   | with_reducible apply keeps_setNext

theorem keeps_callSem {c : Ctx} {s : State} (kp : Memory.wf s.mem) : Memory.wf (callSem.act c s).1.mem := by
  unfold callSem
  repeat' first
   | with_reducible assumption
   | with_reducible apply keeps_State_modGroup
   | with_reducible apply keeps_setNext

theorem keeps_retSem {c : Ctx} {s : State} (kp : Memory.wf s.mem) : Memory.wf (retSem.act c s).1.mem := by
  unfold retSem
  repeat' first
   | with_reducible assumption
   | with_reducible apply keeps_setNext

theorem keeps_brxSem {c : Ctx} {s : State} (kp : Memory.wf s.mem) : Memory.wf (brxSem.act c s).1.mem := by
  unfold brxSem
  repeat' first
   | with_reducible assumption
   | with_reducible apply keeps_setNext

theorem keeps_exitSem {c : Ctx} {s : State} (kp : Memory.wf s.mem) : Memory.wf (exitSem.act c s).1.mem := by
  unfold exitSem
  repeat' first
   | with_reducible assumption
   | with_reducible apply keeps_modRun

theorem keeps_nopSem {c : Ctx} {s : State} (kp : Memory.wf s.mem) : Memory.wf (nopSem.act c s).1.mem := kp

theorem keeps_yieldSem {c : Ctx} {s : State} (kp : Memory.wf s.mem) : Memory.wf (yieldSem.act c s).1.mem := by
  unfold yieldSem
  repeat' first
   | with_reducible assumption
   | with_reducible apply keeps_modRun

theorem keeps_benrolSem {c : Ctx} {s : State} (kp : Memory.wf s.mem) : Memory.wf (benrolSem.act c s).1.mem := by
  unfold benrolSem
  repeat' first
   | with_reducible assumption
   | with_reducible apply keeps_State_modGroup

theorem keeps_bjoinSem {c : Ctx} {s : State} (kp : Memory.wf s.mem) : Memory.wf (bjoinSem.act c s).1.mem := by
  unfold bjoinSem
  repeat' first
   | with_reducible assumption
   | with_reducible apply keeps_State_modGroup
   | with_reducible apply keeps_modRun
   | dsimp only
   | split

theorem keeps_guardClean {s : State} {c : Nat} {gs : Sp GuardRange} (kp : Memory.wf s.mem) : Memory.wf (guardClean s c gs).mem := by
  unfold guardClean
  repeat' first
   | with_reducible assumption
   | with_reducible apply keeps_maintain
   | with_reducible refine keeps_foldl (fun _ _ _ => ?_) ?_

theorem keeps_guardDrop {s : State} {c : Nat} {gs : Sp GuardRange} (kp : Memory.wf s.mem) : Memory.wf (guardDrop s c gs).mem := by
  unfold guardDrop
  repeat' first
   | with_reducible assumption
   | with_reducible apply keeps_maintain
   | with_reducible refine keeps_foldl (fun _ _ _ => ?_) ?_

theorem keeps_arrive {s : State} {c : Ctx} {b : BarRef} (kp : Memory.wf s.mem) : Memory.wf (arrive s c b).1.mem := by
  unfold arrive
  repeat' first
   | with_reducible assumption
   | with_reducible apply keeps_State_wire
   | with_reducible apply keeps_setBar

theorem keeps_waitPhase {s : State} {c : Ctx} {b : BarRef} {q : BitVec 32} (kp : Memory.wf s.mem) : Memory.wf (waitPhase s c b q).mem := by
  unfold waitPhase
  repeat' first
   | with_reducible assumption
   | with_reducible apply keeps_modRun

theorem keeps_barSem {c : Ctx} {s : State} (kp : Memory.wf s.mem) : Memory.wf (barSem.act c s).1.mem := by
  unfold barSem
  repeat' first
   | with_reducible assumption
   | with_reducible apply keeps_State_modGroup
   | with_reducible apply keeps_guardDrop
   | with_reducible apply keeps_arrive
   | with_reducible apply keeps_waitPhase
   | dsimp only
   | split

theorem keeps_evBarrierArrival {g : Nat} {b : BarRef} {s : State} (kp : Memory.wf s.mem) : Memory.wf (evBarrierArrival g b s).mem := by
  unfold evBarrierArrival
  repeat' first
   | with_reducible assumption
   | with_reducible apply keeps_State_modGroup
   | with_reducible apply keeps_State_wire
   | with_reducible apply keeps_setBar
   | with_reducible apply keeps_advanceBar
   | with_reducible apply keeps_guardClean
   | dsimp only
   | split

theorem keeps_evPhasePass {g : Nat} {b : BarRef} {s : State} (kp : Memory.wf s.mem) : Memory.wf (evPhasePass g b s).mem := by
  unfold evPhasePass
  repeat' first
   | with_reducible assumption
   | with_reducible apply keeps_State_setGroup
   | with_reducible apply keeps_settle
   | with_reducible apply keeps_guardDrop
   | with_reducible refine keeps_foldl (fun _ _ _ => ?_) ?_
   | dsimp only
   | split

theorem keeps_guardSem {c : Ctx} {s : State} (kp : Memory.wf s.mem) : Memory.wf (guardSem.act c s).1.mem := by
  unfold guardSem
  repeat' first
   | with_reducible assumption
   | with_reducible apply keeps_State_modBlock
   | with_reducible apply keeps_setBar
   | dsimp only
   | split

theorem keeps_modSem {s : State} {b k : Nat} {f : Sem → Sem} (kp : Memory.wf s.mem) : Memory.wf (modSem s b k f).mem := by
  unfold modSem
  repeat' first
   | with_reducible assumption
   | with_reducible apply keeps_State_modBlock

theorem keeps_sempSem {c : Ctx} {s : State} (kp : Memory.wf s.mem) : Memory.wf (sempSem.act c s).1.mem := by
  unfold sempSem
  repeat' first
   | with_reducible assumption
   | with_reducible apply keeps_State_modGroup
   | with_reducible apply keeps_modRun
   | with_reducible apply keeps_guardDrop
   | with_reducible apply keeps_modSem
   | dsimp only
   | split

theorem keeps_grantSems {s : State} {b k : Nat} {fuel : Nat} (kp : Memory.wf s.mem) : Memory.wf (grantSems s b k fuel).mem := by
  induction fuel generalizing s b k with
  | zero => exact kp
  | succ n ih =>
    unfold grantSems
    repeat' first
     | with_reducible assumption
     | with_reducible apply ih
     | with_reducible apply keeps_State_modGroup
     | with_reducible apply keeps_leuth
     | with_reducible apply keeps_settle
     | with_reducible apply keeps_guardDrop
     | with_reducible apply keeps_modSem
     | dsimp only
     | split

theorem keeps_evSemvAdd {b k : Nat} {s : State} (kp : Memory.wf s.mem) : Memory.wf (evSemvAdd b k s).mem := by
  unfold evSemvAdd
  repeat' first
   | with_reducible assumption
   | with_reducible apply keeps_State_modGroup
   | with_reducible apply keeps_State_wire
   | with_reducible apply keeps_guardClean
   | with_reducible apply keeps_modSem
   | with_reducible apply keeps_grantSems
   | dsimp only
   | split

theorem keeps_semvSem {c : Ctx} {s : State} (kp : Memory.wf s.mem) : Memory.wf (semvSem.act c s).1.mem := by
  unfold semvSem
  repeat' first
   | with_reducible assumption
   | with_reducible apply keeps_State_wire
   | with_reducible apply keeps_modSem
   | with_reducible apply keeps_evSemvAdd
   | with_reducible refine keeps_foldl (fun _ _ _ => ?_) ?_
   | dsimp only
   | split

theorem keeps_modSq {s : State} {l k : Nat} {f : StageQ → StageQ} (kp : Memory.wf s.mem) : Memory.wf (modSq s l k f).mem := by
  unfold modSq
  repeat' first
   | with_reducible assumption
   | with_reducible apply keeps_State_modLaunch

theorem keeps_qpushSem {c : Ctx} {s : State} (kp : Memory.wf s.mem) : Memory.wf (qpushSem.act c s).1.mem := by
  unfold qpushSem
  repeat' first
   | with_reducible assumption
   | with_reducible apply keeps_State_wire
   | with_reducible apply keeps_State_fresh
   | with_reducible apply keeps_addPend
   | with_reducible apply keeps_modSq

theorem keeps_qpopSem {c : Ctx} {s : State} (kp : Memory.wf s.mem) : Memory.wf (qpopSem.act c s).1.mem := by
  unfold qpopSem
  repeat' first
   | with_reducible assumption
   | with_reducible apply keeps_State_wire
   | with_reducible apply keeps_State_fresh
   | with_reducible apply keeps_addPend
   | with_reducible apply keeps_modSq

theorem keeps_finishPop {s : State} {g : Nat} {p : Pend} (kp : Memory.wf s.mem) : Memory.wf (finishPop s g p).mem := by
  unfold finishPop
  repeat' first
   | with_reducible assumption
   | with_reducible apply keeps_State_modGroup
   | with_reducible apply keeps_finishPend

theorem keeps_sqMove {s : State} {l k : Nat} (kp : Memory.wf s.mem) : Memory.wf (sqMove s l k).1.mem := by
  rw [sqMove]
  dsimp only
  split
  · rename_i t ht
    split at ht
    · split at ht
      · cases ht
        dsimp only
        split
        · exact keeps_finishPend (keeps_modSq kp)
        · exact keeps_modSq kp
      · cases ht
    · cases ht
      exact keeps_finishPend (keeps_modSq kp)
    · cases ht
  · split
    · exact kp
    · split
      · exact keeps_modSq kp
      · split
        · exact keeps_finishPop (keeps_modSq kp)
        · exact keeps_State_modPend (keeps_modSq kp)
        · split
          · exact keeps_finishPop (keeps_modSq kp)
          · exact kp

theorem keeps_sqRun {s : State} {l k : Nat} {fuel : Nat} (kp : Memory.wf s.mem) : Memory.wf (sqRun s l k fuel).mem := by
  induction fuel generalizing s l k with
  | zero => exact kp
  | succ n ih =>
    unfold sqRun
    repeat' first
     | with_reducible assumption
     | with_reducible apply ih
     | with_reducible apply keeps_sqMove
     | (with_reducible apply keeps_fst; focus with_reducible assumption)
     | split

theorem keeps_evStageQueuePush {l k : Nat} {s : State} (kp : Memory.wf s.mem) : Memory.wf (evStageQueuePush l k s).mem := by
  unfold evStageQueuePush
  repeat' first
   | with_reducible assumption
   | with_reducible apply keeps_sqRun

theorem keeps_spawnSem {c : Ctx} {s : State} (kp : Memory.wf s.mem) : Memory.wf (spawnSem.act c s).1.mem := by
  unfold spawnSem
  repeat' first
   | with_reducible assumption
   | with_reducible apply keeps_State_modCore
   | with_reducible apply keeps_State_wireOnce
   | with_reducible apply keeps_State_fresh
   | with_reducible apply keeps_addPend

theorem keeps_subtreeSem {c : Ctx} {s : State} (kp : Memory.wf s.mem) : Memory.wf (subtreeSem.act c s).1.mem := by
  unfold subtreeSem
  repeat' first
   | with_reducible assumption
   | with_reducible apply keeps_State_modGroup
   | with_reducible apply keeps_State_setLaunch
   | dsimp only
   | split

theorem keeps_dropPushes {s : State} {g : Nat} (kp : Memory.wf s.mem) : Memory.wf (dropPushes s g).mem := by
  unfold dropPushes
  repeat' first
   | with_reducible assumption
   | with_reducible apply keeps_State_modLaunch
   | with_reducible apply keeps_cancelPend
   | with_reducible refine keeps_foldl (fun _ _ _ => ?_) ?_

theorem keeps_retireGroup {s : State} {g : Nat} (kp : Memory.wf s.mem) : Memory.wf (retireGroup s g).mem := by
  unfold retireGroup
  repeat' first
   | with_reducible assumption
   | with_reducible apply keeps_State_modGroup
   | with_reducible apply keeps_endGroup
   | with_reducible apply keeps_dropPushes
   | dsimp only
   | split

theorem keeps_cancelBaton {s : State} {c q : Nat} (kp : Memory.wf s.mem) : Memory.wf (cancelBaton s c q).mem := by
  unfold cancelBaton
  repeat' first
   | with_reducible assumption
   | with_reducible apply keeps_kickTsch
   | with_reducible apply keeps_slotEmpty
   | with_reducible apply keeps_modBaton
   | with_reducible apply keeps_batchFail
   | with_reducible apply keeps_cancelOp
   | with_reducible apply keeps_batonUnbound
   | with_reducible refine keeps_foldl (fun _ _ _ => ?_) ?_
   | dsimp only
   | split

theorem keeps_cancelCopy {s : State} {core : Nat} {b : BceCmd} (kp : Memory.wf s.mem) : Memory.wf (cancelCopy s core b).mem := by
  unfold cancelCopy
  repeat' first
   | with_reducible assumption
   | with_reducible apply keeps_State_wireOnce
   | with_reducible apply keeps_bceCancel
   | split

theorem keeps_cancelQuery {s : State} {c : Nat} {q : Query} (kp : Memory.wf s.mem) : Memory.wf (cancelQuery s c q).mem := by
  unfold cancelQuery
  repeat' first
   | with_reducible assumption
   | with_reducible apply keeps_unpark
   | with_reducible apply keeps_queryGone
   | split

theorem keeps_cancelWork {s : State} {l : Nat} {dead : Nat → Bool} (kp : Memory.wf s.mem) : Memory.wf (cancelWork s l dead).mem := by
  unfold cancelWork
  repeat' first
   | with_reducible assumption
   | with_reducible apply keeps_State_modCore
   | with_reducible apply keeps_finishPend
   | with_reducible apply keeps_cancelOp
   | with_reducible apply keeps_cancelBaton
   | with_reducible apply keeps_cancelCopy
   | with_reducible apply keeps_cancelQuery
   | with_reducible refine keeps_foldl (fun _ _ _ => ?_) ?_

theorem keeps_cancelSubtree {s : State} {l id : Nat} (kp : Memory.wf s.mem) : Memory.wf (cancelSubtree s l id).mem := by
  unfold cancelSubtree
  repeat' first
   | with_reducible assumption
   | with_reducible apply keeps_State_modLaunch
   | with_reducible apply keeps_State_wireOnce
   | with_reducible apply keeps_retireGroup
   | with_reducible apply keeps_cancelWork
   | with_reducible refine keeps_foldl (fun _ _ _ => ?_) ?_
   | split

theorem keeps_cancelSem {c : Ctx} {s : State} (kp : Memory.wf s.mem) : Memory.wf (cancelSem.act c s).1.mem := by
  unfold cancelSem
  repeat' first
   | with_reducible assumption
   | with_reducible apply keeps_State_modGroup
   | with_reducible apply keeps_State_modLaunch
   | with_reducible apply keeps_State_wire
   | with_reducible apply keeps_State_fresh
   | with_reducible apply keeps_addPend
   | with_reducible apply keeps_cancelSubtree
   | dsimp only
   | split

theorem keeps_cancelStep {s : State} {g : Nat} {p : Pend} (kp : Memory.wf s.mem) : Memory.wf (cancelStep s g p).mem := by
  unfold cancelStep
  repeat' first
   | with_reducible assumption
   | with_reducible apply keeps_State_wire
   | with_reducible apply keeps_finishPend
   | split

theorem keeps_evDeadlineExpiry {l : Nat} {s : State} (kp : Memory.wf s.mem) : Memory.wf (evDeadlineExpiry l s).mem := by
  unfold evDeadlineExpiry
  repeat' first
   | with_reducible assumption
   | with_reducible apply keeps_State_modLaunch
   | with_reducible apply keeps_cancelSubtree
   | dsimp only
   | split

theorem keeps_bestmaxSem {c : Ctx} {s : State} (kp : Memory.wf s.mem) : Memory.wf (bestmaxSem.act c s).1.mem := by
  unfold bestmaxSem
  repeat' first
   | with_reducible assumption
   | with_reducible apply keeps_State_modLaunch
   | with_reducible apply keeps_State_wire
   | with_reducible apply keeps_State_fresh
   | with_reducible apply keeps_addPend
   | dsimp only
   | split

theorem keeps_bestStep {s : State} {g : Nat} {p : Pend} (kp : Memory.wf s.mem) : Memory.wf (bestStep s g p).mem := by
  unfold bestStep
  repeat' first
   | with_reducible assumption
   | with_reducible apply keeps_State_modLaunch
   | with_reducible apply keeps_State_wire
   | with_reducible apply keeps_finishPend
   | with_reducible apply keeps_drainMark
   | dsimp only
   | split

/-! ### CrossLane.lean -/

theorem keeps_rebind {s : State} {c : Ctx} {g : Nat} (kp : Memory.wf s.mem) : Memory.wf (rebind s c g).mem := by
  unfold rebind
  repeat' first
   | with_reducible assumption
   | with_reducible apply keeps_State_modGroup
   | with_reducible apply keeps_State_modCore
   | split

theorem keeps_setwSem {c : Ctx} {s : State} (kp : Memory.wf s.mem) : Memory.wf (setwSem.act c s).1.mem := by
  unfold setwSem
  repeat' first
   | with_reducible assumption
   | with_reducible apply keeps_State_modGroup
   | with_reducible apply keeps_State_wire
   | with_reducible apply keeps_roomFreed
   | with_reducible apply keeps_rebind
   | dsimp only
   | split

theorem keeps_shflSem {src : Ctx → Nat → Nat → Nat → Nat} {c : Ctx} {s : State} (kp : Memory.wf s.mem) :
    Memory.wf ((shflSem src).act c s).1.mem := by
  unfold shflSem
  repeat' first
   | with_reducible assumption
   | with_reducible apply keeps_onGroup

theorem keeps_shflIdxSem {c : Ctx} {s : State} (kp : Memory.wf s.mem) : Memory.wf (shflIdxSem.act c s).1.mem := by
  unfold shflIdxSem
  repeat' first
   | with_reducible assumption
   | with_reducible apply keeps_shflSem

theorem keeps_shflUpSem {c : Ctx} {s : State} (kp : Memory.wf s.mem) : Memory.wf (shflUpSem.act c s).1.mem := by
  unfold shflUpSem
  repeat' first
   | with_reducible assumption
   | with_reducible apply keeps_shflSem

theorem keeps_shflDownSem {c : Ctx} {s : State} (kp : Memory.wf s.mem) : Memory.wf (shflDownSem.act c s).1.mem := by
  unfold shflDownSem
  repeat' first
   | with_reducible assumption
   | with_reducible apply keeps_shflSem

theorem keeps_shflXorSem {c : Ctx} {s : State} (kp : Memory.wf s.mem) : Memory.wf (shflXorSem.act c s).1.mem := by
  unfold shflXorSem
  repeat' first
   | with_reducible assumption
   | with_reducible apply keeps_shflSem

theorem keeps_bcastSem {c : Ctx} {s : State} (kp : Memory.wf s.mem) : Memory.wf (bcastSem.act c s).1.mem := by
  unfold bcastSem
  repeat' first
   | with_reducible assumption
   | with_reducible apply keeps_onGroup

theorem keeps_voteSem {c : Ctx} {s : State} (kp : Memory.wf s.mem) : Memory.wf (voteSem.act c s).1.mem := by
  unfold voteSem
  repeat' first
   | with_reducible assumption
   | with_reducible apply keeps_onGroup

theorem keeps_laneqSem {c : Ctx} {s : State} (kp : Memory.wf s.mem) : Memory.wf (laneqSem.act c s).1.mem := by
  unfold laneqSem
  repeat' first
   | with_reducible assumption
   | with_reducible apply keeps_onGroup

theorem keeps_matchSem {c : Ctx} {s : State} (kp : Memory.wf s.mem) : Memory.wf (matchSem.act c s).1.mem := by
  unfold matchSem
  repeat' first
   | with_reducible assumption
   | with_reducible apply keeps_onGroup

theorem keeps_reduceSem {c : Ctx} {s : State} (kp : Memory.wf s.mem) : Memory.wf (reduceSem.act c s).1.mem := by
  unfold reduceSem
  repeat' first
   | with_reducible assumption
   | with_reducible apply keeps_onGroup

theorem keeps_scanSem {c : Ctx} {s : State} (kp : Memory.wf s.mem) : Memory.wf (scanSem.act c s).1.mem := by
  unfold scanSem
  repeat' first
   | with_reducible assumption
   | with_reducible apply keeps_onGroup

theorem keeps_compactSem {c : Ctx} {s : State} (kp : Memory.wf s.mem) : Memory.wf (compactSem.act c s).1.mem := by
  unfold compactSem
  repeat' first
   | with_reducible assumption
   | with_reducible apply keeps_onGroup

theorem keeps_regroupSem {c : Ctx} {s : State} (kp : Memory.wf s.mem) : Memory.wf (regroupSem.act c s).1.mem := by
  unfold regroupSem
  repeat' first
   | with_reducible assumption
   | with_reducible apply keeps_State_modCore
   | with_reducible apply keeps_State_wireOnce
   | with_reducible apply keeps_modRun
   | with_reducible refine keeps_foldl (fun _ _ _ => ?_) ?_
   | dsimp only
   | split

theorem keeps_fireBucket {s : State} {core id : Nat} (kp : Memory.wf s.mem) : Memory.wf (fireBucket s core id).mem := by
  unfold fireBucket
  repeat' first
   | with_reducible assumption
   | with_reducible apply keeps_State_modCore
   | with_reducible apply keeps_State_wireOnce

theorem keeps_regroupFlushSem {c : Ctx} {s : State} (kp : Memory.wf s.mem) : Memory.wf (regroupFlushSem.act c s).1.mem := by
  unfold regroupFlushSem
  repeat' first
   | with_reducible assumption
   | with_reducible apply keeps_fireBucket
   | with_reducible refine keeps_foldl (fun _ _ _ => ?_) ?_

theorem keeps_evRelayTimeout {core id : Nat} {s : State} (kp : Memory.wf s.mem) : Memory.wf (evRelayTimeout core id s).mem := by
  unfold evRelayTimeout
  repeat' first
   | with_reducible assumption
   | with_reducible apply keeps_fireBucket
   | split

/-! ### System.lean -/

theorem keeps_countEnergy {s : State} {g : Nat} (kp : Memory.wf s.mem) : Memory.wf (countEnergy s g).mem := by
  unfold countEnergy
  repeat' first
   | with_reducible assumption
   | with_reducible apply keeps_State_modGroup
   | with_reducible apply keeps_State_modLaunch

theorem keeps_csrrSem {c : Ctx} {s : State} (kp : Memory.wf s.mem) : Memory.wf (csrrSem.act c s).1.mem := by
  unfold csrrSem
  repeat' first
   | with_reducible assumption
   | with_reducible apply keeps_State_modGroup
   | with_reducible apply keeps_countEnergy
   | split

theorem keeps_csrwSem {c : Ctx} {s : State} (kp : Memory.wf s.mem) : Memory.wf (csrwSem.act c s).1.mem := by
  unfold csrwSem
  repeat' first
   | with_reducible assumption
   | with_reducible apply keeps_winSet
   | with_reducible apply keeps_State_modGroup
   | with_reducible apply keeps_State_modLaunch
   | with_reducible apply keeps_State_wireOnce
   | dsimp only
   | split

theorem keeps_trapSem {c : Ctx} {s : State} (kp : Memory.wf s.mem) : Memory.wf (trapSem.act c s).1.mem := kp

theorem keeps_bkptSem {c : Ctx} {s : State} (kp : Memory.wf s.mem) : Memory.wf (bkptSem.act c s).1.mem := kp

theorem keeps_eretSem {c : Ctx} {s : State} (kp : Memory.wf s.mem) : Memory.wf (eretSem.act c s).1.mem := by
  unfold eretSem
  repeat' first
   | with_reducible assumption
   | with_reducible apply keeps_modRun

theorem keeps_invalRemove {s : State} {v : Inval} (kp : Memory.wf s.mem) : Memory.wf (invalRemove s v).mem := by
  unfold invalRemove
  repeat' first
   | with_reducible assumption
   | with_reducible apply keeps_State_modCore
   | with_reducible apply keeps_State_modCluster
   | with_reducible apply keeps_walkRestart
   | with_reducible apply keeps_maintain
   | with_reducible refine keeps_foldl (fun _ _ _ => ?_) ?_

theorem keeps_startInval {s : State} {scope asid lo hi : Nat} {before : List (Nat × Nat)} {w : FzWait} (kp : Memory.wf s.mem) :
    Memory.wf (startInval s scope asid lo hi before w).mem := by
  unfold startInval
  repeat' first
   | with_reducible assumption
   | with_reducible apply keeps_State_wire
   | with_reducible apply keeps_State_fresh

theorem keeps_evInvalidationComplete {id : Nat} {s : State} (kp : Memory.wf s.mem) : Memory.wf (evInvalidationComplete id s).mem := by
  unfold evInvalidationComplete
  repeat' first
   | with_reducible assumption
   | with_reducible apply keeps_State_wire
   | with_reducible apply keeps_finishPend
   | with_reducible apply keeps_drainMark
   | with_reducible apply keeps_evWcFlush
   | with_reducible apply keeps_decCounter
   | with_reducible apply keeps_invalRemove
   | with_reducible refine keeps_foldl (fun _ _ _ => ?_) ?_
   | dsimp only
   | split

theorem keeps_tlbiSem {c : Ctx} {s : State} (kp : Memory.wf s.mem) : Memory.wf (tlbiSem.act c s).1.mem := by
  unfold tlbiSem
  repeat' first
   | with_reducible assumption
   | with_reducible apply keeps_State_fresh
   | with_reducible apply keeps_addPend
   | with_reducible apply keeps_startInval
   | dsimp only
   | split

theorem keeps_asidswSem {c : Ctx} {s : State} (kp : Memory.wf s.mem) : Memory.wf (asidswSem.act c s).1.mem := by
  unfold asidswSem
  repeat' first
   | with_reducible assumption
   | with_reducible apply keeps_State_modGroup

theorem keeps_carveSem {c : Ctx} {s : State} (kp : Memory.wf s.mem) : Memory.wf (carveSem.act c s).1.mem := by
  unfold carveSem
  repeat' first
   | with_reducible assumption
   | with_reducible apply keeps_State_setCore
   | with_reducible apply keeps_State_wire
   | with_reducible apply keeps_State_fresh
   | with_reducible apply keeps_addPend
   | with_reducible apply keeps_pendReady
   | dsimp only
   | split

theorem keeps_carveStep {s : State} {g : Nat} {p : Pend} (kp : Memory.wf s.mem) : Memory.wf (carveStep s g p).mem := by
  unfold carveStep
  repeat' first
   | with_reducible assumption
   | with_reducible apply keeps_State_modGroup
   | with_reducible apply keeps_State_modCore
   | with_reducible apply keeps_dropFrom
   | with_reducible apply keeps_finishPend
   | with_reducible apply keeps_cleanSlot
   | with_reducible apply keeps_roomFreed
   | with_reducible refine keeps_foldl (fun _ _ _ => ?_) ?_

theorem keeps_haltSem {c : Ctx} {s : State} (kp : Memory.wf s.mem) : Memory.wf (haltSem.act c s).1.mem := by
  unfold haltSem
  repeat' first
   | with_reducible assumption
   | with_reducible apply keeps_modRun

theorem keeps_traceSem {c : Ctx} {s : State} (kp : Memory.wf s.mem) : Memory.wf (traceSem.act c s).1.mem := by
  unfold traceSem
  repeat' first
   | with_reducible assumption
   | with_reducible apply keeps_leuth

theorem keeps_evInstrComplete {g op : Nat} {s : State} (kp : Memory.wf s.mem) : Memory.wf (evInstrComplete g op s).mem := by
  unfold evInstrComplete
  repeat' first
   | with_reducible assumption
   | with_reducible apply keeps_State_modGroup
   | with_reducible apply keeps_State_wire
   | with_reducible apply keeps_State_wireOnce
   | with_reducible apply keeps_finishPend
   | with_reducible apply keeps_performSpace
   | with_reducible apply keeps_drainMark
   | with_reducible apply keeps_lsuStep
   | with_reducible apply keeps_fenceStep
   | with_reducible apply keeps_gscStep
   | with_reducible apply keeps_maintStep
   | with_reducible apply keeps_freezeStep
   | with_reducible apply keeps_haccStep
   | with_reducible apply keeps_allocStep
   | with_reducible apply keeps_freeStep
   | with_reducible apply keeps_cancelStep
   | with_reducible apply keeps_bestStep
   | with_reducible apply keeps_carveStep
   | dsimp only
   | split

end Sys2Proof.Machine
end

