-- ==== Sys2Proof/Laws/KeepsHost.lean ====
section
/-!
SUPPORT. Global memory keeps its canonical form (addresses rise strictly, no listed byte is the one an unlisted address reads as) under
launches, the window, the outside world, wires and the passing of time: one lemma each.
-/

namespace Sys2Proof.Machine

open Sys2Proof

/-! ### Launch.lean -/

theorem keeps_decLaunchCounter {s : State} {c : Nat} (kp : Memory.wf s.mem) : Memory.wf (decLaunchCounter s c).mem := by
  unfold decLaunchCounter
  repeat' first
   | with_reducible assumption
   | with_reducible apply keeps_winSet
   | with_reducible apply keeps_winField
   | dsimp only
   | split

theorem keeps_signalAll {s : State} {cs : List Nat} (kp : Memory.wf s.mem) : Memory.wf (signalAll s cs).mem := by
  unfold signalAll
  repeat' first
   | with_reducible assumption
   | with_reducible apply keeps_decLaunchCounter
   | with_reducible refine keeps_foldl (fun _ _ _ => ?_) ?_

theorem keeps_drainRings {s : State} {fuel : Nat} (kp : Memory.wf s.mem) : Memory.wf (drainRings s fuel).mem := by
  induction fuel generalizing s with
  | zero => exact kp
  | succ n ih =>
    unfold drainRings
    repeat' first
     | with_reducible assumption
     | with_reducible apply ih
     | with_reducible apply keeps_State_fresh
     | with_reducible apply keeps_engBegin
     | split

theorem keeps_deliver {s : State} {q : Nat} {r : BitVec 256} {sigs : List Nat} (kp : Memory.wf s.mem) :
    Memory.wf (deliver s q r sigs).mem := by
  unfold deliver
  repeat' first
   | with_reducible assumption
   | with_reducible apply keeps_State_wireOnce

theorem keeps_refuse {s : State} {r : BitVec 1024} {q rix code : Nat} (kp : Memory.wf s.mem) : Memory.wf (refuse s r q rix code).mem := by
  unfold refuse
  repeat' first
   | with_reducible assumption
   | with_reducible apply keeps_deliver

theorem keeps_takeChip {s : State} {l : Nat} (kp : Memory.wf s.mem) : Memory.wf (takeChip s l).mem := by
  unfold takeChip
  repeat' first
   | with_reducible assumption
   | with_reducible apply keeps_State_setLaunch

theorem keeps_accept {s : State} {r : BitVec 1024} {q rix : Nat} (kp : Memory.wf s.mem) : Memory.wf (accept s r q rix).mem := by
  unfold accept
  repeat' first
   | with_reducible assumption
   | with_reducible apply keeps_State_setLaunch
   | with_reducible apply keeps_State_wire
   | with_reducible apply keeps_State_fresh
   | with_reducible apply keeps_takeChip
   | split

theorem keeps_admitLaunch {s : State} {r : BitVec 1024} {q rix : Nat} (kp : Memory.wf s.mem) : Memory.wf (admitLaunch s r q rix).mem := by
  unfold admitLaunch
  repeat' first
   | with_reducible assumption
   | with_reducible apply keeps_refuse
   | with_reducible apply keeps_accept
   | split

theorem keeps_kickQueues {s : State} (kp : Memory.wf s.mem) : Memory.wf (kickQueues s).mem := by
  unfold kickQueues
  repeat' first
   | with_reducible assumption
   | with_reducible apply keeps_State_wireOnce
   | with_reducible refine keeps_foldl (fun _ _ _ => ?_) ?_
   | split

theorem keeps_examine {s : State} {fuel : Nat} (kp : Memory.wf s.mem) : Memory.wf (examine s fuel).mem := by
  induction fuel generalizing s with
  | zero => exact kp
  | succ n ih =>
    unfold examine
    repeat' first
     | with_reducible assumption
     | with_reducible apply ih
     | with_reducible apply keeps_kickQueues
     | with_reducible apply keeps_admitLaunch
     | split

theorem keeps_examineAll {s : State} (kp : Memory.wf s.mem) : Memory.wf (examineAll s).mem := by
  unfold examineAll
  repeat' first
   | with_reducible assumption
   | with_reducible apply keeps_examine

theorem keeps_unitDone {s : State} {x : Nat × EngAcc} (kp : Memory.wf s.mem) : Memory.wf (unitDone s x).mem := by
  unfold unitDone
  repeat' first
   | with_reducible assumption
   | with_reducible apply keeps_dbgEvt
   | with_reducible apply keeps_dropEng
   | split

theorem keeps_dropQueue {s : State} {q : Nat} (kp : Memory.wf s.mem) : Memory.wf (dropQueue s q).mem := by
  unfold dropQueue
  repeat' first
   | with_reducible assumption

theorem keeps_evTailLineReread {q : Nat} {s : State} (kp : Memory.wf s.mem) : Memory.wf (evTailLineReread q s).mem := by
  unfold evTailLineReread
  repeat' first
   | with_reducible assumption
   | with_reducible apply keeps_State_wireOnce
   | with_reducible apply keeps_State_fresh
   | with_reducible apply keeps_engBegin
   | with_reducible apply keeps_unitDone
   | dsimp only
   | split

theorem keeps_takeRecord {s : State} {q : Nat} {r : BitVec 1024} (kp : Memory.wf s.mem) : Memory.wf (takeRecord s q r).mem := by
  unfold takeRecord
  repeat' first
   | with_reducible assumption
   | with_reducible apply keeps_winField
   | with_reducible apply keeps_State_wireOnce
   | with_reducible apply keeps_refuse
   | with_reducible apply keeps_admitLaunch
   | with_reducible apply keeps_examineAll
   | dsimp only
   | split

theorem keeps_evLaunchRecordRead {q : Nat} {s : State} (kp : Memory.wf s.mem) : Memory.wf (evLaunchRecordRead q s).mem := by
  unfold evLaunchRecordRead
  repeat' first
   | with_reducible assumption
   | with_reducible apply keeps_winField
   | with_reducible apply keeps_State_fresh
   | with_reducible apply keeps_engBegin
   | with_reducible apply keeps_deliver
   | with_reducible apply keeps_unitDone
   | with_reducible apply keeps_dropQueue
   | with_reducible apply keeps_takeRecord
   | dsimp only
   | split

theorem keeps_placeBlock {s : State} {l b core : Nat} (kp : Memory.wf s.mem) : Memory.wf (placeBlock s l b core).mem := by
  unfold placeBlock
  repeat' first
   | with_reducible assumption
   | with_reducible apply keeps_State_setBlock
   | with_reducible apply keeps_State_modCore
   | with_reducible apply keeps_State_fresh
   | with_reducible apply keeps_bindWaiters
   | with_reducible apply keeps_startGroup
   | with_reducible refine keeps_foldl (fun _ _ _ => ?_) ?_

theorem keeps_placeSome {s : State} {l : Nat} {fuel : Nat} (kp : Memory.wf s.mem) : Memory.wf (placeSome s l fuel).mem := by
  induction fuel generalizing s l with
  | zero => exact kp
  | succ n ih =>
    unfold placeSome
    repeat' first
     | with_reducible assumption
     | with_reducible apply ih
     | with_reducible apply keeps_State_modLaunch
     | with_reducible apply keeps_placeBlock
     | with_reducible refine keeps_foldl (fun _ _ _ => ?_) ?_
     | dsimp only
     | split

theorem keeps_evBlockPlace {l : Nat} {s : State} (kp : Memory.wf s.mem) : Memory.wf (evBlockPlace l s).mem := by
  unfold evBlockPlace
  repeat' first
   | with_reducible assumption
   | with_reducible apply keeps_takeChip
   | with_reducible apply keeps_placeSome
   | dsimp only
   | split

theorem keeps_closeQueues {s : State} {l : Nat} (kp : Memory.wf s.mem) : Memory.wf (closeQueues s l).mem := by
  unfold closeQueues
  repeat' first
   | with_reducible assumption
   | with_reducible apply keeps_State_wire
   | with_reducible apply keeps_modSq
   | with_reducible refine keeps_foldl (fun _ _ _ => ?_) ?_
   | split

theorem keeps_evBlockEnd {b : Nat} {s : State} (kp : Memory.wf s.mem) : Memory.wf (evBlockEnd b s).mem := by
  unfold evBlockEnd
  repeat' first
   | with_reducible assumption
   | with_reducible apply keeps_State_setBlock
   | with_reducible apply keeps_State_modLaunch
   | with_reducible apply keeps_State_modCore
   | with_reducible apply keeps_State_wire
   | with_reducible apply keeps_State_wireOnce
   | with_reducible apply keeps_shareRevoke
   | with_reducible apply keeps_shareFree
   | with_reducible apply keeps_modBaton
   | with_reducible apply keeps_batonClose
   | with_reducible apply keeps_roomFreed
   | with_reducible apply keeps_closeQueues
   | with_reducible refine keeps_foldl (fun _ _ _ => ?_) ?_
   | dsimp only
   | split

theorem keeps_launchEnds {s : State} {l : Nat} (kp : Memory.wf s.mem) : Memory.wf (launchEnds s l).mem := by
  unfold launchEnds
  repeat' first
   | with_reducible assumption
   | with_reducible apply keeps_State_modLaunch
   | with_reducible apply keeps_State_modCluster
   | with_reducible refine keeps_foldl (fun _ _ _ => ?_) ?_
   | split

theorem keeps_settleHeld {s : State} (kp : Memory.wf s.mem) : Memory.wf (settleHeld s).mem := by
  unfold settleHeld
  repeat' first
   | with_reducible assumption
   | with_reducible apply keeps_State_modLaunch
   | with_reducible apply keeps_State_wire
   | with_reducible refine keeps_foldl (fun _ _ _ => ?_) ?_
   | dsimp only
   | split

theorem keeps_evLaunchComplete {l : Nat} {s : State} (kp : Memory.wf s.mem) : Memory.wf (evLaunchComplete l s).mem := by
  unfold evLaunchComplete
  repeat' first
   | with_reducible assumption
   | with_reducible apply keeps_State_modLaunch
   | with_reducible apply keeps_State_wireOnce
   | with_reducible apply keeps_replace
   | with_reducible apply keeps_deliver
   | with_reducible apply keeps_examineAll
   | with_reducible apply keeps_launchEnds
   | with_reducible apply keeps_settleHeld
   | dsimp only
   | split

theorem keeps_evRecordDone {id : Nat} {s : State} (kp : Memory.wf s.mem) : Memory.wf (evRecordDone id s).mem := by
  unfold evRecordDone
  repeat' first
   | with_reducible assumption
   | with_reducible apply keeps_winField
   | with_reducible apply keeps_replace
   | with_reducible apply keeps_signalAll
   | with_reducible apply keeps_drainRings
   | with_reducible apply keeps_kickQueues
   | with_reducible apply keeps_examineAll
   | with_reducible apply keeps_unitDone
   | with_reducible apply keeps_settleHeld
   | dsimp only
   | split

theorem keeps_evResvTakeEffect {c : Nat} {s : State} (kp : Memory.wf s.mem) : Memory.wf (evResvTakeEffect c s).mem := by
  unfold evResvTakeEffect
  repeat' first
   | with_reducible assumption
   | with_reducible apply keeps_examineAll
   | with_reducible apply keeps_replace
   | split

theorem keeps_unyield {s : State} {g : Nat} (kp : Memory.wf s.mem) : Memory.wf (unyield s g).mem := by
  unfold unyield
  repeat' first
   | with_reducible assumption
   | with_reducible apply keeps_State_modGroup
   | with_reducible apply keeps_settle

theorem keeps_evGroupSave {g : Nat} {s : State} (kp : Memory.wf s.mem) : Memory.wf (evGroupSave g s).mem := by
  unfold evGroupSave
  repeat' first
   | with_reducible assumption
   | with_reducible apply keeps_State_modGroup
   | with_reducible apply keeps_State_modCore
   | with_reducible apply keeps_State_fresh
   | with_reducible apply keeps_evCount
   | with_reducible apply keeps_engBegin
   | with_reducible apply keeps_roomFreed
   | with_reducible apply keeps_unitDone
   | with_reducible apply keeps_unyield
   | dsimp only
   | split

theorem keeps_restoreGroup {s : State} {g : Nat} {t : State} (e : restoreGroup s g = some t) (kp : Memory.wf s.mem) : Memory.wf t.mem := by
  unfold restoreGroup at e
  split at e
  · cases e
  · cases e
    exact keeps_unyield (keeps_setBind kp)

theorem keeps_evGroupRestore {g : Nat} {s : State} (kp : Memory.wf s.mem) : Memory.wf (evGroupRestore g s).mem := by
  unfold evGroupRestore
  repeat' first
   | with_reducible assumption
   | with_reducible apply keeps_preemptFor
   | (with_reducible apply keeps_restoreGroup; focus with_reducible assumption)
   | dsimp only
   | split

theorem keeps_evTsliceExpiry {core : Nat} {s : State} (kp : Memory.wf s.mem) : Memory.wf (evTsliceExpiry core s).mem := by
  unfold evTsliceExpiry
  repeat' first
   | with_reducible assumption
   | with_reducible apply keeps_State_modGroup
   | with_reducible apply keeps_State_modCore
   | with_reducible apply keeps_State_wireOnce
   | with_reducible refine keeps_foldl (fun _ _ _ => ?_) ?_
   | dsimp only
   | split

theorem keeps_evPriorityAging {g : Nat} {s : State} (kp : Memory.wf s.mem) : Memory.wf (evPriorityAging g s).mem := by
  unfold evPriorityAging
  repeat' first
   | with_reducible assumption
   | with_reducible apply keeps_State_modGroup
   | dsimp only
   | split

theorem keeps_evGroupWatchdog {g : Nat} {s : State} (kp : Memory.wf s.mem) : Memory.wf (evGroupWatchdog g s).mem := by
  rw [evGroupWatchdog]
  dsimp only
  split
  · exact keeps_dropPushes (keeps_dbgEvt (keeps_causeTrigger (keeps_launchFault (keeps_faultRecord kp))))
  split
  · exact kp
  · split
    · exact keeps_preemptFor kp
    · rename_i t ht
      have kt : Memory.wf t.mem := by
        split at ht
        · exact keeps_restoreGroup ht kp
        · cases ht
          exact kp
      exact keeps_takeTrap (keeps_State_modGroup kt)

/-! ### Host.lean -/

theorem keeps_storeRw {s : State} {ofs v mask : Nat} (kp : Memory.wf s.mem) : Memory.wf (storeRw s ofs v mask).mem := by
  unfold storeRw
  repeat' first
   | with_reducible assumption
   | with_reducible apply keeps_winSet

theorem keeps_windowed {s : State} {f : State → State} (hf : ∀ t, Memory.wf t.mem → Memory.wf (f t).mem) (kp : Memory.wf s.mem) :
    Memory.wf (windowed s f).mem := keeps_ite kp (hf s kp)

theorem keeps_tryRetain {s : State} (kp : Memory.wf s.mem) : Memory.wf (tryRetain s).mem := by
  unfold tryRetain
  repeat' first
   | with_reducible assumption
   | split

theorem keeps_evRetainExit {s : State} (kp : Memory.wf s.mem) : Memory.wf (evRetainExit s).mem := by
  unfold evRetainExit
  repeat' first
   | with_reducible assumption
   | with_reducible apply keeps_State_wireOnce
   | with_reducible refine keeps_foldl (fun _ _ _ => ?_) ?_
   | split

theorem keeps_evIdleEntry {s : State} (kp : Memory.wf s.mem) : Memory.wf (evIdleEntry s).mem := by
  unfold evIdleEntry
  repeat' first
   | with_reducible assumption
   | split

theorem keeps_evGovernorStep {up : Bool} {tj pwr : BitVec 16} {s : State} (kp : Memory.wf s.mem) :
    Memory.wf (evGovernorStep up tj pwr s).mem := by
  unfold evGovernorStep
  repeat' first
   | with_reducible assumption
   | dsimp only
   | split

theorem keeps_evThermalAlert {tj : BitVec 16} {s : State} (kp : Memory.wf s.mem) : Memory.wf (evThermalAlert tj s).mem := by
  unfold evThermalAlert
  repeat' first
   | with_reducible assumption
   | with_reducible apply keeps_alertSet
   | split

theorem keeps_evReset {img : BootImage} {s : State} (kp : Memory.wf s.mem) : Memory.wf (evReset img s).mem := by
  unfold evReset
  repeat' first
   | with_reducible assumption
   | with_reducible apply keeps_alertSet
   | dsimp only
   | split

theorem keeps_evI3cWarmReset {img : BootImage} {s : State} (kp : Memory.wf s.mem) : Memory.wf (evI3cWarmReset img s).mem := by
  unfold evI3cWarmReset
  repeat' first
   | with_reducible assumption
   | with_reducible apply keeps_evReset

theorem keeps_evI3cColdReset {img : BootImage} {s : State} (kp : Memory.wf s.mem) : Memory.wf (evI3cColdReset img s).mem := by
  unfold evI3cColdReset
  repeat' first
   | with_reducible assumption
   | with_reducible apply keeps_evReset

theorem keeps_evThermalReset {tj : BitVec 16} {img : BootImage} {s : State} (kp : Memory.wf s.mem) :
    Memory.wf (evThermalReset tj img s).mem := by
  unfold evThermalReset
  repeat' first
   | with_reducible assumption
   | with_reducible apply keeps_evReset
   | split

theorem keeps_evRdata {bytes : List (BitVec 8)} {last sigOk : Bool} {s : State} (kp : Memory.wf s.mem) :
    Memory.wf (evRdata bytes last sigOk s).mem := by
  unfold evRdata
  repeat' first
   | with_reducible assumption
   | dsimp only
   | split

theorem keeps_evI3cPlimWrite {v : BitVec 16} {s : State} (kp : Memory.wf s.mem) : Memory.wf (evI3cPlimWrite v s).mem := kp

theorem keeps_evI3cRecovWrite {v : BitVec 16} {s : State} (kp : Memory.wf s.mem) : Memory.wf (evI3cRecovWrite v s).mem := by
  unfold evI3cRecovWrite
  repeat' first
   | with_reducible assumption
   | with_reducible apply keeps_tryRetain

theorem keeps_evAlertClear {v : BitVec 16} {s : State} (kp : Memory.wf s.mem) : Memory.wf (evAlertClear v s).mem := kp

theorem keeps_evDynamicAddressAssign {a : BitVec 7} {s : State} (kp : Memory.wf s.mem) : Memory.wf (evDynamicAddressAssign a s).mem := kp

theorem keeps_resumeLaunches {s : State} (kp : Memory.wf s.mem) : Memory.wf (resumeLaunches s).mem := by
  unfold resumeLaunches
  repeat' first
   | with_reducible assumption
   | with_reducible apply keeps_State_wireOnce
   | with_reducible apply keeps_drainRings
   | with_reducible apply keeps_kickQueues
   | with_reducible apply keeps_examineAll
   | with_reducible apply keeps_settleHeld
   | with_reducible refine keeps_foldl (fun _ _ _ => ?_) ?_
   | dsimp only
   | split

theorem keeps_evQcfgWrite {q : Nat} {v : BitVec 64} {s : State} (kp : Memory.wf s.mem) : Memory.wf (evQcfgWrite q v s).mem := by
  unfold evQcfgWrite
  repeat' first
   | with_reducible assumption
   | with_reducible apply keeps_winSet
   | with_reducible apply keeps_winField
   | with_reducible apply keeps_dropQueue
   | with_reducible apply keeps_evTailLineReread
   | with_reducible apply keeps_storeRw
   | with_reducible apply keeps_tryRetain
   | with_reducible apply keeps_resumeLaunches
   | with_reducible refine keeps_windowed (fun _ _ => ?_) ?_
   | dsimp only
   | split

theorem keeps_evQptrWrite {q : Nat} {v : BitVec 64} {s : State} (kp : Memory.wf s.mem) : Memory.wf (evQptrWrite q v s).mem := by
  unfold evQptrWrite
  repeat' first
   | with_reducible assumption
   | with_reducible apply keeps_winField
   | with_reducible refine keeps_windowed (fun _ _ => ?_) ?_
   | with_reducible apply keeps_resumeLaunches

theorem keeps_evLaunchCounterWrite {c : Nat} {v : BitVec 64} {s : State} (kp : Memory.wf s.mem) :
    Memory.wf (evLaunchCounterWrite c v s).mem := by
  unfold evLaunchCounterWrite
  repeat' first
   | with_reducible assumption
   | with_reducible apply keeps_winSet
   | with_reducible refine keeps_windowed (fun _ _ => ?_) ?_
   | with_reducible apply keeps_resumeLaunches

theorem keeps_evResvWrite {c : Nat} {v : BitVec 64} {s : State} (kp : Memory.wf s.mem) : Memory.wf (evResvWrite c v s).mem := by
  unfold evResvWrite
  repeat' first
   | with_reducible assumption
   | with_reducible apply keeps_winSet
   | with_reducible apply keeps_State_wireOnce
   | with_reducible refine keeps_windowed (fun _ _ => ?_) ?_

theorem keeps_evMindlWrite {c : Nat} {v : BitVec 64} {s : State} (kp : Memory.wf s.mem) : Memory.wf (evMindlWrite c v s).mem := by
  unfold evMindlWrite
  repeat' first
   | with_reducible assumption
   | with_reducible apply keeps_winSet
   | with_reducible refine keeps_windowed (fun _ _ => ?_) ?_

theorem keeps_evSavePoolWrite {ofs : Nat} {v : BitVec 64} {s : State} (kp : Memory.wf s.mem) : Memory.wf (evSavePoolWrite ofs v s).mem := by
  unfold evSavePoolWrite
  repeat' first
   | with_reducible assumption
   | with_reducible apply keeps_storeRw
   | with_reducible refine keeps_windowed (fun _ _ => ?_) ?_
   | split

theorem keeps_evContextTableWrite {asid dw : Nat} {v : BitVec 64} {s : State} (kp : Memory.wf s.mem) :
    Memory.wf (evContextTableWrite asid dw v s).mem := by
  unfold evContextTableWrite
  repeat' first
   | with_reducible assumption
   | with_reducible apply keeps_winSet
   | with_reducible refine keeps_windowed (fun _ _ => ?_) ?_
   | dsimp only
   | split

theorem keeps_modRx {s : State} {p : Nat} {f : RxPort → RxPort} (kp : Memory.wf s.mem) : Memory.wf (modRx s p f).mem := kp

theorem keeps_modFrame {s : State} {p : Nat} {f : RxFrame → RxFrame} (kp : Memory.wf s.mem) : Memory.wf (modFrame s p f).mem := by
  unfold modFrame
  repeat' first
   | with_reducible assumption
   | with_reducible apply keeps_modRx

theorem keeps_evCspcfgWrite {v : BitVec 64} {s : State} (kp : Memory.wf s.mem) : Memory.wf (evCspcfgWrite v s).mem := by
  unfold evCspcfgWrite
  repeat' first
   | with_reducible assumption
   | with_reducible apply keeps_winSet
   | with_reducible refine keeps_windowed (fun _ _ => ?_) ?_
   | dsimp only
   | split

theorem keeps_rxDrop {s : State} {p : Nat} (kp : Memory.wf s.mem) : Memory.wf (rxDrop s p).mem := by
  unfold rxDrop
  repeat' first
   | with_reducible assumption
   | with_reducible apply keeps_winCount
   | with_reducible apply keeps_dbgEvt
   | with_reducible apply keeps_leuth

theorem keeps_rxSend {s : State} {p pa : Nat} {b : List Byte} (kp : Memory.wf s.mem) : Memory.wf (rxSend s p pa b).1.mem := by
  unfold rxSend
  repeat' first
   | with_reducible assumption
   | with_reducible apply keeps_State_fresh
   | with_reducible apply keeps_engBegin
   | with_reducible apply keeps_rxDrop
   | with_reducible refine keeps_foldl (fun _ _ _ => ?_) ?_

theorem keeps_rxWrite {s : State} {p pa : Nat} {b : List Byte} (kp : Memory.wf s.mem) : Memory.wf (rxWrite s p pa b).mem := by
  unfold rxWrite
  repeat' first
   | with_reducible assumption
   | with_reducible apply keeps_modFrame
   | with_reducible apply keeps_rxSend
   | split

theorem keeps_rxGo {s : State} {p : Nat} {fuel : Nat} (kp : Memory.wf s.mem) : Memory.wf (rxGo s p fuel).mem := by
  induction fuel generalizing s p with
  | zero => exact kp
  | succ n ih =>
    unfold rxGo
    repeat' first
     | with_reducible assumption
     | with_reducible apply ih
     | with_reducible apply keeps_winField
     | with_reducible apply keeps_decLaunchCounter
     | with_reducible apply keeps_resumeLaunches
     | with_reducible apply keeps_modRx
     | with_reducible apply keeps_rxSend
     | split

theorem keeps_rxClose {s : State} {p : Nat} {trunc : Bool} (kp : Memory.wf s.mem) : Memory.wf (rxClose s p trunc).mem := by
  unfold rxClose
  repeat' first
   | with_reducible assumption
   | with_reducible apply keeps_modRx
   | with_reducible apply keeps_rxGo
   | split

theorem keeps_evRxDone {p id : Nat} {s : State} (kp : Memory.wf s.mem) : Memory.wf (evRxDone p id s).mem := by
  unfold evRxDone
  repeat' first
   | with_reducible assumption
   | with_reducible apply keeps_winCount
   | with_reducible apply keeps_unitDone
   | with_reducible apply keeps_modRx
   | with_reducible apply keeps_rxGo
   | split

theorem keeps_evRxcfgWrite {p : Nat} {v : BitVec 64} {s : State} (kp : Memory.wf s.mem) : Memory.wf (evRxcfgWrite p v s).mem := by
  unfold evRxcfgWrite
  repeat' first
   | with_reducible assumption
   | with_reducible apply keeps_winSet
   | with_reducible apply keeps_winField
   | with_reducible apply keeps_modSpk
   | with_reducible apply keeps_storeRw
   | with_reducible apply keeps_modRx
   | with_reducible apply keeps_rxClose
   | with_reducible refine keeps_windowed (fun _ _ => ?_) ?_
   | dsimp only
   | split

theorem keeps_evCsiFrameStart {p vc : Nat} {fnum : BitVec 16} {s : State} (kp : Memory.wf s.mem) :
    Memory.wf (evCsiFrameStart p vc fnum s).mem := by
  unfold evCsiFrameStart
  repeat' first
   | with_reducible assumption
   | with_reducible apply keeps_winCount
   | with_reducible apply keeps_modRx
   | with_reducible apply keeps_rxClose
   | dsimp only
   | split

theorem keeps_spkRecord {q : Nat} {s : State} {x : Nat} (kp : Memory.wf s.mem) : Memory.wf (spkRecord q s x).mem := by
  unfold spkRecord
  repeat' first
   | with_reducible assumption
   | with_reducible apply keeps_modSpk
   | dsimp only
   | split

theorem keeps_evCsiLongPacket {p vc dt : Nat} {bad : Bool} {bytes : List (BitVec 8)} {s : State} (kp : Memory.wf s.mem) :
    Memory.wf (evCsiLongPacket p vc dt bad bytes s).mem := by
  unfold evCsiLongPacket
  repeat' first
   | with_reducible assumption
   | with_reducible apply keeps_winCount
   | with_reducible apply keeps_modFrame
   | with_reducible apply keeps_rxWrite
   | with_reducible apply keeps_spkRecord
   | with_reducible refine keeps_foldl (fun _ _ _ => ?_) ?_
   | dsimp only
   | split

theorem keeps_evCsiFrameEnd {p vc : Nat} {s : State} (kp : Memory.wf s.mem) : Memory.wf (evCsiFrameEnd p vc s).mem := by
  unfold evCsiFrameEnd
  repeat' first
   | with_reducible assumption
   | with_reducible apply keeps_rxClose
   | split

theorem keeps_txKick {s : State} {t : Nat} (kp : Memory.wf s.mem) : Memory.wf (txKick s t).mem := by
  unfold txKick
  repeat' first
   | with_reducible assumption
   | with_reducible apply keeps_State_wireOnce
   | split

theorem keeps_evTxtailWrite {t : Nat} {v : BitVec 64} {s : State} (kp : Memory.wf s.mem) : Memory.wf (evTxtailWrite t v s).mem := by
  unfold evTxtailWrite
  repeat' first
   | with_reducible assumption
   | with_reducible apply keeps_storeRw
   | with_reducible refine keeps_windowed (fun _ _ => ?_) ?_
   | with_reducible apply keeps_txKick

theorem keeps_txNext {s : State} {t : Nat} {skipped : Bool} (kp : Memory.wf s.mem) : Memory.wf (txNext s t skipped).mem := by
  unfold txNext
  repeat' first
   | with_reducible assumption
   | with_reducible apply keeps_winField
   | with_reducible apply keeps_winCount
   | with_reducible apply keeps_txKick
   | split

theorem keeps_txRead {s : State} {t pa n : Nat} (kp : Memory.wf s.mem) : Memory.wf (txRead s t pa n).mem := by
  unfold txRead
  repeat' first
   | with_reducible assumption
   | with_reducible apply keeps_State_fresh
   | with_reducible apply keeps_engBegin

theorem keeps_evTxSendDescriptor {t : Nat} {s : State} (kp : Memory.wf s.mem) : Memory.wf (evTxSendDescriptor t s).mem := by
  unfold evTxSendDescriptor
  repeat' first
   | with_reducible assumption
   | with_reducible apply keeps_unitDone
   | with_reducible apply keeps_txNext
   | with_reducible apply keeps_txRead
   | dsimp only
   | split

theorem keeps_evTrcfgWrite {v : BitVec 64} {s : State} (kp : Memory.wf s.mem) : Memory.wf (evTrcfgWrite v s).mem := by
  unfold evTrcfgWrite
  repeat' first
   | with_reducible assumption
   | with_reducible apply keeps_winSet
   | with_reducible apply keeps_winField
   | with_reducible apply keeps_dropEng
   | with_reducible apply keeps_storeRw
   | with_reducible refine keeps_windowed (fun _ _ => ?_) ?_
   | dsimp only
   | split

theorem keeps_evTraceWrite {s : State} (kp : Memory.wf s.mem) : Memory.wf (evTraceWrite s).mem := by
  unfold evTraceWrite
  repeat' first
   | with_reducible assumption
   | with_reducible apply keeps_State_fresh
   | with_reducible apply keeps_traceDrop
   | with_reducible apply keeps_traceDone
   | with_reducible apply keeps_engBegin
   | with_reducible apply keeps_unitDone
   | dsimp only
   | split

theorem keeps_evRfrzWrite {v : BitVec 64} {s : State} (kp : Memory.wf s.mem) : Memory.wf (evRfrzWrite v s).mem := by
  unfold evRfrzWrite
  repeat' first
   | with_reducible assumption
   | with_reducible apply keeps_winField
   | with_reducible apply keeps_rfrzTrigger
   | with_reducible apply keeps_storeRw
   | with_reducible refine keeps_windowed (fun _ _ => ?_) ?_
   | split

theorem keeps_evLinkRetry {s : State} (kp : Memory.wf s.mem) : Memory.wf (evLinkRetry s).mem := by
  unfold evLinkRetry
  repeat' first
   | with_reducible assumption
   | with_reducible apply keeps_evCount
   | with_reducible apply keeps_rfrzTrigger
   | dsimp only
   | split

theorem keeps_evTraceSample {core : Nat} {s : State} (kp : Memory.wf s.mem) : Memory.wf (evTraceSample core s).mem := by
  unfold evTraceSample
  repeat' first
   | with_reducible assumption
   | with_reducible apply keeps_State_modCore
   | with_reducible apply keeps_leuth
   | dsimp only
   | split

theorem keeps_evDbgstop {v : BitVec 64} {s : State} (kp : Memory.wf s.mem) : Memory.wf (evDbgstop v s).mem := by
  unfold evDbgstop
  repeat' first
   | with_reducible assumption
   | with_reducible apply keeps_requestStop
   | with_reducible refine keeps_windowed (fun _ _ => ?_) ?_
   | with_reducible refine keeps_foldl (fun _ _ _ => ?_) ?_
   | split

theorem keeps_resumeGroup {s : State} {g : Nat} (kp : Memory.wf s.mem) : Memory.wf (resumeGroup s g).mem := by
  unfold resumeGroup
  repeat' first
   | with_reducible assumption
   | with_reducible apply keeps_State_modGroup
   | with_reducible apply keeps_settle
   | dsimp only
   | split

theorem keeps_evDbgres {v : BitVec 64} {s : State} (kp : Memory.wf s.mem) : Memory.wf (evDbgres v s).mem := by
  unfold evDbgres
  repeat' first
   | with_reducible assumption
   | with_reducible refine keeps_windowed (fun _ _ => ?_) ?_
   | with_reducible apply keeps_resumeGroup
   | with_reducible refine keeps_foldl (fun _ _ _ => ?_) ?_
   | split

theorem keeps_hcmdBegin {s : State} {op : Nat} {seq : BitVec 8} {waits : Bool} (kp : Memory.wf s.mem) :
    Memory.wf (hcmdBegin s op seq waits).mem := by
  unfold hcmdBegin
  repeat' first
   | with_reducible assumption
   | with_reducible apply keeps_winField

theorem keeps_hcmdRun {op : Nat} {seq : BitVec 8} {f : State → State} {s : State} (hf : ∀ t, Memory.wf t.mem → Memory.wf (f t).mem)
    (kp : Memory.wf s.mem) : Memory.wf (hcmdRun op seq f s).mem := by
  unfold hcmdRun
  repeat' first
    | with_reducible assumption
    | with_reducible refine keeps_windowed (fun _ _ => ?_) ?_
    | with_reducible apply keeps_hcmdBegin
    | with_reducible apply hf
    | dsimp only
    | split

theorem keeps_hcmdWith {op : Nat} {seq : BitVec 8} {f : State → State} {s : State} (hf : ∀ t, Memory.wf t.mem → Memory.wf (f t).mem)
    (kp : Memory.wf s.mem) : Memory.wf (hcmdWith op seq f s).mem := by
  unfold hcmdWith
  repeat' first
    | with_reducible assumption
    | with_reducible refine keeps_windowed (fun _ _ => ?_) ?_
    | with_reducible apply keeps_hcmdBegin
    | with_reducible apply hf
    | dsimp only
    | split

theorem keeps_hcmdEnd {seq : BitVec 8} {result : Nat} {s : State} (kp : Memory.wf s.mem) : Memory.wf (hcmdEnd seq result s).mem := by
  unfold hcmdEnd
  repeat' first
   | with_reducible assumption
   | with_reducible apply keeps_State_wire

theorem keeps_evHcmdComplete {seq result : BitVec 8} {s : State} (kp : Memory.wf s.mem) : Memory.wf (evHcmdComplete seq result s).mem := by
  unfold evHcmdComplete
  repeat' first
   | with_reducible assumption
   | with_reducible apply keeps_winSet
   | with_reducible apply keeps_msi
   | split

theorem keeps_evHcmdTlbiRange {seq : BitVec 8} {s : State} (kp : Memory.wf s.mem) : Memory.wf (evHcmdTlbiRange seq s).mem := by
  unfold evHcmdTlbiRange
  repeat' first
   | with_reducible assumption
   | with_reducible apply keeps_startInval
   | with_reducible refine keeps_hcmdRun (fun _ _ => ?_) ?_
   | with_reducible apply keeps_hcmdEnd
   | split

theorem keeps_evHcmdTlbiAsid {seq : BitVec 8} {s : State} (kp : Memory.wf s.mem) : Memory.wf (evHcmdTlbiAsid seq s).mem := by
  unfold evHcmdTlbiAsid
  repeat' first
   | with_reducible assumption
   | with_reducible apply keeps_startInval
   | with_reducible refine keeps_hcmdRun (fun _ _ => ?_) ?_

theorem keeps_evHcmdTlbiNonglobal {seq : BitVec 8} {s : State} (kp : Memory.wf s.mem) : Memory.wf (evHcmdTlbiNonglobal seq s).mem := by
  unfold evHcmdTlbiNonglobal
  repeat' first
   | with_reducible assumption
   | with_reducible apply keeps_startInval
   | with_reducible refine keeps_hcmdRun (fun _ _ => ?_) ?_

theorem keeps_evHcmdTlbiAll {seq : BitVec 8} {s : State} (kp : Memory.wf s.mem) : Memory.wf (evHcmdTlbiAll seq s).mem := by
  unfold evHcmdTlbiAll
  repeat' first
   | with_reducible assumption
   | with_reducible apply keeps_startInval
   | with_reducible refine keeps_hcmdRun (fun _ _ => ?_) ?_

theorem keeps_evFrzkill {seq : BitVec 8} {s : State} (kp : Memory.wf s.mem) : Memory.wf (evFrzkill seq s).mem := by
  unfold evFrzkill
  repeat' first
   | with_reducible assumption
   | with_reducible apply keeps_setFz
   | with_reducible apply keeps_thawAccept
   | with_reducible refine keeps_hcmdRun (fun _ _ => ?_) ?_
   | with_reducible apply keeps_hcmdEnd
   | dsimp only
   | split

theorem keeps_hcmdKeep {s : State} {b : List Byte} (kp : Memory.wf s.mem) : Memory.wf (hcmdKeep s b).mem := kp

theorem keeps_hcmdAccess {seq : BitVec 8} {write : Bool} {segs : List EngSeg} {s : State} (kp : Memory.wf s.mem) :
    Memory.wf (hcmdAccess seq write segs s).mem := by
  unfold hcmdAccess
  repeat' first
   | with_reducible assumption
   | with_reducible apply keeps_State_fresh
   | with_reducible apply keeps_engBegin

theorem keeps_hcmdWrite {seq : BitVec 8} {pa : Nat} {b : List Byte} {s : State} (kp : Memory.wf s.mem) :
    Memory.wf (hcmdWrite seq pa b s).mem := by
  unfold hcmdWrite
  repeat' first
   | with_reducible assumption
   | with_reducible apply keeps_hcmdEnd
   | with_reducible apply keeps_hcmdAccess
   | split

theorem keeps_evHcmdI3cTransfer {seq : BitVec 8} {nack : Bool} {bytes : List (BitVec 8)} {s : State} (kp : Memory.wf s.mem) :
    Memory.wf (evHcmdI3cTransfer seq nack bytes s).mem := by
  unfold evHcmdI3cTransfer
  repeat' first
   | with_reducible assumption
   | with_reducible refine keeps_hcmdWith (fun _ _ => ?_) ?_
   | with_reducible apply keeps_hcmdEnd
   | with_reducible apply keeps_hcmdAccess
   | with_reducible apply keeps_hcmdWrite
   | dsimp only
   | split

theorem keeps_evAttest {seq : BitVec 8} {sig : List (BitVec 8)} {s : State} (kp : Memory.wf s.mem) :
    Memory.wf (evAttest seq sig s).mem := by
  unfold evAttest
  repeat' first
   | with_reducible assumption
   | with_reducible refine keeps_hcmdWith (fun _ _ => ?_) ?_
   | with_reducible apply keeps_hcmdEnd
   | with_reducible apply keeps_hcmdKeep
   | with_reducible apply keeps_hcmdAccess
   | split

theorem keeps_evIdcert {seq : BitVec 8} {cert : List (BitVec 8)} {s : State} (kp : Memory.wf s.mem) :
    Memory.wf (evIdcert seq cert s).mem := by
  unfold evIdcert
  repeat' first
   | with_reducible assumption
   | with_reducible refine keeps_hcmdWith (fun _ _ => ?_) ?_
   | with_reducible apply keeps_hcmdWrite

theorem keeps_evHcmdGo {seq : BitVec 8} {s : State} (kp : Memory.wf s.mem) : Memory.wf (evHcmdGo seq s).mem := by
  unfold evHcmdGo
  repeat' first
   | with_reducible assumption
   | with_reducible apply keeps_unitDone
   | with_reducible apply keeps_hcmdEnd
   | with_reducible apply keeps_hcmdWrite
   | split

theorem keeps_evHcmdBadOp {op seq : BitVec 8} {s : State} (kp : Memory.wf s.mem) : Memory.wf (evHcmdBadOp op seq s).mem := by
  unfold evHcmdBadOp
  repeat' first
   | with_reducible assumption
   | with_reducible refine keeps_hcmdRun (fun _ _ => ?_) ?_
   | with_reducible apply keeps_hcmdEnd

theorem keeps_hcmdStore {v : Nat} {s : State} (kp : Memory.wf s.mem) : Memory.wf (hcmdStore v s).mem := by
  unfold hcmdStore
  repeat' first
   | with_reducible assumption
   | with_reducible refine keeps_windowed (fun _ _ => ?_) ?_
   | with_reducible apply keeps_hcmdBegin
   | with_reducible apply keeps_evHcmdTlbiRange
   | with_reducible apply keeps_evHcmdTlbiAsid
   | with_reducible apply keeps_evHcmdTlbiNonglobal
   | with_reducible apply keeps_evHcmdTlbiAll
   | with_reducible apply keeps_evFrzkill
   | with_reducible apply keeps_evHcmdBadOp
   | dsimp only
   | split

theorem keeps_plainStore {ofs v : Nat} {s : State} (kp : Memory.wf s.mem) : Memory.wf (plainStore ofs v s).mem := by
  unfold plainStore
  extract_lets
  repeat' first
    | with_reducible assumption
    | with_reducible apply keeps_ite
    | with_reducible apply keeps_txKick
    | with_reducible apply keeps_storeRw
    | with_reducible apply keeps_winSet

theorem keeps_winStore {ofs : Nat} {v : DWord} {s : State} (kp : Memory.wf s.mem) : Memory.wf (winStore ofs v s).mem := by
  unfold winStore
  extract_lets
  repeat' first
    | with_reducible assumption
    | with_reducible apply keeps_ite
    | with_reducible apply keeps_evQcfgWrite
    | with_reducible apply keeps_evQptrWrite
    | with_reducible apply keeps_evLaunchCounterWrite
    | with_reducible apply keeps_evResvWrite
    | with_reducible apply keeps_evMindlWrite
    | with_reducible apply keeps_evSavePoolWrite
    | with_reducible apply keeps_evTrcfgWrite
    | with_reducible apply keeps_evRfrzWrite
    | with_reducible apply keeps_evDbgstop
    | with_reducible apply keeps_evDbgres
    | with_reducible apply keeps_evRxcfgWrite
    | with_reducible apply keeps_evTxtailWrite
    | with_reducible apply keeps_hcmdStore
    | with_reducible apply keeps_evCspcfgWrite
    | with_reducible apply keeps_evContextTableWrite
    | with_reducible refine keeps_windowed (fun _ _ => ?_) ?_
    | with_reducible apply keeps_plainStore

theorem keeps_evRegWrite {ofs : Nat} {v : BitVec 64} {s : State} (kp : Memory.wf s.mem) : Memory.wf (evRegWrite ofs v s).mem := by
  unfold evRegWrite
  repeat' first
   | with_reducible assumption
   | with_reducible apply keeps_winStore

theorem keeps_evWinWrite {ofs : Nat} {v : DWord} {half g op : Nat} {s : State} (kp : Memory.wf s.mem) :
    Memory.wf (evWinWrite ofs v half g op s).mem := by
  unfold evWinWrite
  repeat' first
   | with_reducible assumption
   | with_reducible apply keeps_winDone
   | with_reducible apply keeps_winStore
   | dsimp only
   | split

theorem keeps_registerUe {s : State} {idx : Nat} (kp : Memory.wf s.mem) : Memory.wf (registerUe s idx).mem := by
  unfold registerUe
  repeat' first
   | with_reducible assumption
   | with_reducible apply keeps_State_modGroup

theorem keeps_cacheError {s : State} {idx : Nat} {e : ErrKind} (kp : Memory.wf s.mem) : Memory.wf (cacheError s idx e).mem := by
  unfold cacheError
  repeat' first
   | with_reducible assumption
   | with_reducible apply keeps_State_modCluster
   | with_reducible apply keeps_dropFrom
   | with_reducible apply keeps_countError
   | dsimp only
   | split

theorem keeps_poisonFrame {s : State} {frame : Nat} (kp : Memory.wf s.mem) : Memory.wf (poisonFrame s frame).mem := by
  unfold poisonFrame
  repeat' first
   | with_reducible assumption
   | with_reducible apply keeps_setUe
   | with_reducible apply keeps_State_modCore
   | with_reducible apply keeps_State_modCluster
   | with_reducible refine keeps_foldl (fun _ _ _ => ?_) ?_

theorem keeps_evSramScrub {cls idx : Nat} {e : ErrKind} {s : State} (kp : Memory.wf s.mem) : Memory.wf (evSramScrub cls idx e s).mem := by
  unfold evSramScrub
  repeat' first
   | with_reducible assumption
   | with_reducible apply keeps_setUe
   | with_reducible apply keeps_State_modCore
   | with_reducible apply keeps_countError
   | with_reducible apply keeps_evDramScrub
   | with_reducible apply keeps_registerUe
   | with_reducible apply keeps_cacheError
   | with_reducible apply keeps_poisonFrame
   | split

/-! ### Replies.lean -/

theorem keeps_fetchFault {s : State} {g va cause sub : Nat} (kp : Memory.wf s.mem) : Memory.wf (fetchFault s g va cause sub).mem := by
  unfold fetchFault
  repeat' first
   | with_reducible assumption
   | with_reducible apply keeps_State_modGroup

theorem keeps_fetchData {core g va : Nat} {r : Req} {gr : Grant} {race ue : BitVec 32} {s : State} (kp : Memory.wf s.mem) :
    Memory.wf (fetchData core g va r gr race ue s).mem := by
  unfold fetchData
  repeat' first
   | with_reducible assumption
   | with_reducible apply keeps_State_modGroup
   | with_reducible apply keeps_takeFill
   | with_reducible apply keeps_icPut
   | dsimp only
   | split

theorem keeps_giveVerdict {v : Verdict} {s : State} {w : WalkWait} (kp : Memory.wf s.mem) : Memory.wf (giveVerdict v s w).mem := by
  unfold giveVerdict
  repeat' first
   | with_reducible assumption
   | with_reducible apply keeps_fetchStart
   | with_reducible apply keeps_engAdvance
   | with_reducible apply keeps_lsuStep
   | with_reducible apply keeps_gscTake
   | with_reducible apply keeps_maintStep
   | with_reducible apply keeps_freezeStep
   | with_reducible apply keeps_fetchFault
   | split

theorem keeps_walkGive {r : State × Option (Verdict × List WalkWait)} (kp : Memory.wf r.1.mem) : Memory.wf (walkGive r).mem := by
  obtain ⟨rs, re⟩ := r
  unfold walkGive
  repeat' first
   | with_reducible assumption
   | with_reducible apply keeps_giveVerdict
   | with_reducible refine keeps_foldl (fun _ _ _ => ?_) ?_
   | split

theorem keeps_evWalkStart {c : Nat} {s : State} (kp : Memory.wf s.mem) : Memory.wf (evWalkStart c s).mem := by
  unfold evWalkStart
  repeat' first
   | with_reducible assumption
   | with_reducible apply keeps_walkBegin
   | with_reducible apply keeps_walkGive

theorem keeps_evWalkComplete {c asid region : Nat} {s : State} (kp : Memory.wf s.mem) : Memory.wf (evWalkComplete c asid region s).mem := by
  unfold evWalkComplete
  repeat' first
   | with_reducible assumption
   | with_reducible apply keeps_walkEnd
   | with_reducible apply keeps_walkGive

theorem keeps_evData {r : Req} {gr : Grant} {race ue : BitVec 32} {s : State} (kp : Memory.wf s.mem) :
    Memory.wf (evData r gr race ue s).mem := by
  unfold evData
  repeat' first
   | with_reducible assumption
   | with_reducible apply keeps_State_wire
   | with_reducible apply keeps_evCount
   | with_reducible apply keeps_walkReply
   | with_reducible apply keeps_engReply
   | with_reducible apply keeps_lsuData
   | with_reducible apply keeps_queueData
   | with_reducible apply keeps_fetchData
   | with_reducible apply keeps_walkGive
   | split

theorem keeps_evFlt {r : Req} {cause sub : Nat} {s : State} (kp : Memory.wf s.mem) : Memory.wf (evFlt r cause sub s).mem := by
  unfold evFlt
  repeat' first
   | with_reducible assumption
   | with_reducible apply keeps_endFill
   | with_reducible apply keeps_walkFlt
   | with_reducible apply keeps_engFlt
   | with_reducible apply keeps_lsuFlt
   | with_reducible apply keeps_storeFlt
   | with_reducible apply keeps_gscFlt
   | with_reducible apply keeps_fetchFault
   | with_reducible apply keeps_walkGive
   | dsimp only
   | split

/-! ### Wires.lean -/

theorem keeps_runMsg {m : Msg} {s : State} (kp : Memory.wf s.mem) : Memory.wf (runMsg m s).mem := by
  unfold runMsg
  repeat' first
   | with_reducible assumption
   | with_reducible apply keeps_eretTry
   | with_reducible apply keeps_evReq
   | with_reducible apply keeps_evWb
   | with_reducible apply keeps_evAck
   | with_reducible apply keeps_evInv
   | with_reducible apply keeps_evRcl
   | with_reducible apply keeps_evBisnpResponse
   | with_reducible apply keeps_evCxlCacheResponse
   | with_reducible apply keeps_evDramFill
   | with_reducible apply keeps_evL2Watchdog
   | with_reducible apply keeps_evDeferredFault
   | with_reducible apply keeps_evWcFlush
   | with_reducible apply keeps_evGscWindowTimeout
   | with_reducible apply keeps_evGscInputDequeue
   | with_reducible apply keeps_evGscReply
   | with_reducible apply keeps_evFreezeAck
   | with_reducible apply keeps_evFreezeSliceReport
   | with_reducible apply keeps_evCollect
   | with_reducible apply keeps_evThawAck
   | with_reducible apply keeps_evJoinComplete
   | with_reducible apply keeps_evLeaveComplete
   | with_reducible apply keeps_evBceStart
   | with_reducible apply keeps_evBcePart
   | with_reducible apply keeps_evBceComplete
   | with_reducible apply keeps_evBceFault
   | with_reducible apply keeps_evAtloadComplete
   | with_reducible apply keeps_evTschAccept
   | with_reducible apply keeps_evTschStart
   | with_reducible apply keeps_evTaskComplete
   | with_reducible apply keeps_evMatrixChunk
   | with_reducible apply keeps_evEnginePark
   | with_reducible apply keeps_evDrainComplete
   | with_reducible apply keeps_evBatonResume
   | with_reducible apply keeps_evBatonTimeout
   | with_reducible apply keeps_evLeafAccept
   | with_reducible apply keeps_evCqeNodeRead
   | with_reducible apply keeps_evCqePark
   | with_reducible apply keeps_evSpawnPlace
   | with_reducible apply keeps_evRelayGroupPlace
   | with_reducible apply keeps_evBarrierArrival
   | with_reducible apply keeps_evPhasePass
   | with_reducible apply keeps_evSemvAdd
   | with_reducible apply keeps_evStageQueuePush
   | with_reducible apply keeps_evDeadlineExpiry
   | with_reducible apply keeps_evRelayTimeout
   | with_reducible apply keeps_evInvalidationComplete
   | with_reducible apply keeps_evInstrComplete
   | with_reducible apply keeps_evTailLineReread
   | with_reducible apply keeps_evLaunchRecordRead
   | with_reducible apply keeps_evBlockPlace
   | with_reducible apply keeps_evBlockEnd
   | with_reducible apply keeps_evLaunchComplete
   | with_reducible apply keeps_evRecordDone
   | with_reducible apply keeps_evResvTakeEffect
   | with_reducible apply keeps_evGroupSave
   | with_reducible apply keeps_evGroupRestore
   | with_reducible apply keeps_evGroupWatchdog
   | with_reducible apply keeps_evRxDone
   | with_reducible apply keeps_evTxSendDescriptor
   | with_reducible apply keeps_evTraceWrite
   | with_reducible apply keeps_evHcmdComplete
   | with_reducible apply keeps_evHcmdGo
   | with_reducible apply keeps_evWinWrite
   | with_reducible apply keeps_evWalkStart
   | with_reducible apply keeps_evWalkComplete
   | with_reducible apply keeps_evData
   | with_reducible apply keeps_evFlt
   | split

theorem keeps_runWire {s : State} {n : Nat} (kp : Memory.wf s.mem) : Memory.wf (runWire s n).mem := by
  unfold runWire
  repeat' first
   | with_reducible assumption
   | with_reducible apply keeps_runMsg
   | dsimp only
   | split

/-! ### Next.lean -/

theorem keeps_unstall {s : State} (kp : Memory.wf s.mem) : Memory.wf (unstall s).mem := kp

theorem keeps_State_turn {s : State} {g : Nat} (kp : Memory.wf s.mem) : Memory.wf (State.turn s g).mem := by
  unfold State.turn
  repeat' first
   | with_reducible assumption
   | with_reducible apply keeps_State_modGroup
   | with_reducible apply keeps_unstall

theorem keeps_dueLaunches {s : State} (kp : Memory.wf s.mem) : Memory.wf (dueLaunches s).mem := by
  unfold dueLaunches
  repeat' first
   | with_reducible assumption
   | with_reducible apply keeps_State_wireOnce
   | with_reducible refine keeps_foldl (fun _ _ _ => ?_) ?_
   | split

theorem keeps_dueGroup {s : State} {g : Nat} {gr : Group} (kp : Memory.wf s.mem) : Memory.wf (dueGroup s g gr).mem := by
  unfold dueGroup
  repeat' first
   | with_reducible assumption
   | with_reducible apply keeps_State_modGroup
   | with_reducible apply keeps_State_wireOnce
   | with_reducible apply keeps_evPriorityAging
   | dsimp only
   | split

theorem keeps_dueCore {s : State} {c : Nat} {k : Core} (kp : Memory.wf s.mem) : Memory.wf (dueCore s c k).mem := by
  unfold dueCore
  repeat' first
   | with_reducible assumption
   | with_reducible apply keeps_State_wireOnce
   | with_reducible apply keeps_bindWaiters
   | with_reducible apply keeps_evTsliceExpiry
   | with_reducible refine keeps_foldl (fun _ _ _ => ?_) ?_
   | dsimp only
   | split

theorem keeps_dueCluster {s : State} {c : Nat} {k : Cluster} (kp : Memory.wf s.mem) : Memory.wf (dueCluster s c k).mem := by
  unfold dueCluster
  repeat' first
   | with_reducible assumption
   | with_reducible apply keeps_State_wireOnce
   | split

theorem keeps_dueSamples {s : State} {before : Nat} (kp : Memory.wf s.mem) : Memory.wf (dueSamples s before).mem := by
  unfold dueSamples
  repeat' first
   | with_reducible assumption
   | with_reducible apply keeps_evTraceSample
   | with_reducible refine keeps_foldl (fun _ _ _ => ?_) ?_
   | dsimp only
   | split

theorem keeps_passTime {s : State} {ns : Nat} (kp : Memory.wf s.mem) : Memory.wf (passTime s ns).mem := by
  unfold passTime
  repeat' first
   | with_reducible assumption
   | with_reducible apply keeps_evCount
   | with_reducible apply keeps_walkKick
   | with_reducible apply keeps_fetchKick
   | with_reducible apply keeps_dueL2
   | with_reducible apply keeps_tryRetain
   | with_reducible apply keeps_evRetainExit
   | with_reducible apply keeps_evIdleEntry
   | with_reducible apply keeps_dueLaunches
   | with_reducible apply keeps_dueGroup
   | with_reducible apply keeps_dueCore
   | with_reducible apply keeps_dueCluster
   | with_reducible apply keeps_dueSamples
   | with_reducible refine keeps_foldl (fun _ _ _ => ?_) ?_
   | dsimp only
   | split

end Sys2Proof.Machine
end

