-- ==== Sys2Proof/Laws/KeepsExec.lean ====
section
/-!
SUPPORT. Global memory keeps its canonical form under every arm of the dispatch.
-/

namespace Sys2Proof.Machine

open Sys2Proof

/-- The effect of every instruction keeps the canonical form of memory. -/
theorem keeps_meaning {i : Instr} {m : Meaning} (h : meaningOf i = some m) {c : Ctx} {s : State} (kp : Memory.wf s.mem) :
    Memory.wf (m.act c s).1.mem := by
  cases i <;> cases h
  exacts [
    keeps_iaddSem kp, keeps_iaddSem kp, keeps_isubSem kp, keeps_isubSem kp, keeps_imulSem kp, keeps_imulSem kp, keeps_imulhSem kp,
    keeps_imulhSem kp, keeps_imadSem kp, keeps_imadSem kp, keeps_iminSem kp, keeps_iminSem kp, keeps_imaxSem kp, keeps_imaxSem kp,
    keeps_iabsSem kp, keeps_iabsSem kp, keeps_andSem kp, keeps_andSem kp, keeps_orSem kp, keeps_orSem kp, keeps_xorSem kp,
    keeps_xorSem kp, keeps_andnSem kp, keeps_andnSem kp, keeps_shlSem kp, keeps_shlSem kp, keeps_shrSem kp, keeps_shrSem kp,
    keeps_sarSem kp, keeps_sarSem kp, keeps_notSem kp, keeps_notSem kp, keeps_movSem kp, keeps_movSem kp, keeps_liSem kp,
    keeps_liSem kp, keeps_leaSem kp, keeps_leaSem kp, keeps_iaddImmSem kp, keeps_iaddImmSem kp, keeps_shlImmSem kp,
    keeps_shlImmSem kp, keeps_shrImmSem kp, keeps_shrImmSem kp, keeps_sarImmSem kp, keeps_sarImmSem kp, keeps_andImmSem kp,
    keeps_andImmSem kp, keeps_rotSem kp, keeps_bfeSem kp, keeps_bfiSem kp, keeps_popcSem kp, keeps_clzSem kp, keeps_brevSem kp,
    keeps_selSem kp, keeps_icmpSem kp, keeps_plopSem kp, keeps_brmhSem kp, keeps_faddSem kp, keeps_faddSem kp, keeps_fsubSem kp,
    keeps_fsubSem kp, keeps_fmulSem kp, keeps_fmulSem kp, keeps_ffmaSem kp, keeps_ffmaSem kp, keeps_fminSem kp, keeps_fminSem kp,
    keeps_fmaxSem kp, keeps_fmaxSem kp, keeps_fabsSem kp, keeps_fabsSem kp, keeps_fnegSem kp, keeps_fnegSem kp, keeps_rcpSem kp,
    keeps_rcpSem kp, keeps_rsqSem kp, keeps_rsqSem kp, keeps_sqrtSem kp, keeps_sqrtSem kp, keeps_exp2Sem kp, keeps_exp2Sem kp,
    keeps_log2Sem kp, keeps_log2Sem kp, keeps_tanhSem kp, keeps_tanhSem kp, keeps_sigmSem kp, keeps_sigmSem kp, keeps_fcmpSem kp,
    keeps_dot2Sem kp, keeps_dot4Sem kp, keeps_cvtSem kp, keeps_cvtsrSem kp, keeps_frndSem kp, keeps_rngSem kp, keeps_sinSem kp,
    keeps_cosSem kp, keeps_geluSem kp, keeps_siluSem kp, keeps_erfSem kp, keeps_actSem kp, keeps_atloadSem kp, keeps_atstatSem kp,
    keeps_ldgSem kp, keeps_ldgSem kp, keeps_stgSem kp, keeps_stgSem kp, keeps_ldsSem kp, keeps_ldsSem kp, keeps_stsSem kp,
    keeps_stsSem kp, keeps_ldkSem kp, keeps_ldkSem kp, keeps_stkSem kp, keeps_stkSem kp, keeps_ldxSem kp, keeps_ldxSem kp,
    keeps_stxSem kp, keeps_stxSem kp, keeps_ldlSem kp, keeps_ldlSem kp, keeps_stlSem kp, keeps_stlSem kp, keeps_ldgcSem kp,
    keeps_ldgcSem kp, keeps_stgcSem kp, keeps_stgcSem kp, keeps_pfgSem kp, keeps_pfgSem kp, keeps_cflushSem kp, keeps_cinvSem kp,
    keeps_ccleanSem kp, keeps_freezeSem kp, keeps_thawSem kp, keeps_frzqSem kp, keeps_joinSem kp, keeps_leaveSem kp, keeps_tdefSem
    kp, keeps_tcopySem kp, keeps_tstoreSem kp, keeps_tstatSem kp, keeps_atomGSem kp, keeps_atomSSem kp, keeps_atomKSem kp,
    keeps_atomXSem kp, keeps_casGSem kp, keeps_casSSem kp, keeps_casKSem kp, keeps_casXSem kp, keeps_tmmSem kp, keeps_ttaskSem kp,
    keeps_tdepSem kp, keeps_azeroSem kp, keeps_adrainSem kp, keeps_aownSem kp, keeps_asaveSem kp, keeps_aloadSem kp,
    keeps_leafcfgSem kp, keeps_leafSem kp, keeps_leafFlushSem kp, keeps_cqraySem kp, keeps_cqsphSem kp, keeps_cqboxSem kp,
    keeps_fwaitSem kp, keeps_fpollSem kp, keeps_fdropSem kp, keeps_hcfgSem kp, keeps_haddSem kp, keeps_hdrainSem kp,
    keeps_spkpopSem kp, keeps_spkstatSem kp, keeps_allocSem kp, keeps_freeSem kp, keeps_poolcfgSem kp, keeps_brSem kp, keeps_brSem
    kp, keeps_callSem kp, keeps_callSem kp, keeps_retSem kp, keeps_retSem kp, keeps_exitSem kp, keeps_exitSem kp, keeps_brxSem kp,
    keeps_brxSem kp, keeps_nopSem kp, keeps_nopSem kp, keeps_yieldSem kp, keeps_yieldSem kp, keeps_shflIdxSem kp, keeps_shflIdxSem
    kp, keeps_shflUpSem kp, keeps_shflUpSem kp, keeps_shflDownSem kp, keeps_shflDownSem kp, keeps_shflXorSem kp, keeps_shflXorSem
    kp, keeps_bcastSem kp, keeps_bcastSem kp, keeps_voteSem kp, keeps_laneqSem kp, keeps_matchSem kp, keeps_csrrSem kp,
    keeps_csrrSem kp, keeps_csrwSem kp, keeps_csrwSem kp, keeps_benrolSem kp, keeps_bjoinSem kp, keeps_barSem kp, keeps_guardSem
    kp, keeps_sempSem kp, keeps_semvSem kp, keeps_spawnSem kp, keeps_subtreeSem kp, keeps_cancelSem kp, keeps_bestmaxSem kp,
    keeps_qpushSem kp, keeps_qpopSem kp, keeps_setwSem kp, keeps_reduceSem kp, keeps_scanSem kp, keeps_compactSem kp,
    keeps_regroupSem kp, keeps_regroupFlushSem kp, keeps_fenceSem kp, keeps_xfenceSem kp, keeps_trapSem kp, keeps_eretSem kp,
    keeps_tlbiSem kp, keeps_asidswSem kp, keeps_carveSem kp, keeps_bkptSem kp, keeps_haltSem kp, keeps_traceSem kp]

/-- The step of every agent row keeps the canonical form of memory. -/
theorem keeps_event {i : Instr} {F : State → State} (h : eventOf i = some F) {s : State} (kp : Memory.wf s.mem) :
    Memory.wf (F s).mem := by
  cases i <;> first
    | (have e := Option.some.inj h; subst e)
    | nomatch h
  exacts [
    keeps_evInstrComplete kp, keeps_evDeferredFault kp, keeps_evBlockEnd kp, keeps_evDramScrub kp, keeps_evWalkStart kp,
    keeps_evWalkComplete kp, keeps_evWcFlush kp, keeps_evInvalidationComplete kp, keeps_evRds kp, keeps_evRdo kp, keeps_evUpg kp,
    keeps_evRdu kp, keeps_evWru kp, keeps_evAtm kp, keeps_evWb kp, keeps_evAck kp, keeps_evInv kp, keeps_evRcl kp, keeps_evData
    kp, keeps_evFlt kp, keeps_evL2Watchdog kp, keeps_evHostSnoop kp, keeps_evBisnpResponse kp, keeps_evCxlCacheResponse kp,
    keeps_evFreezeAck kp, keeps_evFreezeSliceReport kp, keeps_evCollect kp, keeps_evThawAck kp, keeps_evGscInputDequeue kp,
    keeps_evGscWindowTimeout kp, keeps_evGscReply kp, keeps_evJoinComplete kp, keeps_evLeaveComplete kp, keeps_evBceStart kp,
    keeps_evBceComplete kp, keeps_evBceFault kp, keeps_evAtloadComplete kp, keeps_evTschAccept kp, keeps_evTschStart kp,
    keeps_evMatrixChunk kp, keeps_evEnginePark kp, keeps_evDrainComplete kp, keeps_evTaskComplete kp, keeps_evBatonTimeout kp,
    keeps_evBatonResume kp, keeps_evLeafAccept kp, keeps_evCqeNodeRead kp, keeps_evCqePark kp, keeps_evRelayTimeout kp,
    keeps_evRelayGroupPlace kp, keeps_evSpawnPlace kp, keeps_evBarrierArrival kp, keeps_evPhasePass kp, keeps_evSemvAdd kp,
    keeps_evStageQueuePush kp, keeps_evDeadlineExpiry kp, keeps_evPriorityAging kp, keeps_evGroupWatchdog kp, keeps_evTsliceExpiry
    kp, keeps_evGroupSave kp, keeps_evGroupRestore kp, keeps_evTailLineReread kp, keeps_evLaunchRecordRead kp, keeps_evBlockPlace
    kp, keeps_evLaunchComplete kp, keeps_evResvTakeEffect kp, keeps_evQcfgWrite kp, keeps_evQptrWrite kp,
    keeps_evLaunchCounterWrite kp, keeps_evResvWrite kp, keeps_evMindlWrite kp, keeps_evSavePoolWrite kp,
    keeps_evContextTableWrite kp, keeps_evCspcfgWrite kp, keeps_evRxcfgWrite kp, keeps_evTxtailWrite kp, keeps_evTxSendDescriptor
    kp, keeps_evTrcfgWrite kp, keeps_evRfrzWrite kp, keeps_evDbgstop kp, keeps_evDbgres kp, keeps_evRegWrite kp,
    keeps_evHcmdTlbiRange kp, keeps_evHcmdTlbiAsid kp, keeps_evHcmdTlbiNonglobal kp, keeps_evHcmdTlbiAll kp, keeps_evFrzkill kp,
    keeps_evHcmdI3cTransfer kp, keeps_evAttest kp, keeps_evIdcert kp, keeps_evHcmdComplete kp, keeps_evCsiFrameStart kp,
    keeps_evCsiLongPacket kp, keeps_evCsiFrameEnd kp, keeps_evLinkRetry kp, keeps_evTraceSample kp, keeps_evI3cPlimWrite kp,
    keeps_evI3cWarmReset kp, keeps_evI3cColdReset kp, keeps_evI3cRecovWrite kp, keeps_evRdata kp, keeps_evReset kp,
    keeps_evThermalAlert kp, keeps_evThermalReset kp, keeps_evGovernorStep kp, keeps_evIdleEntry kp, keeps_evRetainExit kp,
    keeps_evSramScrub kp, keeps_evDramFill kp, keeps_evHcmdBadOp kp, keeps_evAlertClear kp, keeps_evDynamicAddressAssign kp]

/-- What a waiting instruction does keeps the canonical form of memory: only LEAF and POOLCFG do anything. -/
theorem keeps_onStall {i : Instr} {m : Meaning} (h : meaningOf i = some m) {c : Ctx} {s : State} (kp : Memory.wf s.mem) :
    Memory.wf (m.onStall c s).mem := by
  cases i <;> cases h <;> first
    | (dsimp only [leafSem]
       split
       · exact keeps_batonFire kp
       · exact kp)
    | (dsimp only [poolcfgSem]
       split
       · exact kp
       · exact keeps_engBegin kp)
    | exact kp

/-- The records that a stopped instruction leaves: those of an access, or none. -/
theorem notes_cases {i : Instr} {m : Meaning} (h : meaningOf i = some m) : m.notes = watchLog ∨ m.notes = fun _ s => s := by
  cases i <;> cases h <;> first
    | exact .inr rfl
    | exact .inl rfl

/-- They keep the canonical form of memory. -/
theorem keeps_notes {i : Instr} {m : Meaning} (h : meaningOf i = some m) {c : Ctx} {s : State} (kp : Memory.wf s.mem) :
    Memory.wf (m.notes c s).mem := by
  obtain e | e := notes_cases h
  · rw [e]
    exact keeps_watchLog kp
  · rw [e]
    exact kp

/-- An engine fault that an instruction takes keeps the canonical form of memory: only FWAIT takes one. -/
theorem keeps_engine {i : Instr} {m : Meaning} (h : meaningOf i = some m) {c : Ctx} {s t : State} {e : EFault}
    (he : m.engine c s = some (e, t)) (kp : Memory.wf s.mem) : Memory.wf t.mem := by
  cases i <;> cases h <;> first
    | cases he
    | (simp only [fwaitSem] at he
       split at he
       · cases he
       · cases he
         exact keeps_foldl (fun _ _ h => keeps_State_modGroup h) kp)

/-- The issue of an instruction keeps the canonical form of memory. -/
theorem keeps_issue {i : Instr} {op : Nat} {f : EForm} {m : Meaning} (h : meaningOf i = some m) {s t : State}
    (e : issue op f m s = .next t) (kp : Memory.wf s.mem) : Memory.wf t.mem := by
  unfold issue at e
  dsimp only at e
  split at e
  · cases e
  · split at e
    · split at e
      · cases e
        exact keeps_cutRun kp
      · split at e
        · cases e
          exact keeps_stallGroup kp
        · split at e
          · rename_i he
            cases e
            split at he
            · exact keeps_trapEngine (keeps_engine h he kp)
            · cases he
          · cases e
            exact keeps_trapPrecise (keeps_ite (keeps_notes h kp) kp)
    · split at e
      · cases e
        exact keeps_advance (keeps_State_modGroup kp)
      · split at e
        · cases e
          exact keeps_cutRun kp
        · split at e
          · cases e
            exact keeps_stopAt (keeps_notes h kp)
          · split at e
            · cases e
              apply keeps_stallGroup
              split
              · exact keeps_onStall h kp
              · exact kp
            · cases e
              exact keeps_advance (keeps_afterAct (keeps_meaning h kp))

/-- The issue of a run header keeps the canonical form of memory. -/
theorem keeps_issueRun {h : HForm} {s t : State} (e : issueRun h s = .next t) (kp : Memory.wf s.mem) : Memory.wf t.mem := by
  unfold issueRun at e
  dsimp only at e
  split at e
  · cases e
  · split at e
    · cases e
    · split at e
      · cases e
        exact keeps_ite (keeps_unissue kp) (keeps_headerTrap (keeps_State_modGroup kp))
      · split at e
        · cases e
          exact keeps_unissue kp
        · cases e
          exact keeps_ite (keeps_unissue kp) (keeps_headerTrap (keeps_State_modGroup kp))
        · split at e
          · cases e
            exact keeps_engineTrap kp
          · cases e
            exact keeps_startRun kp

/-- Every arm of the dispatch keeps the canonical form of memory. -/
theorem keeps_exec {i : Instr} {s t : State} (e : exec i s = .next t) (kp : Memory.wf s.mem) : Memory.wf t.mem := by
  obtain ⟨h, rfl⟩ | hp | hv := parts_or_event i
  · exact keeps_issueRun e kp
  · obtain ⟨⟨op, f⟩, hp⟩ := Option.isSome_iff_exists.1 hp
    obtain ⟨m, hm, he⟩ := exec_of_parts i s hp
    exact keeps_issue hm (he ▸ e) kp
  · obtain ⟨F, hF⟩ := Option.isSome_iff_exists.1 hv
    cases (exec_of_event i s hF).symm.trans e
    exact keeps_event hF kp

end Sys2Proof.Machine
end

