-- ==== Sys2Proof/Tests/Slice0.lean ====
section
/-!
SUPPORT. Tests: words of the spec decode to what they stand for, every check of well-formedness refuses a term that it is there to
refuse, worked examples and edge cases of the spec give the values the spec gives, every instruction issues in some state, and every
statement with hypotheses has a case that meets them.
-/

namespace Sys2Proof.Tests

open Sys2Proof Sys2Proof.Machine

set_option Elab.async false

/-! ### Helpers -/

/-- A B-form guarded by p15. -/
def b0 : BForm := { g := 15, b := 0, a := 0, d := 0, h := false }

/-- An E-form guarded by p15 with every other field zero. -/
def e0 : EForm :=
  { g0 := 15, a := 0, d := 0, z := false, gc := 0, g1 := 0, e := 0, c := 0, b := 0, mod := 0, span := 0, cache := 0, fsel := 0,
    sc := false, sb := false, sa := false, ord := 0, scope := 0, sat := false, rnd := 0, type := 0, lit := none }

/-- The words decode to exactly this instruction, whatever follows. -/
def readsAs (ws : List Word) (i : Instr) : Bool := decide (decodeWords (ws ++ [0xFFFFFFFF]) = .ok (i, ws.length))

/-- The key of the placed group and of its block and launch. -/
def G : Nat := State.reset.nextId

/-- A placed instruction at its turn, its group prepared. -/
def placed (nbits w : Nat) (prep : Group → Group) : State :=
  (({ State.reset.withFetchWord nbits w with agenda := [] } : State).turn G).modGroup G prep

/-- The bits of three words. -/
def bits3 (w0 w1 w2 : Nat) : Nat := w0 + 2 ^ 32 * w1 + 2 ^ 64 * w2

/-- The group after one instruction has run. -/
def after (nbits w : Nat) (prep : Group → Group) : Group :=
  match step (((State.reset.withFetchWord nbits w).modGroup G prep)) with
  | .next t => t.group G
  | _ => Group.reset

/-- v2, v3 and v4 in lane 0. -/
def vs (x y z : Word) (gr : Group) : Group := ((gr.wrV 2 0 x false).wrV 3 0 y false).wrV 4 0 z false

/-- A dword of the register window. -/
def win (s : State) (o v : Nat) : State := { s with win := tput s.win (o / 8) (BitVec.ofNat 64 v) }

/-- A block and launch with scratchpads, tiles and stage queues, a share window onto the block itself, a context with privilege and a
handler, an activation table, a baton queue, a bound hash accumulator, a spike queue with one event, a pool and a frozen region, each
of number 0; some scalar registers are set. -/
def rich (s : State) : State :=
  let la := s.launch G
  let d := 256 * 2 ^ 84 + 64 * 2 ^ 72 + 32 * 2 ^ 60 + 3 * 2 ^ 53
  let tile : Tile := { Tile.reset with pitch := 256, cols := 64, rows := 32, fmt := 3, defd := true }
  let s := s.setLaunch G { la with
    record := la.record ||| BitVec.ofNat 1024 (0x400 * 2 ^ 280 + 8 * 2 ^ 301 + 8 * 2 ^ 297 + 3 * 2 ^ 504)
    xSize := 0x10000, deadline := 0xFFFFFFFF }
  let s := s.setBlock G { s.block G with
    spSize := 0x10000, tiles := List.range 8, accs := List.range 8, stage := 1, share := some (0, 0) }
  let s := win (win (win (win s (ctxOfs 1 3) (3 * 2 ^ 62)) (ctxOfs 1 1) 0x2001) 0x500000 (2 ^ 63 + 2 ^ 59 + 2 ^ 24)) 0x520040 1
  let s := s.modCore 0 fun c => { c with
    act := [(0, { ActTable.reset with valid := true, asid := 1 })]
    tiles := [(0, tile), (1, tile)]
    sp := [(0x1005, 1)] }
  let s := s.modCluster 0 fun c => { c with
    shares := [(0, { launch := G, key := 0, slots := [(0, { held := true, revoked := false, block := G, base := 0, len := 0x10000 })] })]
    hacc := { c.hacc with bound := some (G, 0) }
    baton := [(0, { Baton.reset with bound := true, launch := G, block := G })] }
  let s := { s with
    dev := { s.dev with
      spikes := [(0, { Spike.reset with evs := [5], times := [9] })]
      pools := [(0, { Pool.reset with en := true, asid := 1, count := 16, lsize := 5 })] }
    l2 := { s.l2 with fz := [(0, { FzEnt.reset with asid := 1, st := .frozen, count := 1 })] } }
  s.modGroup G fun gr =>
    [(2, 1), (3, 0x1000), (5, 64), (8, d), (9, d / 2 ^ 64), (10, 128), (11, 2 ^ 63 + 0x10000)].foldl
      (fun (gr : Group) e => gr.wrS e.1 (BitVec.ofNat 64 e.2) false) gr

/-- An instruction that the bits decode to issues in the state made for it, and the test holds of it, its state and its context. -/
def meetsIn (mk : Nat → Nat → State) (p : Instr → State → Ctx → Bool) (nbits w : Nat) : Bool :=
  match decodeTableWord nbits w with
  | none => false
  | some i => issuesB i (mk nbits w) && match i.parts with
    | none => false
    | some (op, f) => match issueCtx (mk nbits w) op f with
      | none => false
      | some c => p i (mk nbits w) c

/-- The same in the state of `rich`, with the group prepared. -/
def meets (prep : Group → Group) (p : Instr → State → Ctx → Bool) (w : Nat) : Bool :=
  meetsIn (fun n w => (rich (placed n w id)).modGroup G prep) p (if w % 4 == 0 then 32 else 96) w

/-- What the tests below stand for: an instruction, a state and a context for which `Issues` and the test hold. -/
theorem issues_of_meetsIn {mk : Nat → Nat → State} {p : Instr → State → Ctx → Bool} {n w : Nat} (h : meetsIn mk p n w = true) :
    ∃ i s c m, Issues i s c m ∧ p i s c = true := by
  unfold meetsIn at h
  split at h
  · cases h
  · rename_i i _
    rw [Bool.and_eq_true] at h
    obtain ⟨c, m, hi, hc⟩ := issues_of_issuesB h.1
    obtain ⟨-, h⟩ := h
    split at h
    · cases h
    · rename_i op f hp
      rw [hc op f hp] at h
      exact ⟨i, _, c, m, hi, h⟩

/-! ### Words of the spec -/
/-- 06, worked example of encodings; 09 R214. -/
theorem test_decode_integer :
    (readsAs [0x20C20400] (.iaddB { b0 with g := 2, b := 3, a := 2, d := 1 }) &&
    readsAs [0xF0C20480] (.iaddB { b0 with b := 3, a := 2, d := 1, h := true }) &&
    readsAs [0x40201001, 0x43000003, 0] (.iaddE { e0 with g0 := 4, g1 := 3, gc := 4, a := 2, d := 1, b := 3 }) &&
    readsAs [0xF0201001, 3, 0x89] (.iaddE { e0 with a := 2, d := 1, b := 3, type := 9, sat := true }) &&
    readsAs [0xF0007046, 0, 0, 0x12345678, 0] (.liE { e0 with d := 7, lit := some 0x12345678 }) &&
    readsAs [0xF04050A5, 0x0B0A, 0x20000000] (.brmh { e0 with d := 5, a := 4, b := 10, c := 11, mod := 8 }) &&
    readsAs [0xF050109D, 0x0002000B, 0x1400000E] (.icmp { e0 with d := 1, a := 5, b := 11, e := 2, mod := 5, type := 14 }) &&
    readsAs [0x12C51404] (.isubB { b0 with g := 1, b := 11, a := 5, d := 5 })) = true := by decide

/-- 10, worked example of CVT. -/
theorem test_decode_float :
    (readsAs [0xF050848D, 0x0100, 0x83] (.cvt { e0 with d := 8, a := 5, c := 1, type := 3, sat := true })) = true := by decide

/-- 06 R130; 13, 15 and 09, worked examples. -/
theorem test_decode_headers :
    (readsAs [0x38C84027] (.run { prio := 3, rgn := true, len := 3, setB := 2, setA := 1, wait := 9 }) &&
    readsAs [0x01FFC003] (.run { prio := 0, rgn := false, len := 7, setB := 15, setA := 15, wait := 0 })) = true := by decide

/-- 07 R165 to R182. -/
theorem test_decode_memory :
    (readsAs [0xF1C30A08] (.ldsB { b0 with b := 7, a := 3, d := 2 }) &&
    readsAs [0xF0004801, 1, 0x80010300] (.ldgE { e0 with d := 4, b := 1, mod := 32, fsel := 1, scope := 3 }) &&
    readsAs [0xF050980D, 0x403F, 0x04004300] (.stsE { e0 with d := 9, a := 5, b := 63, c := 64, mod := 1, sb := true, scope := 3 }) &&
    readsAs [0xF0402925, 0x00850005, 0x00010000] (.tcopy { e0 with d := 2, a := 4, b := 5, e := 0x85, fsel := 1 }) &&
    readsAs [0xF020A941, 0x0403, 0x24011B00] (.atomG { e0 with d := 10, a := 2, b := 3, c := 4, mod := 9, fsel := 1, ord := 3, scope := 3 }) &&
    readsAs [0xF0000D81, 0, 0x00011300] (.fence { e0 with fsel := 1, ord := 2, scope := 3 }) &&
    readsAs [0xF0000D85, 0x0401, 0x00010300] (.xfence { e0 with b := 1, c := 4, fsel := 1, scope := 3 })) = true := by decide

/-- 12 R291 to R295; 13 R301, R315 to R321, R353. -/
theorem test_decode_engines :
    (readsAs [0xF0400981, 0x00070605, 0x00010000] (.tmm { e0 with a := 4, b := 5, c := 6, e := 7, fsel := 1 }) &&
    readsAs [0xF0800991, 0x000B0A09, 0x00010300] (.adrain { e0 with a := 8, b := 9, c := 10, e := 11, fsel := 1, scope := 3 }) &&
    readsAs [0xF003F989, 0x0501, 0x08000000] (.tdep { e0 with d := 63, b := 1, c := 5, mod := 2 }) &&
    readsAs [0xF08029A5, 0x0300, 0x00010000] (.leaf { e0 with d := 2, a := 8, c := 3, fsel := 1 }) &&
    readsAs [0xF08039C1, 0x0504, 0x00010000] (.cqray { e0 with d := 3, a := 8, b := 4, c := 5, fsel := 1 }) &&
    readsAs [0xF03149CD, 0x00020100, 0x00010000] (.fwait { e0 with d := 0x14, a := 3, c := 1, e := 2, fsel := 1 }) &&
    readsAs [0xF04009DD, 5, 0] (.hadd { e0 with a := 4, b := 5 }) &&
    readsAs [0xF000A9E5, 0x00030400, 0x00010000] (.spkpop { e0 with d := 10, c := 4, e := 3, fsel := 1 })) = true := by decide

/-- 11 R258, R262; 11, worked example of one sum. -/
theorem test_decode_cross_lane :
    (readsAs [0xF4020F2C] (.shflXorB { b0 with b := 16, a := 2, d := 3 }) &&
    readsAs [0xF0204D45, 0, 0xE0000000] (.reduce { e0 with d := 4, a := 2, mod := 0x38 }) &&
    readsAs [0xF0005D41, 0x20, 0x08000000] (.setw { e0 with d := 5, b := 32, mod := 2 })) = true := by decide

/-- 15 R354 to R373. -/
theorem test_decode_control :
    (readsAs [0x3FFFD300] (.brB { b0 with g := 3, b := 0x3F, a := 0x3F, d := 0x34 }) &&
    readsAs [0xF0205304] (.callB { b0 with a := 0x20, d := 0x14 }) &&
    readsAs [0xF0140308] (.retB { b0 with a := 0x14 }) &&
    readsAs [0xF000030C] (.exitB b0) &&
    readsAs [0xF0000318] (.yieldB b0) &&
    readsAs [0xF0000D01, 0x0100, 0] (.benrol { e0 with c := 1 }) &&
    readsAs [0xF0000D09, 0x0300, 0x08000000] (.bar { e0 with c := 3, mod := 2 }) &&
    readsAs [0xF0000D15, 0x0201, 0x08000000] (.semv { e0 with b := 1, c := 2, mod := 2 }) &&
    readsAs [0xF0400D19, 0x00100005, 0x00010000] (.spawn { e0 with a := 4, b := 5, e := 16, fsel := 1 }) &&
    readsAs [0xF0600D25, 7, 0x00010000] (.bestmax { e0 with a := 6, b := 7, fsel := 1 })) = true := by decide

/-- 17 R416 to R425; 18 R440. -/
theorem test_decode_system :
    (readsAs [0xF0101740] (.csrrB { b0 with a := 0x10, d := 5 }) &&
    readsAs [0xF0064744] (.csrwB { b0 with a := 6, d := 0x11 }) &&
    readsAs [0xF0009C41, 0, 0x04000000] (.csrrE { e0 with d := 9, mod := 1 }) &&
    readsAs [0xF0000DC1, 7, 0] (.trap { e0 with b := 7 }) &&
    readsAs [0xF0000DC5, 0, 0] (.eret e0) &&
    readsAs [0xF0000DC9, 0x400, 0x04010000] (.tlbi { e0 with c := 4, mod := 1, fsel := 1 }) &&
    readsAs [0xF0203DD1, 0, 0x00010000] (.carve { e0 with d := 3, a := 2, fsel := 1 }) &&
    readsAs [0xF0900DDD, 5, 0] (.trace { e0 with a := 9, b := 5 })) = true := by decide

/-! ### Well-formedness -/

/-- The first term of each pair is well formed; the second, which breaks one rule, is not. -/
def refuses (ps : List (Instr × Instr)) : Bool := ps.all fun p => wellFormed p.1 && !wellFormed p.2

/-- The field rules of every opcode (06 R117, R125 to R129). -/
theorem test_ill_formed_fields :
    refuses [
      (.iaddE e0, .iaddE { e0 with z := true }),
      (.iaddE { e0 with gc := 5 }, .iaddE { e0 with gc := 6 }),
      (.iaddE { e0 with gc := 2, g1 := 1 }, .iaddE { e0 with gc := 0, g1 := 1 }),
      (.ldgE { e0 with fsel := 1, scope := 3 }, .ldgE { e0 with fsel := 3, scope := 3 }),
      (.nopE e0, .nopE { e0 with d := 1 }),
      (.nopE e0, .nopE { e0 with a := 1 }),
      (.nopE e0, .nopE { e0 with b := 1 }),
      (.nopE e0, .nopE { e0 with c := 1 }),
      (.nopE e0, .nopE { e0 with e := 1 }),
      (.iaddE { e0 with type := 6 }, .iaddE { e0 with type := 1 }),
      (.faddE { e0 with rnd := 3 }, .faddE { e0 with rnd := 4 }),
      (.andE e0, .andE { e0 with sat := true }),
      (.iaddE e0, .iaddE { e0 with scope := 1 }),
      (.iaddE e0, .iaddE { e0 with ord := 1 }),
      (.iaddE { e0 with mod := 32, sa := true, sb := true }, .iaddE { e0 with mod := 33, sa := true, sb := true }),
      (.exitE e0, .exitE { e0 with sa := true }),
      (.iabsE e0, .iabsE { e0 with sb := true }),
      (.iaddE e0, .iaddE { e0 with sc := true }),
      (.iaddE { e0 with mod := 32, sa := true, sb := true }, .iaddE { e0 with mod := 32, sa := false, sb := true }),
      (.iaddE { e0 with mod := 32, sa := true, sb := true }, .iaddE { e0 with mod := 32, sa := true, sb := false }),
      (.imadE { e0 with mod := 32, sa := true, sb := true, sc := true }, .imadE { e0 with mod := 32, sa := true, sb := true, sc := false }),
      (.iabsE e0, .iabsE { e0 with lit := some 0 }),
      (.iaddE { e0 with lit := some 0 }, .iaddE { e0 with lit := some 0, b := 1 }),
      (.bfi { e0 with lit := some 0 }, .bfi { e0 with lit := some 0, c := 1 }),
      (.leaE { e0 with lit := some 0 }, .leaE { e0 with lit := some 0, e := 1 }),
      (.brE { e0 with lit := some 0 }, .brE { e0 with lit := some 0, b := 1 }),
      (.tdep { e0 with d := 63, lit := some 0 }, .tdep { e0 with d := 63, lit := some 0, mod := 2 }),
      (.iaddE e0, .iaddE { e0 with fsel := 1 })] = true := by decide +kernel

/-- Register numbers and alignment (06 R117), and the half bit of a B-form (06 R144). -/
theorem test_ill_formed_registers :
    refuses [
      (.iaddE { e0 with sa := true, a := 63 }, .iaddE { e0 with sa := true, a := 64 }),
      (.plop { e0 with d := 15 }, .plop { e0 with d := 16 }),
      (.iaddE { e0 with type := 12, a := 2 }, .iaddE { e0 with type := 12, a := 3 }),
      (.ldsB b0, .ldsB { b0 with h := true }),
      (.exitB b0, .exitB { b0 with h := true })] = true := by decide +kernel

/-- Run headers (06 R134). -/
theorem test_ill_formed_headers :
    refuses [
      (.run { prio := 0, rgn := false, len := 1, setB := 15, setA := 15, wait := 0 }, .run { prio := 0, rgn := false, len := 0, setB := 15, setA := 15, wait := 0 }),
      (.run { prio := 0, rgn := false, len := 24, setB := 15, setA := 15, wait := 0 }, .run { prio := 0, rgn := false, len := 25, setB := 15, setA := 15, wait := 0 }),
      (.run { prio := 0, rgn := false, len := 1, setB := 15, setA := 11, wait := 0 }, .run { prio := 0, rgn := false, len := 1, setB := 15, setA := 12, wait := 0 }),
      (.run { prio := 0, rgn := false, len := 1, setB := 11, setA := 15, wait := 0 }, .run { prio := 0, rgn := false, len := 1, setB := 12, setA := 15, wait := 0 })] = true := by decide +kernel

/-- 09 R221, R222. -/
theorem test_ill_formed_integer :
    refuses [
      (.sel { e0 with mod := 32, sa := true, sb := true, sc := true }, .sel { e0 with mod := 32, sa := true, sb := true, sc := false }),
      (.icmp { e0 with d := 1, e := 2, mod := 5 }, .icmp { e0 with d := 1, e := 2, mod := 6 }),
      (.icmp { e0 with d := 1, e := 2, mod := 16, c := 1 }, .icmp { e0 with d := 1, e := 2, mod := 24, c := 1 }),
      (.icmp { e0 with d := 1, e := 2 }, .icmp { e0 with d := 1, e := 2, c := 1 }),
      (.icmp { e0 with d := 1, e := 2 }, .icmp { e0 with d := 1, e := 1 })] = true := by decide +kernel

/-- 10 R233, R238, R246 to R249. -/
theorem test_ill_formed_float :
    refuses [
      (.fcmp { e0 with d := 1, e := 2, mod := 6 }, .fcmp { e0 with d := 1, e := 2, mod := 7 }),
      (.cvt { e0 with type := 3, c := 3 }, .cvt { e0 with type := 3, c := 4 }),
      (.cvtsr { e0 with type := 3, c := 3 }, .cvtsr { e0 with type := 3, c := 4 }),
      (.cvt { e0 with type := 3, sa := true, mod := 32 }, .cvt { e0 with type := 3, sa := true, mod := 32, c := 1 }),
      (.act { e0 with c := 7 }, .act { e0 with c := 8 }),
      (.atload { e0 with c := 7 }, .atload { e0 with c := 8 }),
      (.atstat { e0 with c := 7 }, .atstat { e0 with c := 8 })] = true := by decide +kernel

/-- 07 R165 to R182. -/
theorem test_ill_formed_memory :
    refuses [
      (.ldgE { e0 with fsel := 1, mod := 4 }, .ldgE { e0 with fsel := 1, mod := 5 }),
      (.ldgE { e0 with fsel := 1, mod := 9 }, .ldgE { e0 with fsel := 1, mod := 8 }),
      (.ldsE { e0 with fsel := 1, mod := 4 }, .ldsE { e0 with fsel := 1, mod := 5 }),
      (.ldsE { e0 with fsel := 1, mod := 9 }, .ldsE { e0 with fsel := 1, mod := 8 }),
      (.ldkE { e0 with fsel := 1, mod := 4 }, .ldkE { e0 with fsel := 1, mod := 5 }),
      (.ldkE { e0 with fsel := 1, mod := 9 }, .ldkE { e0 with fsel := 1, mod := 8 }),
      (.ldxE { e0 with fsel := 1, mod := 4 }, .ldxE { e0 with fsel := 1, mod := 5 }),
      (.ldxE { e0 with fsel := 1, mod := 9 }, .ldxE { e0 with fsel := 1, mod := 8 }),
      (.ldlE { e0 with fsel := 1, mod := 4 }, .ldlE { e0 with fsel := 1, mod := 5 }),
      (.ldlE { e0 with fsel := 1, mod := 9 }, .ldlE { e0 with fsel := 1, mod := 8 }),
      (.stgE { e0 with mod := 4 }, .stgE { e0 with mod := 5 }),
      (.stgE e0, .stgE { e0 with mod := 9 }),
      (.stsE { e0 with mod := 4 }, .stsE { e0 with mod := 5 }),
      (.stsE e0, .stsE { e0 with mod := 9 }),
      (.stkE { e0 with mod := 4 }, .stkE { e0 with mod := 5 }),
      (.stkE e0, .stkE { e0 with mod := 9 }),
      (.stxE { e0 with mod := 4 }, .stxE { e0 with mod := 5 }),
      (.stxE e0, .stxE { e0 with mod := 9 }),
      (.stlE { e0 with mod := 4 }, .stlE { e0 with mod := 5 }),
      (.stlE e0, .stlE { e0 with mod := 9 }),
      (.ldgcE { e0 with fsel := 1, scope := 3, mod := 3 }, .ldgcE { e0 with fsel := 1, scope := 3, mod := 4 }),
      (.stgcE { e0 with scope := 3, mod := 3 }, .stgcE { e0 with scope := 3, mod := 4 }),
      (.stgcE { e0 with scope := 3 }, .stgcE { e0 with scope := 3, mod := 9 }),
      (.pfgE { e0 with mod := 4 }, .pfgE { e0 with mod := 5 }),
      (.pfgE e0, .pfgE { e0 with mod := 9 }),
      (.thaw { e0 with e := 128 }, .thaw { e0 with e := 1 }),
      (.join { e0 with fsel := 1, c := 15 }, .join { e0 with fsel := 1, c := 16 }),
      (.tdef { e0 with d := 63 }, .tdef { e0 with d := 64 }),
      (.tcopy { e0 with e := 0xBF }, .tcopy { e0 with e := 0xC0 }),
      (.tcopy { e0 with mod := 1, c := 5 }, .tcopy { e0 with mod := 1, c := 5, d := 1 }),
      (.tcopy e0, .tcopy { e0 with c := 1 }),
      (.tstat { e0 with fsel := 1, a := 63 }, .tstat { e0 with fsel := 1, a := 64 }),
      (.atomG { e0 with fsel := 1, ord := 3, scope := 3, mod := 10 }, .atomG { e0 with fsel := 1, ord := 3, scope := 3, mod := 11 }),
      (.atomG { e0 with fsel := 1, mod := 16 }, .atomG { e0 with fsel := 1, mod := 32 }),
      (.atomG { e0 with fsel := 1, mod := 10 }, .atomG { e0 with fsel := 1, mod := 26 }),
      (.casG { e0 with fsel := 1, mod := 16 }, .casG { e0 with fsel := 1, mod := 32 }),
      (.atomS { e0 with fsel := 1, ord := 3, scope := 3, mod := 10 }, .atomS { e0 with fsel := 1, ord := 3, scope := 3, mod := 11 }),
      (.atomS { e0 with fsel := 1, mod := 16 }, .atomS { e0 with fsel := 1, mod := 32 }),
      (.atomS { e0 with fsel := 1, mod := 10 }, .atomS { e0 with fsel := 1, mod := 26 }),
      (.casS { e0 with fsel := 1, mod := 16 }, .casS { e0 with fsel := 1, mod := 32 }),
      (.atomK { e0 with fsel := 1, ord := 3, scope := 3, mod := 10 }, .atomK { e0 with fsel := 1, ord := 3, scope := 3, mod := 11 }),
      (.atomK { e0 with fsel := 1, mod := 16 }, .atomK { e0 with fsel := 1, mod := 32 }),
      (.atomK { e0 with fsel := 1, mod := 10 }, .atomK { e0 with fsel := 1, mod := 26 }),
      (.casK { e0 with fsel := 1, mod := 16 }, .casK { e0 with fsel := 1, mod := 32 }),
      (.atomX { e0 with fsel := 1, ord := 3, scope := 3, mod := 10 }, .atomX { e0 with fsel := 1, ord := 3, scope := 3, mod := 11 }),
      (.atomX { e0 with fsel := 1, mod := 16 }, .atomX { e0 with fsel := 1, mod := 32 }),
      (.atomX { e0 with fsel := 1, mod := 10 }, .atomX { e0 with fsel := 1, mod := 26 }),
      (.casX { e0 with fsel := 1, mod := 16 }, .casX { e0 with fsel := 1, mod := 32 })] = true := by decide +kernel

/-- 12 R294; 13 R301, R315 to R325. -/
theorem test_ill_formed_engines :
    refuses [
      (.tdep { e0 with d := 63, c := 63 }, .tdep { e0 with d := 63, c := 64 }),
      (.leaf { e0 with d := 15 }, .leaf { e0 with d := 16 }),
      (.leaf { e0 with c := 7 }, .leaf { e0 with c := 8 }),
      (.cqray { e0 with d := 15 }, .cqray { e0 with d := 16 }),
      (.cqsph { e0 with d := 15 }, .cqsph { e0 with d := 16 }),
      (.cqbox { e0 with d := 15 }, .cqbox { e0 with d := 16 }),
      (.fwait { e0 with fsel := 1, a := 15 }, .fwait { e0 with fsel := 1, a := 16 }),
      (.fpoll { e0 with fsel := 1, a := 15 }, .fpoll { e0 with fsel := 1, a := 16 }),
      (.fdrop { e0 with a := 15 }, .fdrop { e0 with a := 16 }),
      (.spkpop { e0 with fsel := 1, c := 15 }, .spkpop { e0 with fsel := 1, c := 16 }),
      (.spkstat { e0 with fsel := 1, c := 15 }, .spkstat { e0 with fsel := 1, c := 16 }),
      (.alloc { e0 with fsel := 1, c := 15 }, .alloc { e0 with fsel := 1, c := 16 }),
      (.free { e0 with c := 15 }, .free { e0 with c := 16 }),
      (.poolcfg { e0 with c := 15 }, .poolcfg { e0 with c := 16 }),
      (.poolcfg { e0 with mod := 1, a := 63, fsel := 1 }, .poolcfg { e0 with mod := 1, a := 0, fsel := 1 }),
      (.poolcfg e0, .poolcfg { e0 with d := 1 })] = true := by decide +kernel

/-- 11 R258 to R268; 15 R355 to R373; 14 R340, R343; 17 R422; 18 R440. -/
theorem test_ill_formed_control :
    refuses [
      (.shflIdxE { e0 with sb := true }, .shflIdxE { e0 with sb := true, mod := 2 }),
      (.shflUpE { e0 with sb := true }, .shflUpE { e0 with sb := true, mod := 2 }),
      (.shflDownE { e0 with sb := true }, .shflDownE { e0 with sb := true, mod := 2 }),
      (.shflXorE { e0 with sb := true }, .shflXorE { e0 with sb := true, mod := 2 }),
      (.bcastE { e0 with sb := true }, .bcastE { e0 with sb := false }),
      (.semv { e0 with sb := true }, .semv { e0 with sb := true, mod := 2 }),
      (.setw { e0 with mod := 2 }, .setw { e0 with mod := 2, sb := true }),
      (.setw { e0 with mod := 2 }, .setw { e0 with mod := 2, gc := 1 }),
      (.laneq e0, .laneq { e0 with mod := 32 }),
      (.laneq { e0 with mod := 35 }, .laneq { e0 with mod := 3 }),
      (.csrrE { e0 with c := 16, mod := 1 }, .csrrE { e0 with c := 16, mod := 2 }),
      (.csrwE { e0 with c := 16 }, .csrwE { e0 with c := 16, mod := 1 }),
      (.benrol { e0 with c := 7 }, .benrol { e0 with c := 8 }),
      (.bjoin { e0 with c := 7 }, .bjoin { e0 with c := 8 }),
      (.bar { e0 with mod := 8 }, .bar { e0 with mod := 12 }),
      (.bar { e0 with mod := 3, d := 1 }, .bar { e0 with mod := 2, d := 1 }),
      (.bar { e0 with mod := 1, a := 1 }, .bar { e0 with mod := 2, a := 1 }),
      (.guard { e0 with e := 3 }, .guard { e0 with e := 4 }),
      (.spawn { e0 with e := 4 }, .spawn { e0 with e := 3 }),
      (.spawn { e0 with e := 64 }, .spawn { e0 with e := 65 }),
      (.reduce { e0 with mod := 5 }, .reduce { e0 with mod := 6 }),
      (.scan { e0 with mod := 8 }, .scan { e0 with mod := 8, type := 14 }),
      (.scan { e0 with mod := 8, rnd := 1 }, .scan { e0 with mod := 0, rnd := 1 }),
      (.fence { e0 with mod := 1, ord := 3 }, .fence { e0 with mod := 1, ord := 2 }),
      (.xfence { e0 with b := 1, c := 1 }, .xfence { e0 with b := 0, c := 1 }),
      (.xfence { e0 with b := 1, c := 1 }, .xfence { e0 with b := 1, c := 0 }),
      (.xfence { e0 with b := 127, c := 1 }, .xfence { e0 with b := 128, c := 1 }),
      (.xfence { e0 with b := 1, c := 31 }, .xfence { e0 with b := 1, c := 32 }),
      (.tlbi { e0 with a := 1, b := 1 }, .tlbi { e0 with a := 1, b := 1, mod := 1 }),
      (.tlbi { e0 with c := 1, mod := 1 }, .tlbi { e0 with c := 1, mod := 2 }),
      (.trace { e0 with b := 127 }, .trace { e0 with b := 128 })] = true := by decide +kernel

/-- The numbers of units in the steps of agents (01 R12). -/
theorem test_ill_formed_events_a :
    refuses [
      (.walkStart 15, .walkStart 16),
      (.walkComplete 15 0 0, .walkComplete 16 0 0),
      (.walkComplete 0 65535 0, .walkComplete 0 65536 0),
      (.wcFlush 15, .wcFlush 16),
      (.wb 16 0 0 false, .wb 17 0 0 false),
      (.ack 16 ⟨0, .evict⟩, .ack 17 ⟨0, .evict⟩),
      (.inv 15 ⟨0, .evict⟩ 0, .inv 16 ⟨0, .evict⟩ 0),
      (.rcl 15 ⟨0, .evict⟩ 0 false, .rcl 16 ⟨0, .evict⟩ 0 false),
      (.freezeAck 255, .freezeAck 256),
      (.freezeSliceReport 255 0, .freezeSliceReport 256 0),
      (.freezeSliceReport 0 31, .freezeSliceReport 0 32),
      (.collect 255 0, .collect 256 0),
      (.collect 0 15, .collect 0 16),
      (.thawAck 255, .thawAck 256),
      (.gscInputDequeue 63, .gscInputDequeue 64),
      (.gscWindowTimeout 63 0, .gscWindowTimeout 64 0),
      (.gscWindowTimeout 0 3, .gscWindowTimeout 0 4),
      (.gscReply 63 0 0 0, .gscReply 64 0 0 0),
      (.gscReply 0 3 0 0, .gscReply 0 4 0 0),
      (.bceStart 63, .bceStart 64),
      (.bceComplete 63 0, .bceComplete 64 0),
      (.bceFault 63 0 0 0 0, .bceFault 64 0 0 0 0),
      (.atloadComplete 63 0, .atloadComplete 64 0),
      (.atloadComplete 0 7, .atloadComplete 0 8),
      (.tschAccept 63, .tschAccept 64),
      (.tschStart 63 0, .tschStart 64 0),
      (.matrixChunk 63 0, .matrixChunk 64 0),
      (.enginePark 63 0, .enginePark 64 0),
      (.drainComplete 63 0, .drainComplete 64 0),
      (.taskComplete 63 0, .taskComplete 64 0),
      (.batonTimeout 15 0, .batonTimeout 16 0),
      (.batonTimeout 0 7, .batonTimeout 0 8)] = true := by decide +kernel

/-- The numbers of units in the steps of agents (01 R12). -/
theorem test_ill_formed_events_b :
    refuses [
      (.batonResume 15 0, .batonResume 16 0),
      (.batonResume 0 7, .batonResume 0 8),
      (.leafAccept 15 0, .leafAccept 16 0),
      (.leafAccept 0 7, .leafAccept 0 8),
      (.cqeNodeRead 15 0, .cqeNodeRead 16 0),
      (.cqePark 15 0, .cqePark 16 0),
      (.relayTimeout 63 0, .relayTimeout 64 0),
      (.relayGroupPlace 63 0, .relayGroupPlace 64 0),
      (.spawnPlace 63, .spawnPlace 64),
      (.semvAdd 0 15, .semvAdd 0 16),
      (.stageQueuePush 0 6, .stageQueuePush 0 7),
      (.tsliceExpiry 63, .tsliceExpiry 64),
      (.tailLineReread 63, .tailLineReread 64),
      (.launchRecordRead 63, .launchRecordRead 64),
      (.resvTakeEffect 3, .resvTakeEffect 4),
      (.qcfgWrite 63 0, .qcfgWrite 64 0),
      (.qptrWrite 63 0, .qptrWrite 64 0),
      (.launchCounterWrite 255 0, .launchCounterWrite 256 0),
      (.resvWrite 3 0, .resvWrite 4 0),
      (.mindlWrite 3 0, .mindlWrite 4 0),
      (.contextTableWrite 65535 0 0, .contextTableWrite 65536 0 0),
      (.contextTableWrite 0 7 0, .contextTableWrite 0 8 0),
      (.rxcfgWrite 15 0, .rxcfgWrite 16 0),
      (.txtailWrite 3 0, .txtailWrite 4 0),
      (.txSendDescriptor 3, .txSendDescriptor 4),
      (.csiFrameStart 15 0 0, .csiFrameStart 16 0 0),
      (.csiFrameStart 0 15 0, .csiFrameStart 0 16 0),
      (.csiLongPacket 15 0 0 false [], .csiLongPacket 16 0 0 false []),
      (.csiLongPacket 0 15 0 false [], .csiLongPacket 0 16 0 false []),
      (.csiLongPacket 0 0 63 false [], .csiLongPacket 0 0 64 false []),
      (.csiFrameEnd 15 0, .csiFrameEnd 16 0),
      (.csiFrameEnd 0 15, .csiFrameEnd 0 16),
      (.traceSample 63, .traceSample 64)] = true := by decide +kernel

/-! ### Every instruction issues -/

/-- One word of every B-form of classes 00 and 01 (06 R123, R145, R146). -/
def wordsB0 : List Nat :=
  [0xf1420400, 0xf1420404, 0xf1420408, 0xf142040c, 0xf1420410, 0xf1420414, 0xf1420418, 0xf008109c,
   0xf1420420, 0xf1420424, 0xf1420428, 0xf142042c, 0xf1420430, 0xf1420434, 0xf1420438, 0xf00810bc,
   0xf00810c0, 0xf2000044, 0xf00810c8, 0xf142044c, 0xf1420450, 0xf1420454, 0xf1420458, 0xf142045c,
   0xf1420500, 0xf1420504, 0xf1420508, 0xf142050c, 0xf1420510, 0xf1420514, 0xf0081198, 0xf008119c,
   0xf00811a0, 0xf00811a4, 0xf00811a8, 0xf00811ac, 0xf00811b0, 0xf00811b4, 0xf00811b8]

/-- One word of every B-form of classes 10 and 11 (06 R123, R147, R148). -/
def wordsB2 : List Nat :=
  [0xf1420600, 0xf1420604, 0xf1040208, 0xf104020c, 0xf1040210, 0xf1040214, 0xf1040218, 0xf104021c,
   0xf1040220, 0xf1040224, 0xf1420628, 0xf142062c, 0xf1040230, 0xf1420700, 0xf0081304, 0xf0080308,
   0xf000030c, 0xf0080310, 0xf0000314, 0xf0000318, 0xf1420720, 0xf1420724, 0xf1420728, 0xf142072c,
   0xf1420730, 0xf1040340, 0xf0081344]

/-- The bits of one E-form of every opcode of class 00 (06 R124) but those that take a trap or need a state of their own. -/
def wordsE0 : List Nat :=
  [0x200000000004f0108001, 0x200000000004f0108005, 0x200000000004f0108009, 0x200000000004f010800d,
   0x200000000004f0108011, 0x200000000004f0108015, 0x200000000004f0108019, 0x200000000000f010801d,
   0x200000000004f0108021, 0x200000000004f0108025, 0x200000000004f0108029, 0x200000000004f010802d,
   0x200000000004f0108031, 0x200000000004f0108035, 0x200000000004f0108039, 0x200000000000f010803d,
   0x200000000000f0108041, 0x8000000d00000004f0008045, 0x200000010004f0108049, 0x200000000004f010804d,
   0x200000000004f0108051, 0x200000000004f0108055, 0x200000000004f0108059, 0x200000000004f010805d,
   0x200000000004f0108081, 0x200000000004f0108085, 0x200000000004f0108089, 0x200000000000f010808d,
   0x200000000000f0108091, 0x200000000000f0108095, 0x200000000004f0108099, 0x200000010004f010809d,
   0x204f02080a1, 0x200000000004f01080a5]

/-- The bits of one E-form of every opcode of class 01 (06 R124) but those that take a trap or need a state of their own. -/
def wordsE1 : List Nat :=
  [0x200000000004f0108401, 0x200000000004f0108405, 0x200000000004f0108409, 0x200000000004f010840d,
   0x200000000004f0108411, 0x200000000004f0108415, 0x200000000000f0108419, 0x200000000000f010841d,
   0x200000000000f0108421, 0x200000000000f0108425, 0x200000000000f0108429, 0x200000000000f010842d,
   0x200000000000f0108431, 0x200000000000f0108435, 0x200000000000f0108439, 0x200000010004f0108481,
   0x200100000004f0108485, 0x200300000004f0108489, 0x200000000000f010848d, 0x200000000004f0108491,
   0x200000000000f0108495, 0x200000000004f0108499, 0x200000000000f010849d, 0x200000000000f01084a1,
   0x200000000000f01084a5, 0x200000000000f01084a9, 0x200000000000f01084ad, 0x200000000000f01084b1,
   0x200f03004b5, 0x200f00034b9]

/-- The bits of one E-form of every opcode of class 10 (06 R124) but those that take a trap or need a state of their own. -/
def wordsE2 : List Nat :=
  [0xd001400000000404f0200801, 0xd000400000000404f0200805, 0x1010000000006f0a08809, 0x10000000006f0a0880d,
   0x1010000000006f0a08811, 0x10000000006f0a08815, 0x1010000000006f0a08819, 0x10000000006f0a0881d,
   0x1010000000006f0a08821, 0x10000000006f0a08825, 0x1430000000004f0801829, 0x430000000004f080182d,
   0xd000400000000404f0200831, 0x4f0900901, 0x4f0900905, 0x4f0900909,
   0x1000000000003f040b90d, 0xf0400911, 0x1000000000000f0403915, 0xf000091d,
   0x401000000000000f020392d, 0x1400000000004f0801941, 0x1010000000006f0a08945, 0x1010000000006f0a08949,
   0x1010000000006f0a0894d, 0x1400000000004f0801951, 0x1010000000006f0a08955, 0x1010000000006f0a08959,
   0x1010000000006f0a0895d, 0xf0400985, 0x401000000000204f0003989, 0xf040098d,
   0x1000000000000f0403995, 0x5f0400999, 0x5f040099d, 0x200f04009a1,
   0xf02089a5, 0xf00009a9, 0x204f02089c1, 0x204f02089c5,
   0x204f02089c9, 0x401000000000200f02089cd, 0x401000000000200f02089d1, 0xf02009d5,
   0x2f03009d9, 0x4f02009dd, 0x1000000000000f04039e1, 0x1000000000000f00089e5,
   0x1000000000000f00099e9, 0x1000000000000f00089ed, 0xf02009f1, 0x9f0800921,
   0x5f0300925, 0x5f0300929, 0x40402f0400981, 0xa040bf0400991,
   0x401000000000000f3f0c9f5]

/-- The bits of one E-form of every opcode of class 11 (06 R124) but those that take a trap or need a state of their own. -/
def wordsE3 : List Nat :=
  [0x204f0000c01, 0x204f0008c05, 0x200000000000f0100c09, 0xf0000c0d,
   0x200000000000f0100c11, 0xf0000c15, 0xf0000c19, 0x800000000000004f0208c21,
   0x400000000000004f0208c25, 0x400000000000004f0208c29, 0x800000000000004f0208c2d, 0x800000c00000004f0208c31,
   0x1400000000000000f0208c35, 0x8400000000000200f0008c39, 0x6f0008c41, 0x6f0a00c45,
   0x200f0000d01, 0x200f0000d05, 0x204f0900d0d, 0x200f0000d11,
   0x800000000000204f0000d15, 0xf0003d1d, 0xf0400d21, 0x200000000004f0100d25,
   0xf0200d29, 0x1000000000000f0008d2d, 0x800000000000004f0003d41, 0xf0208d45,
   0xf0208d49, 0x400000000000000f0208d4d, 0x20200f0208d51, 0x1400000000000a0bf0200d55,
   0xbf0000d59, 0x80000000000f0000d81, 0x204f0000d85, 0x204f0900dc9,
   0xf0204dcd, 0x1000000000000f0403dd1, 0xf0000dd9, 0x4f0400ddd,
   0xf0000d09, 0x40004f0400d19]

/-- No further condition. -/
def any (_ : Instr) (_ : State) (_ : Ctx) : Bool := true

theorem test_issues_B0 : (wordsB0.all (meets id any)) = true := by decide +kernel
theorem test_issues_B2 : (wordsB2.all (meets id any)) = true := by decide +kernel
theorem test_issues_E0 : (wordsE0.all (meets id any)) = true := by decide +kernel
theorem test_issues_E1 : (wordsE1.all (meets id any)) = true := by decide +kernel
theorem test_issues_E2 : (wordsE2.all (meets id any)) = true := by decide +kernel
theorem test_issues_E3 : (wordsE3.all (meets id any)) = true := by decide +kernel

/-- JOIN, in a block without a share window. -/
theorem test_issues_JOIN :
    meetsIn (fun n w => { rich (placed n w id) with clusters := [] }) any 96
      0x1000000000103f0003919 = true := by decide +kernel

/-- ERET, in handler mode. -/
theorem test_issues_ERET : meets (fun gr => { gr with hm := true }) any 0xf0000dc5 = true := by decide +kernel

/-- The words are those of every opcode with a B-form, and of every opcode with an E-form but JOIN, ERET and the two that always trap. -/
theorem test_issues_cover :
    (List.range 1024).all (fun op =>
      ((bInstr op b0).isNone || (wordsB0 ++ wordsB2).any fun w => bOp (BitVec.ofNat 32 w) == op) &&
      ((eInstr op e0).isNone || op == 0x246 || op == 0x370 || op == 0x371 || op == 0x375 ||
        (wordsE0 ++ wordsE1 ++ wordsE2 ++ wordsE3).any fun w => eOp (BitVec.ofNat 32 w) == op)) = true := by decide +kernel

/-! ### Edge cases and worked examples of the spec -/

/-- 09 R214, packed example: bytes of 0x7F1080FF + 0x01059001. -/
theorem test_iadd_wraps_and_saturates : ((after 96 (bits3 0xF0201001 3 0x89) (vs 0x7F1080FF 0x01059001 0)).getV 1 0 == 0x8015FFFF) = true := by decide +kernel

/-- 09 R214, packed example. -/
theorem test_iadd_i8_saturates : ((after 96 (bits3 0xF0201001 3 0x88) (vs 0x7F1080FF 0x01059001 0)).getV 1 0 == 0x7F158000) = true := by decide +kernel

/-- 09 R214: 3 − 5 under ISUB.U32.SAT. -/
theorem test_isub_saturates : ((after 96 (bits3 0xF0201005 3 0x8E) (vs 3 5 0)).getV 1 0 == 0) = true := by decide +kernel

/-- 09 R214: IABS.I32 of 0x80000000. -/
theorem test_iabs_of_the_least : ((after 96 (bits3 0xF020101D 0 0) (vs 0x80000000 0 0)).getV 1 0 == 0x80000000) = true := by decide +kernel

/-- 09 R214: IABS.I32.SAT of 0x80000000. -/
theorem test_iabs_saturates : ((after 96 (bits3 0xF020101D 0 0x80) (vs 0x80000000 0 0)).getV 1 0 == 0x7FFFFFFF) = true := by decide +kernel

/-- 09 R214: IMULH.I32 of 0x80000000 squared. -/
theorem test_imulh_signed : ((after 96 (bits3 0xF020100D 3 0) (vs 0x80000000 0x80000000 0)).getV 1 0 == 0x40000000) = true := by decide +kernel

/-- 09 R214: IMULH.U32 of 0xFFFFFFFF squared. -/
theorem test_imulh_unsigned : ((after 96 (bits3 0xF020100D 3 0xE) (vs 0xFFFFFFFF 0xFFFFFFFF 0)).getV 1 0 == 0xFFFFFFFE) = true := by decide +kernel

/-- 09 R214: IMAD.I32.SAT 0x40000000 × 4 − 0x40000000. -/
theorem test_imad_clamps_once : ((after 96 (bits3 0xF0201011 0x0403 0x80) (vs 0x40000000 4 0xC0000000)).getV 1 0 == 0x7FFFFFFF) = true := by decide +kernel

/-- 09 R214: IADD.I8 in the scalar half, 0x7F + 1. -/
theorem test_iadd_scalar_i8 : ((after 96 (bits3 0xF0201001 3 0x80006008) (fun gr => (gr.wrS 2 0x7F false).wrS 3 1 false)).getS 1 == 0xFFFFFFFFFFFFFF80) = true := by decide +kernel

/-- 09 R214: IADD imm with −1 on .U8, every byte adds 0xFF. -/
theorem test_iadd_imm_packed : ((after 96 (bits3 0xF020104D 0xFF 9) (vs 0x01020300 0 0)).getV 1 0 == 0x000102FF) = true := by decide +kernel

/-- 09 R216: a 16-bit element by 0x0110 gives 0; the other by 4. -/
theorem test_shl_i16 : ((after 96 (bits3 0xF0201031 3 6) (vs 0x00011234 0x00040110 0)).getV 1 0 == 0x00100000) = true := by decide +kernel

/-- 09 R216: SHR by the immediate 40. -/
theorem test_shr_by_40 : ((after 96 (bits3 0xF0201055 40 0) (vs 0xFFFFFFFF 0 0)).getV 1 0 == 0) = true := by decide +kernel

/-- 09 R216: ROT.I8 by 11 rotates by 3, either way at one element (0x81 left by 3 is 0x0C). -/
theorem test_rot_i8_by_11 : ((after 96 (bits3 0xF0201081 3 8) (vs 0x81 11 0)).getV 1 0 == 0x0C || (after 96 (bits3 0xF0201081 3 8) (vs 0x81 11 0)).getV 1 0 == 0x30) = true := by decide +kernel

/-- 09, reduction modulo 12,289: BRMH of 12,289,000 gives 12,289. -/
theorem test_brmh : ((after 96 (bits3 0xF02010A5 0x0403 0x20000000) (vs 12289000 89471204 12289)).getV 1 0 == 12289) = true := by decide +kernel

/-- 10, packing example: 300.0 is 0x79 in byte 0, and the other bytes are kept. -/
theorem test_cvt_e4m3 : ((after 96 (bits3 0xF020148D 0 0x83) (fun gr => (gr.wrV 1 0 0xAABBCCDD false).wrV 2 0 0x43960000 false)).getV 1 0 == 0xAABBCC79) = true := by decide +kernel

/-- 10, packing example: 500.0 saturates to 0x7E. -/
theorem test_cvt_e4m3_saturates : ((after 96 (bits3 0xF020148D 0x200 0x83) (fun gr => gr.wrV 2 0 0x43FA0000 false)).getV 1 0 == 0x007E0000) = true := by decide +kernel

/-- 10, packing example: 0.001 rounds up to 0x01. -/
theorem test_cvt_e4m3_subnormal : ((after 96 (bits3 0xF020148D 0x300 0x83) (fun gr => gr.wrV 2 0 0x3A83126F false)).getV 1 0 == 0x01000000) = true := by decide +kernel

/-- 11, one sum in two orders: .LIN leaves 1.0. -/
theorem test_reduce_lin : ((after 96 (bits3 0xF0204D45 0 0xE0000000) (fun gr => (((gr.wrV 2 0 0x4B800000 false).wrV 2 1 0x3F800000 false).wrV 2 2 0xCB800000 false).wrV 2 3 0x3F800000 false)).getS 4 == 0x3F800000) = true := by decide +kernel

/-- 11, one sum in two orders: .TREE leaves 2.0. -/
theorem test_reduce_tree : ((after 96 (bits3 0xF0204D45 0 0xA0000000) (fun gr => (((gr.wrV 2 0 0x4B800000 false).wrV 2 1 0x3F800000 false).wrV 2 2 0xCB800000 false).wrV 2 3 0x3F800000 false)).getS 4 == 0x40000000) = true := by decide +kernel

/-- 11, SCAN.FADD gives 2^24, 2^24, +0 and 1.0. -/
theorem test_scan_fadd : ((List.range 4).map (fun l => (after 96 (bits3 0xF0205D49 0 0x20000000) (fun gr => (((gr.wrV 2 0 0x4B800000 false).wrV 2 1 0x3F800000 false).wrV 2 2 0xCB800000 false).wrV 2 3 0x3F800000 false)).getV 5 l) == [0x4B800000, 0x4B800000, 0, 0x3F800000]) = true := by decide +kernel

/-- 11, SCAN.FADD.EXCL gives −0, 2^24, 2^24 and +0. -/
theorem test_scan_excl : ((List.range 4).map (fun l => (after 96 (bits3 0xF0205D49 0 0x60000000) (fun gr => (((gr.wrV 2 0 0x4B800000 false).wrV 2 1 0x3F800000 false).wrV 2 2 0xCB800000 false).wrV 2 3 0x3F800000 false)).getV 5 l) == [0x80000000, 0x4B800000, 0x4B800000, 0]) = true := by decide +kernel

/-- 06 R119: each lane reads its own number. -/
theorem test_csrr_laneid : ((List.range 4).map (fun l => ((after 96 (bits3 0xF0001C41 0 0x04000000) id).getV 1 l).toNat) == [0, 1, 2, 3]) = true := by decide +kernel

/-- 17 R405: TRAP with no handler ends the group. -/
theorem test_trap_without_handler : (after 96 (bits3 0xF0000DC1 7 0) id).ended = true := by decide +kernel

/-- 15 R356: after EXIT of every lane the group has ended. -/
theorem test_exit_retires : (after 96 (bits3 0xF0000C0D 0 0) id).ended = true := by decide +kernel


/-! ### Every statement with hypotheses has a case that meets them -/

/-- The instruction is this constructor's, with the fields of its context. -/
def isE (k : EForm → Instr) (i : Instr) (_ : State) (c : Ctx) : Bool := decide (i = k c.f)
/-- The instruction is this constructor's, with the fields of the word. -/
def isB (k : BForm → Instr) (w : Nat) (i : Instr) (_ : State) (_ : Ctx) : Bool := decide (i = k (bFields (BitVec.ofNat 32 w)))
/-- A pending instruction that has done nothing yet. -/
def pend0 : Pend :=
  { id := 0, op := 0, f := e0, pc := 0, seq := 0, lanes := 0, entry := 0, flag := none, hm := false, asid := 1, addrs := [], vals := []
    vals2 := [], left := 0, sent := false, ready := false, bad := [], after := [], afterSent := [], pieces := [], res := [], aux := 0
    since := 0, holds := false, nextPc := 0, nextHdr := 0, drain := none, frame := none }
/-- A piece of an access at no place. -/
def piece0 : Piece :=
  { lane := 0, ofs := 0, pa := 0, len := 4, mt := 0
    t := { asid := 0, va := 0, pa := 0, log := 12, r := true, w := true, x := false, d := true, g := false, fzok := false, mt := 0 } }
/-- Both hold. -/
def both (p q : Instr → State → Ctx → Bool) (i : Instr) (s : State) (c : Ctx) : Bool := p i s c && q i s c
/-- A condition on the context alone. -/
def ctxIs (q : Ctx → Bool) (_ : Instr) (_ : State) (c : Ctx) : Bool := q c

/-- What the test of a placed instruction says of its context when it need not issue. -/
def contextOf (s : State) (nbits w : Nat) (p : Instr → State → Ctx → Meaning → Bool) : Bool :=
  match decodeTableWord nbits w with
  | none => false
  | some i => match i.parts, meaningOf i with
    | some (op, f), some m => match issueCtx s op f with
      | some c => p i s c m
      | none => false
    | _, _ => false

theorem witness_DecodeOfEncodeIsTheInstruction :
    wellFormed (.iaddE { e0 with lit := some 5 }) = true ∧ isEvent (.iaddE { e0 with lit := some 5 }) = false ∧
    wellFormed (.run { prio := 0, rgn := false, len := 24, setB := 15, setA := 11, wait := 0 }) = true := by decide

theorem witness_EncodeOfDecodeIsTheWords : readsAs [0x20C20400] (.iaddB { b0 with g := 2, b := 3, a := 2, d := 1 }) = true := by decide

theorem witness_LengthBitsFixTheForm :
    (readsAs [0xF000030C] (.exitB b0) && readsAs [0xF0000DC5, 0, 0] (.eret e0) &&
      readsAs [0xF0007046, 0, 0, 1, 0] (.liE { e0 with d := 7, lit := some 1 }) &&
      readsAs [0x0043C003] (.run { prio := 0, rgn := false, len := 1, setB := 0, setA := 15, wait := 0 })) = true := by decide

theorem witness_BFormExecutesAsItsEForm : bInstr 0x000 b0 = some (.iaddB b0) := rfl

/-- The placed instruction's turn has come, and its run is at it. -/
theorem witness_StepRunsTheDecodedInstruction :
    let s := State.reset.withFetchWord 32 0xF000030C
    s.agenda = [.issue G] ∧ (s.group G).ended = false ∧ (s.group G).saved = false ∧
    ((s.group G).run.map fun r => (r.issued, r.left != 0, decide (decodeWords (r.words.drop r.ofs) = .ok (.exitB b0, 1)))) =
      some (true, true, true) := by
  decide +kernel

theorem witness_PlacedInstructionRunsNext : decodeTableWord 32 0xF000030C = some (.exitB b0) := by decide

/-- The conditions are those of `Issues`: see the tests `test_issues_…`, one case for every instruction. -/
theorem witness_InstructionHasItsEffect : meets id any 0xf1420400 = true := by decide +kernel

/-- p0 is 0 in every lane. -/
theorem witness_NoActiveLaneDoesNothing :
    contextOf (rich (placed 32 0x01420400 id)) 32 0x01420400
      (fun _ s c m => (issueCauses c m s).isEmpty && c.lanes == 0 && !m.always) = true := by decide +kernel

/-- A CSRR of a register that is none. -/
theorem witness_IssueFaultsAreTakenPrecisely :
    contextOf (rich (placed 96 (bits3 0xF0005C41 0x0FF 0) id)) 96 (bits3 0xF0005C41 0x0FF 0)
      (fun _ s c m => !(issueCauses c m s).isEmpty && !rollsBack c.gr c.entry && !c.gr.regPending c.entry && (m.engine c s).isNone) =
      true := by decide +kernel

/-- A pending access of its lanes that holds the group; and an ATLOAD behind a load of its group, by its own rule. -/
theorem witness_WaitingInstructionStalls :
    let waits (own : Bool) (_ : Instr) (s : State) (c : Ctx) (m : Meaning) : Bool :=
      (issueCauses c m s).isEmpty && !(c.lanes == 0 && !m.always) && !rollsBack c.gr c.entry && !m.halts c s && mustWait c m s &&
        accessWait c m s == !own && !cancelled s (s.group c.g)
    (contextOf (rich (placed 32 0xF1420400 fun gr => { gr with pend := [{ pend0 with holds := true, entry := 15 }] })) 32 0xF1420400
        (waits false) &&
      contextOf (rich (placed 96 0x200f03004b5 fun gr => { gr with pend := [{ pend0 with id := 9, op := 0x202, lanes := 15, entry := 15 }] }))
        96 0x200f03004b5 (waits true)) = true := by decide +kernel

theorem witness_EveryEventHasItsEffect : isEvent .idleEntry = true ∧ isEvent .retainExit = true := by decide

/-- A header that waits on the set flag cf0, before a run of one EXIT. -/
theorem witness_EligibleRunHeaderIssues :
    let w := bits3 0x0043C007 0xF000030C 0
    let s := rich (placed 96 w id)
    (match decodeTableWord 96 w, (s.group G).run with
    | some (.run h), some r => !r.issued && headerOk h && runElig s G r.pc h r.words r.mid r.ofs == .ready &&
        !r.mid && (dueEFault s (s.group G) h.wait).isNone && (s.cur == G)
    | _, _ => false) = true := by decide +kernel

theorem witness_RunHeaderClearsWaitedFlags :
    let s := rich (placed 96 (bits3 0x0043C007 0xF000030C 0) id)
    (s.group s.cur).hm = false ∧ (s.group s.cur).flags.length = 12 ∧
    ((s.group s.cur).run.map fun r => decide (r.mid = false ∧ r.ofs = 0 ∧ r.left ≠ 0)) = some true := by decide +kernel

theorem witness_MiddleOfARunPassesOn :
    let s := rich (placed 32 0xF000030C fun gr => { gr with run := gr.run.map fun r => { r with left := 2 } })
    ((s.group G).run.map fun r => decide (2 ≤ r.left)) = some true := by decide +kernel

/-- The highest registers and lanes that are not hard-wired. -/
theorem witness_HardwiredRegisters :
    (Group.reset.wrS 62 5 true).getS 62 = 5 ∧ (Group.reset.wrS 62 5 true).poisS 62 = true ∧ (Group.reset.wrS 63 5 true).getS 63 = 0 ∧
    (Group.reset.wrP 14 63 true true).getP 14 63 = true ∧ (Group.reset.wrP 15 63 false true).getP 15 63 = true ∧
    (Group.reset.wrV 255 63 5 true).getV 255 63 = 5 := by decide

/-- The least width, and the ends of INT4. -/
theorem witness_FormatsHoldTheirRange : valOf true 1 1 = -1 ∧ valOf false 1 1 = 1 ∧ valOf true 4 8 = -8 ∧ valOf false 4 15 = 15 := by
  decide

/-- Amounts on both sides of the width. -/
theorem witness_ShiftsByWholeAmounts :
    shl 8 1 7 = 128 ∧ shl 8 1 8 = 0 ∧ shr 8 255 7 = 1 ∧ shr 8 255 8 = 0 ∧ sar 8 128 7 = 255 ∧ sar 8 128 8 = 255 ∧ sar 8 127 8 = 0 ∧
    rotl 8 0x81 8 = 0x81 := by decide

/-- Both halves, a packed saturating form, and IMULH. -/
theorem witness_IntegerArithmeticResults :
    ([0xF1420400, 0xF0C20480, bits3 0xF0201001 3 0x89, bits3 0xF020100D 3 0xE].all
      (meets id fun i _ _ => (exactOf i 0 0 0).isSome)) = true := by decide +kernel

/-- AND, SHL of packed elements, SAR of 64-bit elements, ROT, and a shift in the scalar half. -/
theorem witness_LogicAndShiftResults :
    ([bits3 0xF0201021 3 0, bits3 0xF0201031 3 6, bits3 0xF0202039 4 12, bits3 0xF0201081 3 8, bits3 0xF0201031 3 0x80006000].all
      (meets id fun i _ c => (logicOf i c 0 0 0 0).isSome)) = true := by decide +kernel

theorem witness_CountResults :
    ([bits3 0xF020108D 0 0, bits3 0xF0201091 0 8, bits3 0xF0201095 0 0x80002000].all
      (meets id fun i _ _ => (countOf i 0 0).isSome)) = true := by decide +kernel

/-- A field that ends at the last bit, one that runs past it, an empty one, and one that begins past it; signed and not. -/
theorem witness_BitFieldResults :
    ([(31, 1), (31, 2), (0, 0), (32, 1), (0, 32)].all fun x =>
      meets (vs 0xFFFFFFFF (BitVec.ofNat 32 (x.1 + 256 * x.2)) 0)
        (both (isE .bfe) fun _ _ c => elemOfB c 0 0 == x.1 + 256 * x.2) (bits3 0xF0201085 3 0) &&
      meets (vs 0xFFFFFFFF (BitVec.ofNat 32 (x.1 + 256 * x.2)) 0)
        (both (isE .bfe) fun _ _ c => !intSigned c.f.type.toNat) (bits3 0xF0201085 3 14) &&
      meets (vs 0xFFFFFFFF 0 (BitVec.ofNat 32 (x.1 + 256 * x.2)))
        (both (isE .bfi) fun _ _ c => elemOfC c 0 0 == x.1 + 256 * x.2) (bits3 0xF0201089 0x0403 0)) = true := by decide +kernel

/-- SEL of both halves, with its condition true and false. -/
theorem witness_MoveAndSelectResults :
    (meets id (isB .movB 0xf00810c0) 0xf00810c0 && meets id (isE .movE) (bits3 0xF0201041 0 0) && meets id (isB .liB 0xf2000044) 0xf2000044 &&
      meets id (isE .liE) (bits3 0xF0001045 5 0) &&
      meets (fun gr => gr.wrP 1 0 true false) (both (isE .sel) fun _ _ c => c.gr.getP 1 0 && !c.gr.getP 1 1) (bits3 0xF0201099 0x0103 0) &&
      meets id (both (isE .sel) fun _ _ c => c.f.sc) (bits3 0xF0201099 0x0203 0x8000E000)) = true := by decide +kernel

theorem witness_AddressAndReductionResults :
    (meets id (isB .leaB 0xf00810c8) 0xf00810c8 && meets id (isE .leaE) (bits3 0xF0202049 4 0) && meets id (isE .leaE) (bits3 0xF0202049 4 14) &&
      meets id (isE .leaE) (bits3 0xF0202049 4 12) && meets id (isE .brmh) (bits3 0xF02010A5 0x0403 0x20000000)) = true := by decide +kernel

/-- An instruction of one word, a 64-bit one, a float one, and one in the scalar half. -/
theorem witness_DestinationIsAllThatChanges :
    ([0xF1420400, bits3 0xF0202001 4 12, 0xf1420500, 0xF0C20480].all (meets id fun i _ c => (destWide i c).isSome)) = true := by
  decide +kernel

theorem witness_PredicateResults :
    ((List.range 3).all fun k =>
      meets id (both (isE .icmp) fun _ _ c => c.f.modBits 4 3 == k) (bits3 0xF020109D (0x00020003 + (if k == 0 then 0 else 0x300)) (2 ^ 29 * k)) &&
      meets id (both (isE .fcmp) fun _ _ c => c.f.modBits 4 3 == k)
        (bits3 0xF0201481 (0x00020003 + (if k == 0 then 0 else 0x300)) (2 ^ 29 * k)) &&
      meets id (isE .plop) (bits3 0xF01020A1 (0x00800300 + k) 0) && meets id (isE .icmp) (bits3 0xF020F09D 0x000F0003 0)) = true := by
  decide +kernel

/-- With a NaN and with two numbers. -/
theorem witness_FloatSignAndOrderResults :
    (meets id (isB .fabsB 0xf0081198) 0xf0081198 && meets id (isE .fabsE) (bits3 0xF0201419 0 0) && meets id (isB .fnegB 0xf008119c) 0xf008119c &&
      meets id (isE .fnegE) (bits3 0xF020141D 0 1) && meets (vs 0x7FC00000 1 0) (isE .fminE) (bits3 0xF0201411 3 0) &&
      meets (vs 1 0x7FC00000 0) (isE .fminE) (bits3 0xF0201411 3 0) && meets id (isB .fminB 0xf1420510) 0xf1420510 &&
      meets (vs 0x7FC00000 1 0) (isE .fmaxE) (bits3 0xF0201415 3 0) && meets id (isB .fmaxB 0xf1420514) 0xf1420514) = true := by
  decide +kernel

/-- With no NaN, with one in each place, and with an infinity times zero. -/
theorem witness_FloatArithmeticResults :
    ([vs 0x3F800000 0x40000000 0x40400000, vs 0x7FC00000 1 1, vs 1 0x7FC00000 1, vs 1 1 0x7FC00000, vs 0x7F800000 0 0].all fun p =>
      [bits3 0xF0201401 3 0, bits3 0xF0201405 3 0x10, bits3 0xF0201409 3 0x80, bits3 0xF020140D 0x0403 0].all
        (meets p fun i _ _ => isFaddSub i || isFmul i || isFfma i)) = true := by decide +kernel

/-- Each kind, a clamped shift past the first and the last lane, and BCAST to both files. -/
theorem witness_ShuffleResults :
    (meets id (isB .shflIdxB 0xf1420720) 0xf1420720 && meets id (isE .shflIdxE) (bits3 0xF0201C21 3 0) && meets id (isB .shflUpB 0xf1420724) 0xf1420724 &&
      meets (vs 0 5 0) (isE .shflUpE) (bits3 0xF0201C25 3 0x04000000) && meets id (isB .shflDownB 0xf1420728) 0xf1420728 &&
      meets (vs 0 5 0) (isE .shflDownE) (bits3 0xF0201C29 3 0x04000000) && meets id (isB .shflXorB 0xf142072c) 0xf142072c &&
      meets id (isE .shflXorE) (bits3 0xF0201C2D 3 0) && meets id (isB .bcastB 0xf1420730) 0xf1420730 &&
      meets id (both (isE .bcastE) fun _ _ c => c.f.modBit 5) (bits3 0xF0201C31 3 0x88000000)) = true := by decide +kernel

/-- Every mode. -/
theorem witness_VoteAndQueryResults :
    ((List.range 4).all fun k => meets id (both (isE .vote) fun _ _ c => c.f.modBits 1 0 == k) (bits3 0xF0201C35 0 (2 ^ 26 * k)) &&
      meets id (both (isE .laneq) fun _ _ c => c.f.modBits 1 0 == k)
        (bits3 0xF0001C39 0x300 (2 ^ 26 * k + (if k == 3 then 2 ^ 31 else 0)))) = true := by decide +kernel

/-- Inclusive and not; to both files; 32 and 64 bits. -/
theorem witness_AdditionOverLanes :
    ([(bits3 0xF0205D49 0 0), (bits3 0xF0205D49 0 0x40000000), (bits3 0xF0204D49 0 12), (bits3 0xF0205D45 0 0), (bits3 0xF0205D45 0 0x80000000),
      (bits3 0xF0204D45 0 0x8000000C), (bits3 0xF0204D45 0 0x8000000E)].all
      (meets id fun _ _ c => c.f.modBits 3 0 == 0 && c.gr.w ≤ 64 && (lanesOf c.lanes).all fun l => l < c.gr.w)) = true := by decide +kernel

theorem witness_BranchResults :
    (meets id (isB .brB 0xf1040300) 0xf1040300 && meets id (isE .brE) (bits3 0xF0000C01 2 0) && meets id (isE .retE) (bits3 0xF0400C09 0 0) &&
      meets id (isE .brxE) (bits3 0xF0400C11 0 0) && meets id (isE .callE) (bits3 0xF0008C05 2 0) && meets id (isB .exitB 0xf000030c) 0xf000030c &&
      meets id (isE .nopE) (bits3 0xF0000C15 0 0) && meets id (isE .yieldE) (bits3 0xF0000C19 0 0)) = true := by decide +kernel

/-- BJOIN of lanes that are members and of lanes that are not. -/
theorem witness_JoinBarrierResults :
    (meets id (both (isE .benrol) fun _ _ c => c.gr.jb.length == 8) (bits3 0xF0000D01 0x0700 0) &&
      meets id (both (isE .bjoin) fun _ _ c => c.gr.jb.length == 8) (bits3 0xF0000D05 0 0) &&
      meets (fun gr => { gr with jb := gr.jb.set 0 { m := 5, a := 0 } }) (isE .bjoin) (bits3 0xF0000D05 0 0)) = true := by decide +kernel

/-- The ends of both ranges of phases, which do not meet, and both modes, with a phase that is complete and one that is not. -/
theorem witness_BarrierPhases :
    (0 < 2 ^ 31 ∧ 2 ^ 31 ≤ 0 + 2 ^ 31 ∧ phaseComplete (2 ^ 31) (BitVec.ofNat 32 0) = true) ∧
    (0 ≤ 0 ∧ phaseComplete 0 (BitVec.ofNat 32 0) = false) ∧ (0 < 2 ^ 31 ∧ phaseComplete 1 (BitVec.ofNat 32 (2 ^ 31)) = false) ∧
    (meets id (both (isE .bar) fun _ _ c => c.f.modBits 1 0 == 3) (bits3 0xF0005D09 0 0x0C000000) &&
      [0x1000, 2 ^ 32 - 1].all fun q => meets (fun gr => gr.wrS 3 (BitVec.ofNat 64 q) false)
        (both (isE .bar) fun _ s c => c.f.modBits 1 0 == 1 &&
          phaseComplete (getBar s (barRef c.gr (s.block c.gr.block) (c.f.modBits 3 2) c.f.c.toNat)).k (BitVec.ofNat 32 q) == (q != 0x1000))
        (bits3 0xF0300D09 0 0x04000000)) = true := by decide +kernel

/-- With a lane that brings a better score, with none, after the deadline, and behind a load of other lanes; a completion; a step with a tie after a better one. -/
theorem witness_BestmaxResult :
    let behind (gr : Group) : Group := { gr with pend := [{ pend0 with id := 9, op := 0x202, lanes := 16, entry := 16 }] }
    let idle (_ : Instr) (s : State) (c : Ctx) : Bool := !c.gr.ended && earlier c.gr == [] && (s.cluster (clusterOf c.gr.core)).storeQ.isEmpty
    (meets (vs 7 1 0) (both (isE .bestmax) idle) (bits3 0xF0200D25 3 0) &&
      meets (fun gr => gr.wrS 2 0x80000000 false) (both (isE .bestmax) idle) (bits3 0xF0200D25 3 0x2000) &&
      meetsIn (fun n w => { rich (placed n w id) with time := BitVec.ofNat 64 (2 ^ 32) }) (both (isE .bestmax) fun i s c =>
        idle i s c && decide ((s.launch c.gr.launch).deadline.toNat ≤ s.time.toNat)) 96 (bits3 0xF0200D25 3 0) &&
      meets behind (both (isE .bestmax) fun _ _ c => !c.gr.ended && earlier c.gr != []) (bits3 0xF0200D25 3 0) &&
      (let s := rich (placed 32 0xF000030C id)
       (s.group G).afterOk pend0 && drainOk s G pend0) &&
      (bestSteps Launch.reset [(3, 1), (7, 2), (7, 4)]).bestData == 2) = true := by decide +kernel

/-- With a token and without one. -/
theorem witness_SemaphoreTakesATokenOrWaits :
    (meets id (isE .semp) (bits3 0xF0000D11 0 0) &&
      meetsIn (fun n w => (rich (placed n w id)).setBlock G { (rich (placed n w id)).block G with
        sems := [(0, { Sem.reset with count := 1 })] }) (isE .semp) 96 (bits3 0xF0000D11 0 0)) = true := by decide +kernel

/-- Every register of the statement. -/
theorem witness_ControlRegisterResults :
    (([(0x01, 0), (0x06, 0), (0x10, 0), (0x11, 0), (0x13, 0), (0x31, 0), (0x00, 1), (0x06, 1), (0x07, 1), (0x12, 0)].all fun x =>
      meets id (isE .csrrE) (bits3 0xF0005C41 (x.1 + 256 * x.2) 0)) &&
      meets id (isE .csrrE) (bits3 0xF0009C41 0 0x04000000) && meets id (isE .csrwE) (bits3 0xF0200C45 0x11 0) &&
      meets id (isE .csrwE) (bits3 0xF0200C45 0x31 0)) = true := by decide +kernel

/-- In a context without privilege, each instruction of the statement; ERET outside handler mode. -/
theorem witness_PrivilegeIsChecked :
    ([bits3 0xF0000DC9 0x400 0x04010000, bits3 0xF0203DCD 0 0, bits3 0xF0203DD1 0 0x00010000, bits3 0xF0000DD9 0 0, bits3 0xF3F0C9F5 0 0x04010000, bits3 0xF0005C41 0x100 0,
      bits3 0xF0000DC5 0 0].all fun w =>
      contextOf (placed 96 w id) 96 w (fun _ s c _ =>
        (illegalSub c.op c.f c.regs c.flag.isSome).isNone && hasLane c.lanes 0 && !rollsBack c.gr c.entry && !c.gr.regPending c.entry &&
        !c.gr.hm && !ctxPriv s (s.ctxOf c.gr))) = true := by decide +kernel

theorem witness_SystemInstructionResults :
    (meets id (isE .asidsw) (bits3 0xF0203DCD 0 0) && meets id (isE .halt) (bits3 0xF0000DD9 0 0) &&
      meets (fun gr => { gr with hm := true }) (isE .eret) (bits3 0xF0000DC5 0 0)) = true := by decide +kernel

/-- TRAP, and BKPT with and without an attached agent that the context lets stop it. -/
theorem witness_TrapAndBreakpointEffects :
    (contextOf (rich (placed 96 (bits3 0xF0000DC1 7 0) id)) 96 (bits3 0xF0000DC1 7 0) (fun _ s c _ =>
        c.lanes != 0 && !rollsBack c.gr c.entry && !c.gr.regPending c.entry && (commonCauses c trapSem s).isEmpty) &&
      contextOf (rich (placed 96 (bits3 0xF0000DD5 7 0) id)) 96 (bits3 0xF0000DD5 7 0) (fun _ s c _ =>
        c.lanes != 0 && (commonCauses c bkptSem s).isEmpty && !bkdbg c s) &&
      (let s := win (rich (placed 96 (bits3 0xF0000DD5 7 0) id)) (ctxOfs 1 3) (2 ^ 63 + 2 ^ 61)
       contextOf { s with dev := { s.dev with agent := true } } 96 (bits3 0xF0000DD5 7 0) (fun _ s c _ =>
        c.lanes != 0 && (commonCauses c bkptSem s).isEmpty && bkdbg c s))) = true := by decide +kernel

/-- Two lanes with different causes, a lane with two, and a lane with none. -/
theorem witness_PrimaryCauseOfAVector :
    let cs : List LaneCause := [⟨3, 9, 0, 0⟩, ⟨1, 3, 4, 0⟩, ⟨1, 8, 1, 0⟩, ⟨2, 3, 0, 0⟩]
    primary cs = (3, 4) ∧ (laneCause cs 1).cause = 3 ∧ (laneCause cs 3).cause = 9 ∧ (laneCause cs 0).cause = 0 := by decide

/-- The checks at issue let the frame of a trap be written, or read. -/
def frameGoes (s : State) (t : TrapInfo) (wr : Bool) : Bool :=
  let s1 := if wr then causesTrigger s t.causes else s
  (frameBad s1 (s.group G).core (s.ctxOf (s.group G)) (tframe s1 (s.group G)) wr).isNone

/-- A trap of lanes 0 and 1. -/
def trapInfo : TrapInfo :=
  { lanes := 3, active := 3, ipc := 0x1004, kind := 0, causes := [⟨0, 19, 7, 0⟩], resume := [], hdr := [], efault := none, runPc := 0x1000
    stand := [], atile := none }

/-- A handler to take it and a frame that can be written, with the group's other lanes in an entry of their own. -/
theorem witness_TrapEntersTheHandler :
    let s := rich (placed 32 0xF000030C fun gr => { gr with entries := [⟨0x2000, 0x2000, 12, 0, 0, [], 0⟩] })
    (s.group G).hm = false ∧ bitOf (ctxDw s (s.ctxOf (s.group G)) 1) 0 = true ∧ frameGoes s trapInfo true = true ∧
    ((s.group G).entries.any fun e => (e.mask &&& ~~~ trapInfo.lanes) ≠ 0) = true := by decide +kernel

/-- In handler mode; with no handler; with a frozen frame; and with an access of a frame under way. -/
theorem witness_TrapWithoutHandlerEndsTheGroup :
    ((rich (placed 32 0xF000030C fun gr => { gr with hm := true })).group G).hm = true ∧
    bitOf (ctxDw (placed 32 0xF000030C id) 1 1) 0 = false ∧
    (let s := rich (placed 32 0xF000030C id)
     frameGoes { s with l2 := { s.l2 with fz := [(0, { FzEnt.reset with asid := 1, st := .frozen, acked := true, sectors := 1 })] } } trapInfo true)
      = false ∧
    ((placed 32 0xF000030C fun gr => { gr with pend := [{ pend0 with id := 9, frame := some .restore }] }).group G).findPend 9 =
      some { pend0 with id := 9, frame := some .restore } := by decide +kernel

/-- Two handler lanes that stand at ERET. -/
theorem witness_ReturnRestoresFromTheFrame :
    let t : TrapCtx := { lanes := 3, kind := 0, parked := .none, frame := 0, runPc := 0, stand := [] }
    let s := rich (placed 32 0xF000030C fun gr =>
      { gr with hm := true, run := none, entries := [⟨0x2000, 0x2000, 3, 0, 0, [.eret], 0⟩], trap := some t })
    (s.group G).trap = some t ∧ eretReady (s.group G) = true ∧ (s.group G).pend = [] ∧ frameStores (s.group G) t = false ∧
    frameGoes s trapInfo false = true := by decide +kernel

/-- On the lowest and the highest flag. -/
theorem witness_CompletionCountsOnItsFlag :
    ([0, 11].all fun k =>
      let s := rich (placed 32 0xF000030C fun gr => { gr with pend := [{ pend0 with id := 9, flag := some k }] })
      match (s.group G).findPend 9 with
      | some p => p.flag == some k && !p.hm && (s.group G).flags.length == 12
      | none => false) = true := by decide +kernel

theorem witness_MemoryReadsWhatWasWritten :
    State.reset.MemOk ∧ isWindow 0 = false ∧ isWindow (winBase - 1) = false ∧ (1 : Nat) < [(0 : Byte), 7].length :=
  ⟨memOk_reset, by decide⟩

theorem witness_PerformedStoreWritesItsBytes : trising [(0, (1 : Byte)), (1, 0)] = true := by decide

/-- The lowest address that is not canonical. -/
theorem witness_NoncanonicalAddressFaults :
    ([bits3 0xF0304801 0 0x00010000, bits3 0xF0304805 0 0, bits3 0xF0308941 0 0x00010000,
      bits3 0xF0308951 0 0x00010000].all fun w =>
      let s := (rich (placed 96 w id)).modGroup G fun gr => gr.wrS 3 (BitVec.ofNat 64 (2 ^ 56)) false
      contextOf s 96 w (fun _ _ c _ => (illegalSub c.op c.f c.regs c.flag.isSome).isNone && !rollsBack c.gr c.entry &&
        !c.gr.regPending c.entry && hasLane c.lanes 0 && decide (2 ^ 56 ≤ memAddr c 0))) = true := by decide +kernel

/-- The last word that fits, the first that does not, and an unaligned one, in each space; in the window too, with a slot that was never
held, one that is no longer held, and an offset past the slots. -/
theorem witness_ExplicitSpaceBounds :
    let s := rich (placed 32 0xF000030C id)
    let gr := s.group G
    let gone := s.modCluster 0 fun c => { c with
      shares := [(0, { launch := G, key := 0, slots := [(0, { held := false, revoked := true, block := G, base := 0, len := 0 })] })] }
    ([(1, (s.block gr.block).spSize), (2, 0x10000), (3, (s.launch gr.launch).xSize), (4, recLpR (s.recOf gr))].all fun x =>
      (match locate s gr x.1 (x.2 - 4) 4 0 with
        | .ok _ => true
        | .error _ => false) &&
      (match locate s gr x.1 x.2 4 0, locate s gr x.1 1 4 0 with
        | .error e, .error e' => e == (4, 0) && e' == (3, 0)
        | _, _ => false)) = true ∧
    (shareSlot s (s.block gr.block) 0).isSome = true ∧
    (match locate s gr 2 (2 ^ 22) 4 0, locate s gr 2 (2 ^ 24) 4 0, locate gone gr 2 0 4 0 with
      | .error a, .error b, .error c => a == (5, 1) && b == (4, 0) && c == (5, 0)
      | _, _, _ => false) = true := by decide +kernel

/-- The last bytes of a lane's private memory. -/
theorem witness_ExplicitStoreWritesItsBytes : 63 < 64 ∧ 2040 + 8 ≤ 2048 := by decide

/-- Every instruction of the statement, in a group that has not ended. -/
theorem witness_ExplicitAccessIsPendingAtIssue :
    (([0xf1040208, 0xf104020c, 0xf1040210, 0xf1040214, 0xf1040218, 0xf104021c, 0xf1040220, 0xf1040224] ++
      (wordsE2.filter fun w => let op := eOp (BitVec.ofNat 32 w)
        (0x202 ≤ op && op ≤ 0x209) || op == 0x251 || op == 0x252 || op == 0x253 || op == 0x255 || op == 0x256 || op == 0x257)).all
      (meets id (ctxIs fun c => !c.gr.ended))) = true := by decide +kernel

/-- A load of two words from a core's scratchpad and one of a byte from the chip's, in two lanes. -/
theorem witness_ExplicitLoadResults :
    let at' (op mt n : Nat) : Pend := { pend0 with id := 9, op := op, f := { e0 with d := 8, mod := 8 }, lanes := 3, entry := 3
                                                   pieces := (List.range 2).map fun l => { piece0 with lane := l, pa := 16 * l, len := n, mt := mt } }
    ([at' 0x202 1 8, at' 0x206 3 1].all fun p =>
      let s := rich (placed 32 0xF000030C fun gr => { gr with pend := [p] })
      let gr := s.group G
      (gr.findPend 9).isSome && (spaceOf p.op).isSome && isLoad p.op && !isAtomic p.op && gr.afterOk p && drainOk s G p &&
        decide (spaceMeets s G p = ([], [])) && decide (gr.w ≤ 64) && vNum (s.regsOf gr) 8 != vNum (s.regsOf gr) 9 &&
        hasLane p.entry 1 && !hasLane gr.exited 1 && decide (1 < gr.w)) = true := by decide +kernel

/-- The largest old value and operand of each width. -/
theorem witness_AtomicOperations :
    (2 ^ 32 - 1 < 2 ^ (8 * 4) ∧ atomOp 0 4 (2 ^ 32 - 1) 1 0 0 = 0) ∧ (2 ^ 64 - 1 < 2 ^ (8 * 8) ∧ atomOp 9 8 (2 ^ 64 - 1) (2 ^ 64 - 1) 0 0 = 0) ∧
    atomOp 9 4 3 4 0 0 = 4 := by decide

/-- A set and an addition, each from an immediate, the literal and a register. -/
theorem witness_DependenceCounterResults :
    ([bits3 0xF0003989 0x0002 0x08010000, bits3 0xF003F989 0x00FF 0x0C000000, bits3 0xF0003989 0 0x00010000, bits3 0xF0003989 0 0x04010000].all
        (meets id (isE .tdep)) &&
      [0xF000398A + 2 ^ 64 * 0x00010000, 0xF000398A + 2 ^ 64 * 0x04010000].all (meetsIn (fun _ w => rich (placed 160 (w + 2 ^ 96 * 0xFFFFFFFE) id)) (isE .tdep) 160)) =
      true := by decide +kernel

theorem witness_EveryStepKeepsMemoryCanonical :
    State.reset.MemOk ∧ ∃ t, step State.reset = .next t := ⟨memOk_reset, _, rfl⟩

end Sys2Proof.Tests
end

section
/-!
PROOF. Physical memory reads back what was written, little-endian numbers too (00 R5): the laws of a byte and of a run of bytes, then O48.
-/

namespace Sys2Proof.Machine

open Sys2Proof

/-! ### Little-endian numbers -/

@[simp] theorem length_leBytes (x n : Nat) : (leBytes x n).length = n := by
  induction n generalizing x with
  | zero => rfl
  | succ n ih => simp only [leBytes, List.length_cons, ih]

/-- n little-endian bytes hold a number modulo 2^(8n). -/
theorem leNat_leBytes (x n : Nat) : leNat (leBytes x n) = x % 2 ^ (8 * n) := by
  induction n generalizing x with
  | zero => simp only [leBytes, leNat, Nat.mul_zero, Nat.pow_zero, Nat.mod_one]
  | succ n ih =>
    have hlow : (BitVec.ofNat 8 (x % 256)).toNat = x % 256 := by
      rw [BitVec.toNat_ofNat, Nat.mod_mod]
    have hpow : 2 ^ (8 * (n + 1)) = 256 * 2 ^ (8 * n) := by
      rw [Nat.mul_succ, Nat.pow_add, Nat.mul_comm]
    calc leNat (leBytes x (n + 1)) = x % 256 + 256 * (x / 256 % 2 ^ (8 * n)) := by
          simp only [leBytes, leNat, hlow, ih]
      _ = x % 2 ^ (8 * (n + 1)) := by rw [hpow, Nat.mod_mul]

/-! ### Reads of physical memory -/

/-- A window register is read from the register window alone. -/
theorem windowRead_congr {s t : State} (h : t.win = s.win) (ofs : Nat) : windowRead t ofs = windowRead s ofs := by
  simp only [windowRead, winNat, winGet, h]

/-- A write leaves every byte of the register window alone, those it covers too. -/
theorem physByte_physWrite_window (s : State) (pa i : Nat) (b : List Byte) (hw : isWindow i = true) :
    physByte (physWrite s pa b) i = physByte s i := by
  simp only [physByte, hw, if_true, windowRead_congr (physWrite_win s pa b)]

/-- A write leaves every byte outside it alone, in the register window or not. -/
theorem physByte_physWrite_outside (s : State) (pa i : Nat) (b : List Byte) (h : i < pa ∨ pa + b.length ≤ i) :
    physByte (physWrite s pa b) i = physByte s i := by
  cases hw : isWindow i
  case false => exact physByte_physWrite_out s pa i b h hw
  case true => exact physByte_physWrite_window s pa i b hw

/-- A run of bytes reads as the list that each of them agrees with. -/
theorem physRead_eq {s : State} {pa : Nat} {b : List Byte} (h : ∀ j (hj : j < b.length), physByte s (pa + j) = b[j]) :
    physRead s pa b.length = b := by
  induction b generalizing pa with
  | nil => rfl
  | cons x r ih =>
    have hx : physByte s pa = x := h 0 (Nat.succ_pos _)
    have hr : physRead s (pa + 1) r.length = r := ih fun j hj => by
      rw [Nat.add_right_comm]
      exact h (j + 1) (Nat.succ_lt_succ hj)
    simp only [List.length_cons, physRead, hx, hr]

/-- A run of bytes outside the window reads as written. -/
theorem physRead_physWrite_same (s : State) (pa : Nat) (b : List Byte) (hw : ∀ j, j < b.length → isWindow (pa + j) = false) :
    physRead (physWrite s pa b) pa b.length = b :=
  physRead_eq fun j hj => physByte_physWrite_in s pa j b hj (hw j hj)

/-- A little-endian number outside the window reads as written, modulo 2^(8n). -/
theorem leNat_physRead_physWrite_leBytes (s : State) (pa x n : Nat) (hw : ∀ j, j < n → isWindow (pa + j) = false) :
    leNat (physRead (physWrite s pa (leBytes x n)) pa n) = x % 2 ^ (8 * n) := by
  have hread := physRead_physWrite_same s pa (leBytes x n) (by rwa [length_leBytes])
  rw [length_leBytes] at hread
  rw [hread, leNat_leBytes]

/-- Settles O48, from the laws of one byte under the one write of memory (`physByte_physWrite_in`, `physByte_physWrite_outside`) and of a
run of bytes. -/
theorem memoryReadsWhatWasWritten : Obligations.MemoryReadsWhatWasWritten := by
  unfold Obligations.MemoryReadsWhatWasWritten
  intro s pa b
  refine ⟨?asWritten, fun i => physByte_physWrite_outside s pa i b, physWrite_win s pa b, memOk_physWrite pa b,
    leNat_physRead_physWrite_leBytes s pa⟩
  case asWritten =>
    intro j hj hw
    rw [physByte_physWrite_in s pa j b hj hw, List.getD_eq_getElem b 0 hj]

end Sys2Proof.Machine
end

section
/-!
PROOF. Every step keeps the canonical form of global memory (log 1): the turn of a group, a given step and the choice of the next step,
over the laws of `exec`, of wires and of time, then O59.
-/

namespace Sys2Proof.Machine

open Sys2Proof

/-- A group's turn that goes on with its run keeps the form: the run's header or its next instruction is carried out, the run ends, or the
words trap. -/
theorem keeps_issueNext_running {s t : State} {g : Nat} {r : Run} (hr : ((s.turn g).group g).run = some r)
    (e : issueNext s g = .next t) (kp : Memory.wf s.mem) : Memory.wf t.mem := by
  have kt : Memory.wf (s.turn g).mem := keeps_State_turn kp
  simp only [issueNext, hr] at e
  split at e
  case isTrue =>
    cases e
    exact kt
  case isFalse =>
    split at e
    case isTrue => exact keeps_exec e kt
    case isFalse =>
      split at e
      case isTrue =>
        cases e
        exact keeps_ite (keeps_stallGroup kt) (keeps_endRun kt)
      case isFalse =>
        split at e
        case h_1 =>
          cases e
          exact keeps_badOpTrap kt
        case h_2 => exact keeps_exec e kt
        case h_3 =>
          cases e
          exact keeps_badOpTrap kt

/-- A group's turn without a run keeps the form: it begins the run of the entry it picks, traps at its header, or waits for the fetch. -/
theorem keeps_issueNext_idle {s t : State} {g : Nat} (hr : ((s.turn g).group g).run = none)
    (e : issueNext s g = .next t) (kp : Memory.wf s.mem) : Memory.wf t.mem := by
  have kt : Memory.wf (s.turn g).mem := keeps_State_turn kp
  simp only [issueNext, hr] at e
  split at e
  case h_1 =>
    cases e
    exact kt
  case h_2 =>
    split at e
    case h_1 =>
      cases e
      exact keeps_headerTrap kt
    case h_2 =>
      split at e
      case isTrue =>
        cases e
        exact kt
      case isFalse =>
        split at e
        case h_1 =>
          cases e
          exact keeps_headerTrap kt
        case h_2 => exact keeps_exec e (keeps_beginRun kt)

/-- A group's turn keeps the canonical form of memory. -/
theorem keeps_issueNext {s t : State} {g : Nat} (e : issueNext s g = .next t) (kp : Memory.wf s.mem) : Memory.wf t.mem := by
  cases hr : ((s.turn g).group g).run with
  | none => exact keeps_issueNext_idle hr e kp
  | some r => exact keeps_issueNext_running hr e kp

/-- A given step keeps the canonical form of memory. -/
theorem keeps_runDue {d : Due} {s t : State} (e : runDue s d = .next t) (kp : Memory.wf s.mem) : Memory.wf t.mem := by
  cases d with
  | event i =>
    cases hi : isEvent i <;> simp only [runDue, hi] at e
    case false =>
      cases e
      exact kp
    case true => exact keeps_exec e (keeps_unstall kp)
  | wire n =>
    cases e
    exact keeps_runWire (keeps_unstall kp)
  | issue g => exact keeps_issueNext e kp
  | tick ns =>
    cases e
    exact keeps_unstall (keeps_passTime kp)

/-- The step chosen when none is given keeps the form: a ns passes, then a group takes its turn, the oldest wire is carried out, or
nothing more happens. -/
theorem keeps_nextStep_free {s t : State} (ha : s.agenda = []) (e : nextStep s = .next t) (kp : Memory.wf s.mem) : Memory.wf t.mem := by
  have kt : Memory.wf (passTime s 1).mem := keeps_passTime kp
  have kw : Memory.wf (runWire (unstall (passTime s 1)) 0).mem := keeps_runWire (keeps_unstall kt)
  simp only [nextStep, ha] at e
  split at e
  case isTrue =>
    cases e
    exact keeps_unstall kt
  case isFalse =>
    split at e
    case h_1 => exact keeps_issueNext e kt
    case h_2 =>
      split at e
      case isTrue => exact keeps_issueNext e kt
      case isFalse =>
        cases e
        exact kw
    case h_3 =>
      cases e
      exact kw
    case h_4 =>
      cases e
      exact keeps_unstall kt

/-- The next step, given or chosen, keeps the canonical form of memory. -/
theorem keeps_nextStep {s t : State} (e : nextStep s = .next t) (kp : Memory.wf s.mem) : Memory.wf t.mem := by
  cases ha : s.agenda with
  | nil => exact keeps_nextStep_free ha e kp
  | cons d r =>
    simp only [nextStep, ha] at e
    exact keeps_runDue e kp

/-- Settles O59: a step is the next step, given or chosen, and each of the two keeps the form. -/
theorem everyStepKeepsMemoryCanonical : Obligations.EveryStepKeepsMemoryCanonical := by
  unfold Obligations.EveryStepKeepsMemoryCanonical
  intro s t ok e
  exact keeps_nextStep e ok

end Sys2Proof.Machine
end

section
/-!
PROOF. A global access beyond the canonical addresses traps at its issue (02 R24; 07 R160): the causes of an instruction's own check are
among those that its issue finds, and the check of a global access gives a noncanonical lane its cause; then O50.
-/

namespace Sys2Proof.Machine

open Sys2Proof

/-! ### Causes found at issue -/

/-- An instruction of lanes raises nothing for the group. -/
theorem groupPois_of_lanes {c : Ctx} (hg : c.sp.group = false) (us : List RegUse) : groupPois c us = [] := by
  simp only [groupPois, hg, Bool.false_and, Bool.false_eq_true, if_false]

/-- What a legal instruction of lanes finds by its own check is among the causes of its issue. -/
theorem check_subset_issueCauses {c : Ctx} {m : Meaning} {s : State} {l : Nat} (hleg : illegalSub c.op c.f c.regs c.flag.isSome = none)
    (hl : hasLane c.lanes l = true) (hg : c.sp.group = false) : m.check c s ⊆ issueCauses c m s := by
  intro k hk
  have hactive : (c.lanes == 0) = false := by
    rw [beq_eq_false_iff_ne]
    intro h0
    simp [h0, hasLane] at hl
  have hstage : k ∈ stageCauses c m s := by
    simp only [stageCauses, hactive, Bool.false_and, Bool.false_eq_true, if_false, groupPois_of_lanes hg, List.isEmpty_nil, if_true,
      List.nil_append]
    exact List.mem_append_right _ hk
  have hne : (stageCauses c m s).isEmpty = false := List.isEmpty_eq_false_iff_exists_mem.2 ⟨k, hstage⟩
  simp only [issueCauses, hleg, hne, Bool.false_eq_true, if_false]
  exact List.mem_append_left _ hstage

/-- An instruction with a cause, no engine fault and nothing before it to wait for takes its precise trap (17 R405). -/
theorem issue_traps {op : Nat} {f : EForm} {m : Meaning} {s : State} {c : Ctx} (hc : issueCtx s op f = some c)
    (hcs : issueCauses c m s ≠ []) (hrb : rollsBack c.gr c.entry = false) (hrp : c.gr.regPending c.entry = false)
    (heng : m.engine c s = none) :
    issue op f m s = .next (trapPrecise c (issueCauses c m s) (atileOf (issueCauses c m s))
      (if (issueCauses c m s).any (fun k => k.cause == 6) then m.notes c s else s)) := by
  have hne : (issueCauses c m s).isEmpty = false := List.isEmpty_eq_false_iff.2 hcs
  simp only [issue, hc, hne, hrb, hrp, heng, Bool.not_false, if_true, Bool.false_eq_true, if_false, ite_self]

/-! ### Global accesses -/

/-- The cause of an access to an address outside bits [55:0]: XLATE_ABSENT, ADDR_NONCANON. -/
def noncanonCause (c : Ctx) (l : Nat) : LaneCause := { lane := l, cause := 8, sub := 1, addr := memAddr c l }

theorem noncanonCause_mem_globalLane {c : Ctx} {l : Nat} (s : State) (ha : 2 ^ 56 ≤ memAddr c l) :
    noncanonCause c l ∈ globalLane c s l := by
  have hn : noncanon (memAddr c l) = true := decide_eq_true ha
  simp only [globalLane, hn, Bool.true_or, if_true, noncanonCause, List.mem_append, List.mem_singleton, true_or, or_true]

theorem noncanonCause_mem_globalCheck {c : Ctx} {l : Nat} (s : State) (hl : hasLane c.lanes l = true) (ha : 2 ^ 56 ≤ memAddr c l) :
    noncanonCause c l ∈ globalCheck c s :=
  List.mem_append_right _ (List.mem_flatMap.2 ⟨l, mem_lanesOf.2 hl, noncanonCause_mem_globalLane s ha⟩)

/-- The loads, stores and atomics of global memory have the check and the notes of a global access, no engine fault, and act by lane. -/
theorem meaning_of_globalAccess {i : Instr} {op : Nat} {f : EForm} {m : Meaning} (hp : i.parts = some (op, f)) (hm : meaningOf i = some m)
    (hi : (∃ f, i = .ldgB f) ∨ (∃ f, i = .ldgE f) ∨ (∃ f, i = .stgB f) ∨ (∃ f, i = .stgE f) ∨ (∃ f, i = .atomG f) ∨ ∃ f, i = .casG f) :
    m.check = globalCheck ∧ m.notes = watchLog ∧ (∀ c s, m.engine c s = none) ∧ ((opSpec op).getD {}).group = false := by
  obtain ⟨_, rfl⟩ | ⟨_, rfl⟩ | ⟨_, rfl⟩ | ⟨_, rfl⟩ | ⟨_, rfl⟩ | ⟨_, rfl⟩ := hi <;> cases hp <;> cases hm <;>
    exact ⟨rfl, rfl, fun _ _ => rfl, by decide⟩

/-- Settles O50: the cause that the check gives the lane is among those of the issue, and with it the instruction takes its precise trap. -/
theorem noncanonicalAddressFaults : Obligations.NoncanonicalAddressFaults := by
  unfold Obligations.NoncanonicalAddressFaults
  intro i s c m l hp hm hc hi hleg hrb hrp hl ha
  obtain ⟨hcheck, hnotes, heng, hgroup⟩ := meaning_of_globalAccess hp hm hi
  obtain ⟨-, -, -, -, -, -, hsp, -⟩ := issueCtx_eq hc
  rw [← hsp] at hgroup
  have hk : noncanonCause c l ∈ issueCauses c m s :=
    check_subset_issueCauses hleg hl hgroup (by rw [hcheck]; exact noncanonCause_mem_globalCheck s hl ha)
  obtain ⟨_, hm', hexec⟩ := exec_of_parts i s hp
  cases hm.symm.trans hm'
  refine ⟨issueCauses c m s, ?trap, noncanonCause c l, hk, rfl, rfl, rfl, rfl⟩
  case trap => rw [hexec, issue_traps hc (List.ne_nil_of_mem hk) hrb hrp (heng c s), hnotes]

end Sys2Proof.Machine
end

section
/-!
PROOF. Where an access to an explicit space lands, and the cause it raises where it does not (05 R92, R95, R97): `locate` branch by branch,
then O51.
-/

namespace Sys2Proof.Machine

open Sys2Proof

variable {s : State} {gr : Group} {sp a n lane : Nat}

/-! ### The fields of a window offset (05 R95) -/

theorem bits_windowSlot (h : a < 2 ^ 24) : bits a 23 22 = a / 2 ^ 22 := by
  simp only [bits]
  omega

theorem bits_slotOffset (a : Nat) : bits a 21 0 = a % 2 ^ 22 := by
  simp only [bits, Nat.pow_zero, Nat.div_one]

/-! ### The branches of `locate` -/

theorem locate_unaligned (h : a % n ≠ 0) : locate s gr sp a n lane = .error (3, 0) := by
  simp only [locate, h, ne_eq, not_false_eq_true, if_true]

theorem locate_beyondWidth (h : a % n = 0) (hw : 2 ^ spaceWidth sp ≤ a) : locate s gr sp a n lane = .error (4, 0) := by
  simp only [locate, h, hw, ne_eq, not_true_eq_false, if_false, if_true]

/-- The place of offset a in a space that the group owns: its block's core scratchpad, its launch's chip scratchpad, its lane's memory. -/
def ownedLoc (s : State) (gr : Group) (sp a lane : Nat) : Loc :=
  match sp with
  | 1 => .core gr.core ((s.block gr.block).spBase + a)
  | 3 => .chip ((s.launch gr.launch).xBase + a)
  | _ => .lp lane a

/-- An access to a space that the group owns, within the width of its offsets. -/
theorem locate_owned (h : a % n = 0) (hw : a < 2 ^ spaceWidth sp) (hsp : sp ≠ 2) :
    locate s gr sp a n lane = if spaceSize s gr sp < a + n then .error (4, 0)
      else .ok (ownedLoc s gr sp a lane) := by
  simp only [locate, h, Nat.not_le.2 hw, beq_eq_false_iff_ne.2 hsp, ne_eq, not_true_eq_false, if_false, Bool.false_eq_true]
  rfl

/-- An access beyond the allocation of a space that the group owns, whether or not its offset has the width of the space. -/
theorem locate_beyondSize (h : a % n = 0) (hsp : sp ≠ 2) (hs : spaceSize s gr sp < a + n) : locate s gr sp a n lane = .error (4, 0) := by
  rcases Nat.lt_or_ge a (2 ^ spaceWidth sp) with hw | hw
  · rw [locate_owned h hw hsp, if_pos hs]
  · exact locate_beyondWidth h hw

/-- An access within the allocation of a space that the group owns. -/
theorem locate_inSize (h : a % n = 0) (hw : a < 2 ^ spaceWidth sp) (hsp : sp ≠ 2) (hs : a + n ≤ spaceSize s gr sp) :
    locate s gr sp a n lane = .ok (ownedLoc s gr sp a lane) := by
  rw [locate_owned h hw hsp, if_neg (Nat.not_lt.2 hs)]

/-- An access to the window through a slot that no block has held. -/
theorem locate_emptySlot (h : a % n = 0) (hw : a < 2 ^ 24) (hm : shareSlot s (s.block gr.block) (a / 2 ^ 22) = none) :
    locate s gr 2 a n lane = .error (5, 1) := by
  have hw' : ¬ 2 ^ spaceWidth 2 ≤ a := Nat.not_le.2 hw
  simp only [locate, h, hw', bits_windowSlot hw, hm, ne_eq, not_true_eq_false, if_false, beq_self_eq_true, if_true]

/-- An access to the window through the slot of a block of the share group. -/
theorem locate_memberSlot {k : ShareSlot} (h : a % n = 0) (hw : a < 2 ^ 24)
    (hm : shareSlot s (s.block gr.block) (a / 2 ^ 22) = some k) :
    locate s gr 2 a n lane = if !k.held || k.revoked then .error (5, 0)
      else if k.len < a % 2 ^ 22 + n then .error (4, 0)
      else .ok (.core (s.block k.block).core ((s.block k.block).spBase + k.base + a % 2 ^ 22)) := by
  have hw' : ¬ 2 ^ spaceWidth 2 ≤ a := Nat.not_le.2 hw
  simp only [locate, h, hw', bits_windowSlot hw, bits_slotOffset, hm, ne_eq, not_true_eq_false, if_false, beq_self_eq_true, if_true]

/-- Settles O51, from the branches of `locate`. -/
theorem explicitSpaceBounds : Obligations.ExplicitSpaceBounds := by
  unfold Obligations.ExplicitSpaceBounds
  intro s gr a n lane _
  refine ⟨fun sp _ h => locate_unaligned h, ?beyondSize, fun h hw => locate_beyondWidth h hw, fun h hw hm => locate_emptySlot h hw hm,
    ?revoked, ?held, fun h hs hw => locate_inSize (sp := 1) h hw (by decide) hs,
    fun h hs hw => locate_inSize (sp := 3) h hw (by decide) hs, fun h hs hw => locate_inSize (sp := 4) h hw (by decide) hs⟩
  case beyondSize =>
    rintro sp size (⟨rfl, rfl⟩ | ⟨rfl, rfl⟩ | ⟨rfl, rfl⟩) h hs
    · exact locate_beyondSize h (by decide) hs
    · exact locate_beyondSize h (by decide) hs
    · exact locate_beyondSize h (by decide) hs
  case revoked =>
    intro k h hw hm hk
    have hgone : (!k.held || k.revoked) = true := by simpa using hk
    rw [locate_memberSlot h hw hm, if_pos hgone]
  case held =>
    intro k h hw hm hheld hrev
    have hheld' : ¬ (!k.held || k.revoked) = true := by simp [hheld, hrev]
    rw [locate_memberSlot h hw hm, if_neg hheld']

end Sys2Proof.Machine
end

section
/-!
PROOF. A store to an explicit space writes its own bytes and no other (05 R90; 07 R166): a byte table after a write, the core
scratchpads after a write, then O52.
-/

namespace Sys2Proof.Machine

open Sys2Proof

/-! ### Byte tables -/

/-- A byte table is written as global memory is. -/
theorem spPokes_eq_pokes (t : Sp Byte) (a : Nat) (b : List Byte) : spPokes t a b = pokes t a b := by
  induction b generalizing t a with
  | nil => rfl
  | cons x r ih => exact ih (tupd 0 t a x) (a + 1)

/-- A byte outside the bytes written reads as before. -/
theorem peek_spPokes_out (t : Sp Byte) (a i : Nat) (b : List Byte) (h : i < a ∨ a + b.length ≤ i) :
    peek (spPokes t a b) i = peek t i := by
  rw [spPokes_eq_pokes, peek_pokes_out t a i b h]

theorem peek_spPokes_leBytes_out (t : Sp Byte) (a x n i : Nat) (h : i < a ∨ a + n ≤ i) :
    peek (spPokes t a (leBytes x n)) i = peek t i :=
  peek_spPokes_out t a i _ (by rwa [length_leBytes])

/-- One byte of a table. -/
theorem peeks_one (t : Sp Byte) (a : Nat) : peeks t a 1 = [peek t a] := rfl

/-- Bytes of a table read as the list that each of them agrees with. -/
theorem peeks_eq {t : Sp Byte} {a : Nat} {b : List Byte} (h : ∀ j (hj : j < b.length), peek t (a + j) = b[j]) :
    peeks t a b.length = b := by
  induction b generalizing a with
  | nil => rfl
  | cons x r ih =>
    have hx : tget 0 t a = x := h 0 (Nat.succ_pos _)
    have hr : peeks t (a + 1) r.length = r := ih fun j hj => by
      rw [Nat.add_right_comm]
      exact h (j + 1) (Nat.succ_lt_succ hj)
    simp only [List.length_cons, peeks, hx, hr]

/-- A little-endian number written to a byte table is read back, modulo 2^(8n). -/
theorem leNat_peeks_spPokes_leBytes (t : Sp Byte) (a x n : Nat) :
    leNat (peeks (spPokes t a (leBytes x n)) a n) = x % 2 ^ (8 * n) := by
  have hread : peeks (spPokes t a (leBytes x n)) a (leBytes x n).length = leBytes x n :=
    peeks_eq fun j hj => by rw [spPokes_eq_pokes, peek_pokes_in t a j _ hj]
  rw [length_leBytes] at hread
  rw [hread, leNat_leBytes]

/-! ### Writes of a core's scratchpad -/

section
variable (s : State)

@[simp] theorem core_modCore_same (c : Nat) (f : Core → Core) : (s.modCore c f).core c = f (s.core c) := core_setCore_same _ _ _

theorem core_modCore_ne {c d : Nat} (f : Core → Core) (e : d ≠ c) : (s.modCore c f).core d = s.core d := core_setCore_ne _ _ e

theorem coreWrite_sp_same (c a : Nat) (b : List Byte) (own : Option Nat) :
    ((coreWrite s c a b own).core c).sp = spPokes (s.core c).sp a b := by
  simp only [coreWrite, taintTiles, core_modCore_same]

theorem coreWrite_core_ne {c d : Nat} (a : Nat) (b : List Byte) (own : Option Nat) (e : d ≠ c) :
    (coreWrite s c a b own).core d = s.core d := by
  simp only [coreWrite, taintTiles, core_modCore_ne _ _ e]

end

/-! ### Writes of the memory of a lane -/

/-- The bytes of the lanes of a group after a store to one of them. -/
theorem locWrite_lp_group (s : State) (g lane o x n : Nat) :
    ((locWrite s g (.lp lane o) x n).group g).lp = spPokes (s.group g).lp (2048 * lane + o) (leBytes x n) := by
  simp only [locWrite, group_modGroup_same]

/-- A byte of another lane, or of the same lane outside the store, reads as before. -/
theorem locRead_locWrite_lp_out (s : State) (g x n : Nat) {lane o l i : Nat} (ho : o + n ≤ 2048) (hi : i < 2048)
    (h : l ≠ lane ∨ i < o ∨ o + n ≤ i) : locRead (locWrite s g (.lp lane o) x n) g (.lp l i) 1 = locRead s g (.lp l i) 1 := by
  have hout : 2048 * l + i < 2048 * lane + o ∨ 2048 * lane + o + n ≤ 2048 * l + i := by omega
  simp only [locRead, locWrite_lp_group, peeks_one, peek_spPokes_leBytes_out _ _ _ _ _ hout]

/-- Settles O52, for each of the three kinds of place. -/
theorem explicitStoreWritesItsBytes : Obligations.ExplicitStoreWritesItsBytes := by
  unfold Obligations.ExplicitStoreWritesItsBytes
  intro s g core base n x
  refine ⟨?core, ?chip, ?laneMemory⟩
  case core =>
    refine ⟨rfl, rfl, rfl, fun k hk => ?other, fun a ha => ?outside, ?readBack⟩
    case other => simp only [locWrite, coreWrite_core_ne s _ _ _ hk]
    case outside => simp only [locWrite, coreWrite_sp_same, peek_spPokes_leBytes_out _ _ _ _ _ ha]
    case readBack => simp only [locWrite, locRead, coreWrite_sp_same, leNat_peeks_spPokes_leBytes]
  case chip =>
    exact ⟨rfl, rfl, fun _ => rfl, fun a ha => peek_spPokes_leBytes_out _ _ _ _ a ha, leNat_peeks_spPokes_leBytes _ _ _ _⟩
  case laneMemory =>
    intro lane o _ ho
    refine ⟨rfl, rfl, fun _ => rfl, fun h hh => group_modGroup_ne s _ hh,
      fun l i _ hi h => locRead_locWrite_lp_out s g x n ho hi h, ?readBack⟩
    case readBack => simp only [locRead, locWrite_lp_group, leNat_peeks_spPokes_leBytes]

end Sys2Proof.Machine
end

section
/-!
PROOF. A load of an explicit space that is performed gives its lanes the bytes at their places (07 R166; 11 R256): the registers after a
result list is written, a pending instruction that is gone, the load as one write of its results, then O60.
-/

namespace Sys2Proof.Machine

open Sys2Proof

/-! ### Result lists of v registers -/

/-- Every write of a result list goes to a v register. -/
def OnlyV (ws : List RegWrite) : Prop := ∀ w ∈ ws, w.isS = false

/-- A write to v[n] of lane l, in a group of this many lanes: one at or above them is dropped. -/
def RegWrite.Hits (w : RegWrite) (lanes n l : Nat) : Prop := w.lane < lanes ∧ w.n = n ∧ w.lane = l

theorem OnlyV.head {w : RegWrite} {ws : List RegWrite} (h : OnlyV (w :: ws)) : w.isS = false := h w List.mem_cons_self

theorem OnlyV.tail {w : RegWrite} {ws : List RegWrite} (h : OnlyV (w :: ws)) : OnlyV ws := fun x hx => h x (List.mem_cons_of_mem _ hx)

theorem onlyV_singleton {w : RegWrite} (h : w.isS = false) : OnlyV [w] := fun _ hx => List.mem_singleton.1 hx ▸ h

theorem OnlyV.filter {ws : List RegWrite} (h : OnlyV ws) (q : RegWrite → Bool) : OnlyV (ws.filter q) :=
  fun w hw => h w (List.mem_of_mem_filter hw)

/-- The first write of a list, then the others. -/
theorem applyRes_cons (gr : Group) (w : RegWrite) (ws : List RegWrite) :
    applyRes gr (w :: ws) = applyRes (applyRes gr [w]) ws := rfl

/-- One write to a v register: the lanes at and above W are not written. -/
theorem applyRes_one (gr : Group) {w : RegWrite} (h : w.isS = false) :
    applyRes gr [w] = if w.lane < gr.w then gr.wrV w.n w.lane (w.val.setWidth 32) w.poison else gr := by
  simp only [applyRes, List.foldl_cons, List.foldl_nil, h, Bool.false_eq_true, if_false]

/-- A result list of v registers leaves everything but the v registers. -/
theorem applyRes_rest (gr : Group) {ws : List RegWrite} (h : OnlyV ws) :
    applyRes gr ws = { gr with v := (applyRes gr ws).v, vPois := (applyRes gr ws).vPois, vUe := (applyRes gr ws).vUe } := by
  induction ws generalizing gr with
  | nil => rfl
  | cons w r ih =>
    have hone : applyRes gr [w] =
        { gr with v := (applyRes gr [w]).v, vPois := (applyRes gr [w]).vPois, vUe := (applyRes gr [w]).vUe } := by
      rw [applyRes_one gr h.head]
      split
      · exact wrV_rest gr _ _ _ _
      · rfl
    exact sameButV_trans (ih (applyRes gr [w]) h.tail) hone

theorem applyRes_w (gr : Group) {ws : List RegWrite} (h : OnlyV ws) : (applyRes gr ws).w = gr.w := by
  rw [applyRes_rest gr h]

/-- A v register that one write hits holds its value and its poison. -/
theorem applyRes_one_hit (gr : Group) {w : RegWrite} {n l : Nat} (hs : w.isS = false) (hl : l < 64) (h : w.Hits gr.w n l) :
    (applyRes gr [w]).getV n l = w.val.setWidth 32 ∧ (applyRes gr [w]).poisV n l = w.poison := by
  obtain ⟨hw, rfl, rfl⟩ := h
  rw [applyRes_one gr hs, if_pos hw, getV_wrV gr _ _ _ _ _ _ hl hl, poisV_wrV gr _ _ _ _ _ _ hl hl]
  simp only [and_self, if_true]

/-- A v register that one write does not hit is as before. -/
theorem applyRes_one_miss (gr : Group) {w : RegWrite} {n l : Nat} (hs : w.isS = false) (hW : gr.w ≤ 64) (hl : l < 64)
    (h : ¬ w.Hits gr.w n l) :
    (applyRes gr [w]).getV n l = gr.getV n l ∧ (applyRes gr [w]).poisV n l = gr.poisV n l := by
  rw [applyRes_one gr hs]
  split
  case isTrue hw =>
    have hw64 : w.lane < 64 := Nat.lt_of_lt_of_le hw hW
    have hne : ¬ (n = w.n ∧ l = w.lane) := fun ⟨hn, hlw⟩ => h ⟨hw, hn.symm, hlw.symm⟩
    rw [getV_wrV gr _ _ _ _ _ _ hw64 hl, poisV_wrV gr _ _ _ _ _ _ hw64 hl, if_neg hne, if_neg hne]
    exact ⟨rfl, rfl⟩
  case isFalse => exact ⟨rfl, rfl⟩

/-- A v register that no write of a list hits is as before. -/
theorem applyRes_miss (gr : Group) {ws : List RegWrite} {n l : Nat} (hs : OnlyV ws) (hW : gr.w ≤ 64) (hl : l < 64)
    (h : ∀ w ∈ ws, ¬ w.Hits gr.w n l) :
    (applyRes gr ws).getV n l = gr.getV n l ∧ (applyRes gr ws).poisV n l = gr.poisV n l := by
  induction ws generalizing gr with
  | nil => exact ⟨rfl, rfl⟩
  | cons w r ih =>
    have hw1 : (applyRes gr [w]).w = gr.w := applyRes_w gr (onlyV_singleton hs.head)
    obtain ⟨hv, hp⟩ := applyRes_one_miss gr hs.head hW hl (h w List.mem_cons_self)
    obtain ⟨hv', hp'⟩ := ih (applyRes gr [w]) hs.tail (hw1 ▸ hW) fun x hx => hw1 ▸ h x (List.mem_cons_of_mem _ hx)
    exact ⟨hv'.trans hv, hp'.trans hp⟩

/-- A v register that a write of a list hits, and no other write does but with the same value, holds that value and its poison. -/
theorem applyRes_hit (gr : Group) {ws : List RegWrite} {w : RegWrite} {n l : Nat} (hs : OnlyV ws) (hW : gr.w ≤ 64) (hl : l < 64)
    (hm : w ∈ ws) (hw : w.Hits gr.w n l) (huniq : ∀ x ∈ ws, x.Hits gr.w n l → x = w) :
    (applyRes gr ws).getV n l = w.val.setWidth 32 ∧ (applyRes gr ws).poisV n l = w.poison := by
  induction ws generalizing gr with
  | nil => cases hm
  | cons y r ih =>
    have hw1 : (applyRes gr [y]).w = gr.w := applyRes_w gr (onlyV_singleton hs.head)
    have hW1 : (applyRes gr [y]).w ≤ 64 := hw1 ▸ hW
    rw [applyRes_cons]
    by_cases hr : w ∈ r
    · exact ih _ hs.tail hW1 hr (hw1 ▸ hw) fun x hx hxh => huniq x (List.mem_cons_of_mem _ hx) (hw1 ▸ hxh)
    · obtain rfl : w = y := (List.mem_cons.1 hm).resolve_right hr
      have hmiss : ∀ x ∈ r, ¬ x.Hits (applyRes gr [w]).w n l := fun x hx hxh =>
        hr (huniq x (List.mem_cons_of_mem _ hx) (hw1 ▸ hxh) ▸ hx)
      obtain ⟨hv, hp⟩ := applyRes_one_hit gr hs.head hl hw
      obtain ⟨hv', hp'⟩ := applyRes_miss _ hs.tail hW1 hl hmiss
      exact ⟨hv'.trans hv, hp'.trans hp⟩

/-- The result takes effect: its lane is one of the entry and has not exited since the issue (06 R139, 11 R256). -/
def Pend.keeps (p : Pend) (gr : Group) (w : RegWrite) : Bool := w.isS || (hasLane p.entry w.lane && !hasLane gr.exited w.lane)

theorem put_eq (p : Pend) (gr : Group) (ws : List RegWrite) : p.put gr ws = applyRes gr (ws.filter (p.keeps gr)) := rfl

/-! ### A pending instruction that is gone (06 R135) -/

/-- A completion on a flag changes the flags alone. -/
theorem decFlag_rest (gr : Group) (hm : Bool) (f : Option Nat) :
    ∃ fl hf, gr.decFlag hm f = { gr with flags := fl, hflags := hf } := by
  cases f with
  | none => exact ⟨gr.flags, gr.hflags, rfl⟩
  | some k => cases hm <;> exact ⟨_, _, rfl⟩

/-- Steps that are wired one after the other change nothing but the list of steps. -/
theorem foldl_wire_rest {α : Type} (due : α → Bool) (msg : α → Msg) (xs : List α) (s : State) :
    ∃ ws, xs.foldl (fun s q => if due q then s.wire (msg q) else s) s = { s with wires := ws } := by
  induction xs generalizing s with
  | nil => exact ⟨s.wires, rfl⟩
  | cons x r ih =>
    obtain ⟨ws, h⟩ := ih (if due x then s.wire (msg x) else s)
    refine ⟨ws, ?_⟩
    rw [List.foldl_cons, h]
    split <;> rfl

/-- Once a pending instruction is gone, its group has no such instruction and differs from before in the pending ones and the flags
alone; of the rest of the state, only the steps that are due change. -/
theorem finishPend_rest {s : State} {g id : Nat} {p : Pend} (h : (s.group g).findPend id = some p) :
    ∃ ps fl hf ws, finishPend s g id = { s.setGroup g { s.group g with pend := ps, flags := fl, hflags := hf } with wires := ws } ∧
      ∀ q ∈ ps, q.id ≠ id := by
  unfold finishPend
  simp only [h]
  generalize hps : List.map _ (List.filter _ (s.group g).pend) = ps
  obtain ⟨fl, hf, hd⟩ := decFlag_rest { s.group g with pend := ps } p.hm p.flag
  rw [hd]
  obtain ⟨ws, hws⟩ := foldl_wire_rest (fun q : Pend => q.after.contains id || q.afterSent.contains id) (fun q => .instrComplete g q.id)
    ps (s.setGroup g { s.group g with pend := ps, flags := fl, hflags := hf })
  refine ⟨ps, fl, hf, ws, hws, ?gone⟩
  case gone =>
    subst hps
    intro q hq
    obtain ⟨r, hr, rfl⟩ := List.mem_map.1 hq
    have hne : r.id ≠ id := of_decide_eq_true (List.mem_filter.1 hr).2
    split
    · exact hne
    · exact hne

theorem findPend_none_of_ids {gr : Group} {id : Nat} (h : ∀ q ∈ gr.pend, q.id ≠ id) : gr.findPend id = none :=
  List.find?_eq_none.2 fun q hq => by simpa using h q hq

theorem findPend_id {gr : Group} {id : Nat} {p : Pend} (h : gr.findPend id = some p) : p.id = id := by
  simpa using List.find?_some h

/-! ### A load of an explicit space -/

/-- An access to an explicit space that waits for nothing is performed. -/
theorem evInstrComplete_space {s : State} {g id sp : Nat} {p : Pend} (hp : (s.group g).findPend id = some p) (hsp : spaceOf p.op = some sp)
    (h1 : 1 ≤ sp) (hcarve : sp = 4 → (s.core (s.group g).core).carving = none) (ha : (s.group g).afterOk p = true)
    (hd : drainOk s g p = true) : evInstrComplete g id s = performSpace s g p := by
  have hcarve' : (sp == 4 && (s.core (s.group g).core).carving.isSome) = false := by
    by_cases h4 : sp = 4
    · simp [hcarve h4]
    · simp [h4]
  obtain ⟨k, rfl⟩ := Nat.exists_eq_add_of_le' h1
  simp only [evInstrComplete, hp, hsp, hcarve', ha, hd, Bool.not_true, Bool.false_eq_true, if_false, if_true]

/-- A load that is no atomic is no store. -/
theorem isStore_of_load {op : Nat} (hl : isLoad op = true) (ha : isAtomic op = false) : isStore op = false := by
  have heven : op % 2 = 0 := by
    simp only [isLoad, ha, Bool.false_or, Bool.and_eq_true, beq_iff_eq] at hl
    exact hl.2
  simp [isStore, ha, heven]

/-- The register writes of a load: the bytes that each of its pieces reads, without poison. -/
def loadResults (s : State) (g : Nat) (p : Pend) : List RegWrite :=
  p.pieces.flatMap fun x => loadWrites (s.regsOf (s.group g)) p.f x.len x.lane (locRead s g x.loc x.len) false

/-- A load changes no state in its lanes and reads every lane from the one state in which it is performed (log 27). -/
theorem foldl_performLane_load {s : State} {g regs : Nat} {p : Pend} (hl : isLoad p.op = true) (ha : isAtomic p.op = false)
    (xs : List Piece) (ws : List RegWrite) :
    xs.foldl (fun (a : State × List RegWrite) x =>
        ((performLane a.1 g p x).1, a.2 ++ pieceWrites regs p x (performLane a.1 g p x).2)) (s, ws) =
      (s, ws ++ xs.flatMap fun x => loadWrites regs p.f x.len x.lane (locRead s g x.loc x.len) false) := by
  induction xs generalizing ws with
  | nil => simp only [List.foldl_nil, List.flatMap_nil, List.append_nil]
  | cons x r ih =>
    have hlane : performLane s g p x = (s, locRead s g x.loc x.len) := by
      simp only [performLane, ha, isStore_of_load hl ha, Bool.false_eq_true, if_false]
    have hw (o : Nat) : pieceWrites regs p x o = loadWrites regs p.f x.len x.lane o false := by
      simp only [pieceWrites, ha, hl, Bool.false_eq_true, if_false, if_true]
    rw [List.foldl_cons, hlane, hw, ih, List.flatMap_cons, List.append_assoc]

/-- A load that meets neither a race nor an error tag completes with its results. -/
theorem performSpace_load {s : State} {g : Nat} {p : Pend} (hl : isLoad p.op = true) (ha : isAtomic p.op = false) (haux : p.aux = 0)
    (hm : spaceMeets s g p = ([], [])) : performSpace s g p = spaceFinish s g p (loadResults s g p) := by
  have hfold := foldl_performLane_load (s := s) (g := g) (regs := s.regsOf (s.group g)) hl ha p.pieces []
  simp only [List.nil_append] at hfold
  simp only [performSpace, haux, hm, ha, List.isEmpty_nil, List.foldl_nil, ne_eq, not_true_eq_false, if_false, Bool.not_true,
    Bool.false_eq_true, ite_self, loadResults]
  rw [hfold]

/-- The completion of an access: the results are written, the instruction is gone, and of its group the flags and the interval alone
change beside; of the rest of the state, only the steps that are due. -/
theorem spaceFinish_rest {s : State} {g : Nat} {p q : Pend} {ws : List RegWrite} (hp : (s.group g).findPend p.id = some q)
    (hs : OnlyV ws) :
    ∃ ps fl hf iv wires, spaceFinish s g p ws =
        { s.setGroup g { p.put (s.group g) ws with pend := ps, flags := fl, hflags := hf, iv := iv } with wires := wires } ∧
      ∀ q ∈ ps, q.id ≠ p.id := by
  have hpend : (p.put (s.group g) ws).pend = (s.group g).pend := by
    rw [put_eq, applyRes_rest _ (hs.filter _)]
  have hfind : ((s.modGroup g fun gr => (p.put gr ws).nextIv (ordEvents p.f.ord)).group g).findPend p.id = some q := by
    simp only [group_modGroup_same, Group.findPend, Group.nextIv, hpend]
    exact hp
  obtain ⟨ps, fl, hf, wires, e, hps⟩ := finishPend_rest hfind
  refine ⟨ps, fl, hf, ((p.put (s.group g) ws).nextIv (ordEvents p.f.ord)).iv, wires, ?_, hps⟩
  rw [spaceFinish, e, group_modGroup_same, modGroup_eq, setGroup_setGroup]
  rfl

/-! ### The registers after a load -/

/-- The number that a load of n bytes gives a lane from the bytes at its place: one of less than a word extended if MOD[3] is 1 (R166). -/
def loadValue (f : EForm) (n x : Nat) : Nat := if n < 4 ∧ f.modBit 3 = true then (signed (8 * n) x % (2 ^ 32 : Nat)).toNat else x

/-- The write of register j of a piece's destination. -/
def loadWrite (s : State) (g : Nat) (p : Pend) (x : Piece) (j : Nat) : RegWrite where
  isS := false
  n := vNum (s.regsOf (s.group g)) (p.f.d.toNat + j)
  lane := x.lane
  val := BitVec.ofNat 64 (loadValue p.f x.len (locRead s g x.loc x.len) / 2 ^ (32 * j) % 2 ^ 32)
  poison := false

theorem mem_loadResults {s : State} {g : Nat} {p : Pend} {w : RegWrite} :
    w ∈ loadResults s g p ↔ ∃ x ∈ p.pieces, ∃ j < dataRegs x.len, loadWrite s g p x j = w := by
  simp only [loadResults, loadWrites, loadWrite, loadValue, wrap, List.mem_flatMap, List.mem_map, List.mem_range, Bool.and_eq_true,
    decide_eq_true_eq]

theorem onlyV_loadResults (s : State) (g : Nat) (p : Pend) : OnlyV (loadResults s g p) := by
  intro w hw
  obtain ⟨x, -, j, -, rfl⟩ := mem_loadResults.1 hw
  rfl

theorem toNat_loadWrite_val (s : State) (g : Nat) (p : Pend) (x : Piece) (j : Nat) :
    ((loadWrite s g p x j).val.setWidth 32).toNat = loadValue p.f x.len (locRead s g x.loc x.len) / 2 ^ (32 * j) % 2 ^ 32 := by
  simp only [loadWrite, BitVec.toNat_setWidth, BitVec.toNat_ofNat]
  omega

theorem keeps_loadWrite {s : State} {g j : Nat} {p : Pend} {x : Piece} {gr : Group} :
    p.keeps gr (loadWrite s g p x j) = true ↔ hasLane p.entry x.lane = true ∧ hasLane gr.exited x.lane = false := by
  simp only [Pend.keeps, loadWrite, Bool.false_or, Bool.and_eq_true, Bool.not_eq_true']

/-- The results of a load that take effect. -/
def keptResults (s : State) (g : Nat) (p : Pend) : List RegWrite := (loadResults s g p).filter (p.keeps (s.group g))

theorem onlyV_keptResults (s : State) (g : Nat) (p : Pend) : OnlyV (keptResults s g p) := (onlyV_loadResults s g p).filter _

theorem mem_keptResults {s : State} {g : Nat} {p : Pend} {w : RegWrite} :
    w ∈ keptResults s g p ↔ ∃ x ∈ p.pieces, ∃ j < dataRegs x.len,
      (hasLane p.entry x.lane = true ∧ hasLane (s.group g).exited x.lane = false) ∧ loadWrite s g p x j = w := by
  rw [keptResults, List.mem_filter, mem_loadResults]
  constructor
  · rintro ⟨⟨x, hx, j, hj, rfl⟩, hk⟩
    exact ⟨x, hx, j, hj, keeps_loadWrite.1 hk, rfl⟩
  · rintro ⟨x, hx, j, hj, hk, rfl⟩
    exact ⟨⟨x, hx, j, hj, rfl⟩, keeps_loadWrite.2 hk⟩

/-- Where the lanes of the pieces differ, a lane has one piece. -/
theorem piece_eq_of_lane {ps : List Piece} (h : ps.Pairwise fun x y => x.lane ≠ y.lane) {x y : Piece} (hx : x ∈ ps) (hy : y ∈ ps)
    (e : x.lane = y.lane) : x = y := by
  have hnodup : (ps.map Piece.lane).Nodup := List.pairwise_map.2 h
  exact List.inj_on_of_nodup_map hnodup hx hy e

/-- One result hits a destination register of a lane: the lane has one piece, and its registers differ. -/
theorem keptResults_hit_unique {s : State} {g lanes : Nat} {p : Pend} (hlanes : p.pieces.Pairwise fun x y => x.lane ≠ y.lane)
    (hdest : ∀ x ∈ p.pieces, ∀ i j, i < j → j < dataRegs x.len →
      vNum (s.regsOf (s.group g)) (p.f.d.toNat + i) ≠ vNum (s.regsOf (s.group g)) (p.f.d.toNat + j))
    {x : Piece} {j : Nat} (hx : x ∈ p.pieces) (hj : j < dataRegs x.len) {w : RegWrite} (hw : w ∈ keptResults s g p)
    (h : w.Hits lanes (vNum (s.regsOf (s.group g)) (p.f.d.toNat + j)) x.lane) : w = loadWrite s g p x j := by
  obtain ⟨y, hy, i, hi, -, rfl⟩ := mem_keptResults.1 hw
  obtain ⟨-, hn, hlane⟩ := h
  obtain rfl : y = x := piece_eq_of_lane hlanes hy hx hlane
  rcases Nat.lt_trichotomy i j with hij | rfl | hij
  · exact absurd hn (hdest y hx i j hij hj)
  · rfl
  · exact absurd hn.symm (hdest y hx j i hij hi)

/-- Settles O60: the load is one write of its results, which hit the destination registers of its lanes, each once. That every lane is
served in the one step is the model's choice (log 27). -/
theorem explicitLoadResults : Obligations.ExplicitLoadResults := by
  unfold Obligations.ExplicitLoadResults
  intro s g id sp p hp hsp h1 hl ha haux hcarve hafter hdrain hmeets gr dest goes hW hlanes hdest
  obtain rfl := findPend_id hp
  obtain ⟨ps, fl, hf, iv, wires, e, hps⟩ := spaceFinish_rest hp (onlyV_loadResults s g p)
  have hV := onlyV_keptResults s g p
  have hgroup : (spaceFinish s g p (loadResults s g p)).group g =
      { applyRes gr (keptResults s g p) with pend := ps, flags := fl, hflags := hf, iv := iv } := by
    rw [e]
    exact group_setGroup_same s g _
  refine ⟨spaceFinish s g p (loadResults s g p), ?exec, ?mem, ?chip, ?core, ?s, ?p, ?gone, ?others, ?results⟩
  case exec =>
    rw [exec_of_event (.instrComplete g p.id) s rfl, evInstrComplete_space hp hsp h1 hcarve hafter hdrain,
      performSpace_load hl ha haux hmeets]
  case mem => rw [e]; rfl
  case chip => rw [e]; rfl
  case core => rw [e]; exact fun _ => rfl
  case s => rw [hgroup, applyRes_rest gr hV]
  case p => rw [hgroup, applyRes_rest gr hV]
  case gone =>
    rw [hgroup]
    exact findPend_none_of_ids hps
  case others =>
    intro n l hl64 hn
    rw [hgroup]
    refine applyRes_miss gr hV hW hl64 ?_
    rintro w hw ⟨hlane, rfl, rfl⟩
    obtain ⟨x, hx, j, hj, ⟨hentry, hexit⟩, rfl⟩ := mem_keptResults.1 hw
    exact hn x hx ⟨hentry, hexit, hlane⟩ rfl j hj rfl
  case results =>
    rintro x hx ⟨hentry, hexit, hlane⟩ j hj
    have hmem : loadWrite s g p x j ∈ keptResults s g p := mem_keptResults.2 ⟨x, hx, j, hj, ⟨hentry, hexit⟩, rfl⟩
    obtain ⟨hv, hpois⟩ := applyRes_hit gr hV hW (Nat.lt_of_lt_of_le hlane hW) hmem ⟨hlane, rfl, rfl⟩
      fun w hw h => keptResults_hit_unique hlanes hdest hx hj hw h
    rw [hgroup]
    exact ⟨(congrArg BitVec.toNat hv).trans (toNat_loadWrite_val s g p x j), hpois⟩

end Sys2Proof.Machine
end

section
/-!
PROOF. The encoder and the decoder are inverse (06 R121 to R124, R130, R144): a first word read back field by field, a word put together
from its fields, the tables of opcodes read in both directions; then O1 to O5.
-/

namespace Sys2Proof

open Sys2Proof.Machine

/-! ### Words and their fields -/

/-- One bit of a word, as a field of one bit. -/
theorem ofBool_getLsbD_eq_extractLsb' {w : Nat} (x : BitVec w) (i : Nat) : BitVec.ofBool (x.getLsbD i) = x.extractLsb' i 1 := by
  rw [BitVec.getLsbD_eq_extractLsb']
  generalize x.extractLsb' i 1 = y
  revert y
  decide

theorem getLsbD_of_extractLsb'_eq_ofBool {w : Nat} {x : BitVec w} {i : Nat} {b : Bool} (h : x.extractLsb' i 1 = BitVec.ofBool b) :
    x.getLsbD i = b := BitVec.ofBool_eq_iff_eq.1 ((ofBool_getLsbD_eq_extractLsb' x i).trans h)

/-- A field as a number. -/
theorem toNat_extractLsb'_div {w : Nat} (x : BitVec w) (start len : Nat) : (x.extractLsb' start len).toNat = x.toNat / 2 ^ start % 2 ^ len := by
  rw [BitVec.extractLsb'_toNat, Nat.shiftRight_eq_div_pow]

theorem getLsbD_eq_div {w : Nat} (x : BitVec w) (i : Nat) : x.getLsbD i = decide (x.toNat / 2 ^ i % 2 = 1) := Nat.testBit_eq_decide_div_mod_eq

/-! ### B-forms -/

/-- The code of a B-form instruction: the class, the half bit in classes 00 and 01, and the low bits of OP10 (06 R144). -/
def bCode (op : Nat) (h : Bool) : BitVec 8 :=
  if op < 0x200 then BitVec.ofNat 8 (64 * (op / 256) + op % 32 + if h then 32 else 0)
  else BitVec.ofNat 8 (64 * (op / 256) + op % 64)

/-- The word of a B-form. -/
def bWord (op : Nat) (f : BForm) : Word := f.g ++ f.b ++ f.a ++ f.d ++ bCode op f.h ++ (0 : BitVec 2)

theorem encodeB_eq_bWord (op : Nat) (f : BForm) : encodeB op f = [bWord op f] := rfl

/-- OP10 values that a B-form can carry: 5 bits of code in classes 00 and 01, and 6 in classes 10 and 11 (06 R144). -/
def IsBOp (op : Nat) : Prop := op < 1024 ∧ op % 256 < if op < 512 then 32 else 64

theorem bWord_fields (op : Nat) (f : BForm) :
    (bWord op f).extractLsb' 28 4 = f.g ∧ (bWord op f).extractLsb' 22 6 = f.b ∧ (bWord op f).extractLsb' 16 6 = f.a ∧
    (bWord op f).extractLsb' 10 6 = f.d ∧ (bWord op f).extractLsb' 2 8 = bCode op f.h ∧ (bWord op f).extractLsb' 0 2 = 0 := by
  have fields (g : BitVec 4) (b a d : BitVec 6) (c : BitVec 8) (z : BitVec 2) :
      let w := g ++ b ++ a ++ d ++ c ++ z
      w.extractLsb' 28 4 = g ∧ w.extractLsb' 22 6 = b ∧ w.extractLsb' 16 6 = a ∧ w.extractLsb' 10 6 = d ∧ w.extractLsb' 2 8 = c ∧
      w.extractLsb' 0 2 = z := by
    simp (disch := decide) only [BitVec.extractLsb'_append_eq_of_add_le, BitVec.extractLsb'_append_eq_of_le,
      Nat.sub_self, Nat.reduceSub, BitVec.extractLsb'_eq_self, and_self]
  exact fields f.g f.b f.a f.d (bCode op f.h) 0

theorem toNat_bCode {op : Nat} (h : Bool) (hop : IsBOp op) :
    (bCode op h).toNat = 64 * (op / 256) + op % 256 + if op < 512 ∧ h = true then 32 else 0 := by
  obtain ⟨h1, h2⟩ := hop
  by_cases hc : op < 512 <;> cases h <;> simp [bCode, hc] at h2 ⊢ <;> omega

/-- OP10 of a B-form word, from its code. -/
theorem bOp_eq_of_code (w : Word) :
    bOp w = 256 * ((w.extractLsb' 2 8).toNat / 64) + (w.extractLsb' 2 8).toNat % if (w.extractLsb' 2 8).toNat < 128 then 32 else 64 := by
  have hw := w.isLt
  simp only [bOp, toNat_extractLsb'_div]
  split <;> split <;> omega

/-- The half bit of a B-form word, from its code. -/
theorem bFields_h_eq (w : Word) :
    (bFields w).h = decide ((w.extractLsb' 2 8).toNat < 128 ∧ (w.extractLsb' 2 8).toNat / 32 % 2 = 1) := by
  have hw := w.isLt
  rw [Bool.eq_iff_iff]
  simp only [bFields, toNat_extractLsb'_div, getLsbD_eq_div, Bool.and_eq_true, Bool.not_eq_true', decide_eq_false_iff_not, decide_eq_true_eq]
  omega

theorem bOp_bWord {op : Nat} {f : BForm} (hop : IsBOp op) : bOp (bWord op f) = op := by
  obtain ⟨-, -, -, -, hcode, -⟩ := bWord_fields op f
  have hn := toNat_bCode f.h hop
  obtain ⟨h1, h2⟩ := hop
  rw [bOp_eq_of_code, hcode, hn]
  by_cases hc : op < 512 <;> cases f.h <;> simp [hc] at h2 ⊢ <;> split <;> omega

theorem bFields_bWord {op : Nat} {f : BForm} (hop : IsBOp op) (hh : 512 ≤ op → f.h = false) : bFields (bWord op f) = f := by
  obtain ⟨hg, hb, ha, hd, hcode, -⟩ := bWord_fields op f
  have hn := toNat_bCode f.h hop
  have hhalf : (bFields (bWord op f)).h = f.h := by
    rw [bFields_h_eq, hcode, hn]
    obtain ⟨h1, h2⟩ := hop
    by_cases hc : op < 512 <;> cases hf : f.h <;> simp [hc, hf] at h2 hh ⊢ <;> omega
  simp only [bFields] at hhalf ⊢
  rw [hhalf, hg, hb, ha, hd]

/-- A B-form word is put together from its fields: no bit of it is dropped. -/
theorem bWord_bFields {w : Word} (hll : w.extractLsb' 0 2 = 0) : bWord (bOp w) (bFields w) = w := by
  have hcode : bCode (bOp w) (bFields w).h = w.extractLsb' 2 8 := by
    have hlt := (w.extractLsb' 2 8).isLt
    have hop : IsBOp (bOp w) := by
      rw [IsBOp, bOp_eq_of_code]
      split <;> split <;> omega
    apply BitVec.eq_of_toNat_eq
    rw [toNat_bCode _ hop, bFields_h_eq, bOp_eq_of_code]
    simp only [decide_eq_true_eq]
    split <;> split <;> omega
  have join : w.extractLsb' 28 4 ++ w.extractLsb' 22 6 ++ w.extractLsb' 16 6 ++ w.extractLsb' 10 6 ++ w.extractLsb' 2 8 ++ w.extractLsb' 0 2
      = w := by
    simp (disch := rfl) only [BitVec.extractLsb'_append_extractLsb'_eq_extractLsb']
    exact BitVec.extractLsb'_eq_self
  rw [bWord, hcode, ← hll]
  exact join

/-! ### E-forms and literal forms -/

/-- Word 0 of an E-form, with its LL bits. -/
def eWord0 (op : Nat) (f : EForm) (ll : BitVec 2) : Word := f.g0 ++ f.a ++ f.d ++ BitVec.ofNat 10 op ++ ll

def eWord1 (f : EForm) : Word := BitVec.ofBool f.z ++ f.gc ++ f.g1 ++ f.e ++ f.c ++ f.b

def eWord2 (f : EForm) : Word :=
  f.mod ++ f.span ++ f.cache ++ f.fsel ++ BitVec.ofBool f.sc ++ BitVec.ofBool f.sb ++ BitVec.ofBool f.sa ++
    f.ord ++ f.scope ++ BitVec.ofBool f.sat ++ f.rnd ++ f.type

theorem encodeE_of_plain {op : Nat} {f : EForm} (h : f.lit = none) : encodeE op f = [eWord0 op f 1, eWord1 f, eWord2 f] := by
  simp only [encodeE, h]
  rfl

theorem encodeE_of_literal {op : Nat} {f : EForm} {x : DWord} (h : f.lit = some x) :
    encodeE op f = [eWord0 op f 2, eWord1 f, eWord2 f, x.extractLsb' 0 32, x.extractLsb' 32 32] := by
  simp only [encodeE, h]
  rfl

theorem eWord0_fields (op : Nat) (f : EForm) (ll : BitVec 2) :
    (eWord0 op f ll).extractLsb' 28 4 = f.g0 ∧ (eWord0 op f ll).extractLsb' 20 8 = f.a ∧ (eWord0 op f ll).extractLsb' 12 8 = f.d ∧
    (eWord0 op f ll).extractLsb' 2 10 = BitVec.ofNat 10 op ∧ (eWord0 op f ll).extractLsb' 0 2 = ll := by
  have fields (g : BitVec 4) (a d : BitVec 8) (c : BitVec 10) (z : BitVec 2) :
      let w := g ++ a ++ d ++ c ++ z
      w.extractLsb' 28 4 = g ∧ w.extractLsb' 20 8 = a ∧ w.extractLsb' 12 8 = d ∧ w.extractLsb' 2 10 = c ∧ w.extractLsb' 0 2 = z := by
    simp (disch := decide) only [BitVec.extractLsb'_append_eq_of_add_le, BitVec.extractLsb'_append_eq_of_le,
      Nat.sub_self, Nat.reduceSub, BitVec.extractLsb'_eq_self, and_self]
  exact fields f.g0 f.a f.d (BitVec.ofNat 10 op) ll

theorem eWord1_fields (f : EForm) :
    (eWord1 f).getLsbD 31 = f.z ∧ (eWord1 f).extractLsb' 28 3 = f.gc ∧ (eWord1 f).extractLsb' 24 4 = f.g1 ∧
    (eWord1 f).extractLsb' 16 8 = f.e ∧ (eWord1 f).extractLsb' 8 8 = f.c ∧ (eWord1 f).extractLsb' 0 8 = f.b := by
  have fields (z : BitVec 1) (gc : BitVec 3) (g1 : BitVec 4) (e c b : BitVec 8) :
      let w := z ++ gc ++ g1 ++ e ++ c ++ b
      w.extractLsb' 31 1 = z ∧ w.extractLsb' 28 3 = gc ∧ w.extractLsb' 24 4 = g1 ∧ w.extractLsb' 16 8 = e ∧ w.extractLsb' 8 8 = c ∧
      w.extractLsb' 0 8 = b := by
    simp (disch := decide) only [BitVec.extractLsb'_append_eq_of_add_le, BitVec.extractLsb'_append_eq_of_le,
      Nat.sub_self, Nat.reduceSub, BitVec.extractLsb'_eq_self, and_self]
  obtain ⟨hz, hrest⟩ := fields (BitVec.ofBool f.z) f.gc f.g1 f.e f.c f.b
  exact ⟨getLsbD_of_extractLsb'_eq_ofBool hz, hrest⟩

theorem eWord2_fields (f : EForm) :
    (eWord2 f).extractLsb' 26 6 = f.mod ∧ (eWord2 f).extractLsb' 22 4 = f.span ∧ (eWord2 f).extractLsb' 18 4 = f.cache ∧
    (eWord2 f).extractLsb' 16 2 = f.fsel ∧ (eWord2 f).getLsbD 15 = f.sc ∧ (eWord2 f).getLsbD 14 = f.sb ∧ (eWord2 f).getLsbD 13 = f.sa ∧
    (eWord2 f).extractLsb' 11 2 = f.ord ∧ (eWord2 f).extractLsb' 8 3 = f.scope ∧ (eWord2 f).getLsbD 7 = f.sat ∧
    (eWord2 f).extractLsb' 4 3 = f.rnd ∧ (eWord2 f).extractLsb' 0 4 = f.type := by
  have fields (mod : BitVec 6) (span cache : BitVec 4) (fsel : BitVec 2) (sc sb sa : BitVec 1) (ord : BitVec 2) (scope : BitVec 3)
      (sat : BitVec 1) (rnd : BitVec 3) (type : BitVec 4) :
      let w := mod ++ span ++ cache ++ fsel ++ sc ++ sb ++ sa ++ ord ++ scope ++ sat ++ rnd ++ type
      w.extractLsb' 26 6 = mod ∧ w.extractLsb' 22 4 = span ∧ w.extractLsb' 18 4 = cache ∧ w.extractLsb' 16 2 = fsel ∧
      w.extractLsb' 15 1 = sc ∧ w.extractLsb' 14 1 = sb ∧ w.extractLsb' 13 1 = sa ∧ w.extractLsb' 11 2 = ord ∧
      w.extractLsb' 8 3 = scope ∧ w.extractLsb' 7 1 = sat ∧ w.extractLsb' 4 3 = rnd ∧ w.extractLsb' 0 4 = type := by
    simp (disch := decide) only [BitVec.extractLsb'_append_eq_of_add_le, BitVec.extractLsb'_append_eq_of_le,
      Nat.sub_self, Nat.reduceSub, BitVec.extractLsb'_eq_self, and_self]
  obtain ⟨hmod, hspan, hcache, hfsel, hsc, hsb, hsa, hord, hscope, hsat, hrest⟩ :=
    fields f.mod f.span f.cache f.fsel (BitVec.ofBool f.sc) (BitVec.ofBool f.sb) (BitVec.ofBool f.sa) f.ord f.scope (BitVec.ofBool f.sat)
      f.rnd f.type
  exact ⟨hmod, hspan, hcache, hfsel, getLsbD_of_extractLsb'_eq_ofBool hsc, getLsbD_of_extractLsb'_eq_ofBool hsb,
    getLsbD_of_extractLsb'_eq_ofBool hsa, hord, hscope, getLsbD_of_extractLsb'_eq_ofBool hsat, hrest⟩

theorem eOp_eWord0 {op : Nat} {f : EForm} {ll : BitVec 2} (hop : op < 1024) : eOp (eWord0 op f ll) = op := by
  obtain ⟨-, -, -, hcode, -⟩ := eWord0_fields op f ll
  rw [eOp, hcode, BitVec.toNat_ofNat, Nat.mod_eq_of_lt hop]

theorem eFields_eWords (op : Nat) (f : EForm) (ll : BitVec 2) : eFields (eWord0 op f ll) (eWord1 f) (eWord2 f) f.lit = f := by
  obtain ⟨hg0, ha, hd, -, -⟩ := eWord0_fields op f ll
  obtain ⟨hz, hgc, hg1, he, hc, hb⟩ := eWord1_fields f
  obtain ⟨hmod, hspan, hcache, hfsel, hsc, hsb, hsa, hord, hscope, hsat, hrnd, htype⟩ := eWord2_fields f
  simp only [eFields, hg0, ha, hd, hz, hgc, hg1, he, hc, hb, hmod, hspan, hcache, hfsel, hsc, hsb, hsa, hord, hscope, hsat, hrnd, htype]

theorem eWord0_eFields {w0 : Word} (w1 w2 : Word) (lit : Option DWord) {ll : BitVec 2} (hll : w0.extractLsb' 0 2 = ll) :
    eWord0 (eOp w0) (eFields w0 w1 w2 lit) ll = w0 := by
  have join : w0.extractLsb' 28 4 ++ w0.extractLsb' 20 8 ++ w0.extractLsb' 12 8 ++ w0.extractLsb' 2 10 ++ w0.extractLsb' 0 2 = w0 := by
    simp (disch := rfl) only [BitVec.extractLsb'_append_extractLsb'_eq_extractLsb']
    exact BitVec.extractLsb'_eq_self
  rw [eWord0, eOp, BitVec.ofNat_toNat, BitVec.setWidth_eq, ← hll]
  exact join

theorem eWord1_eFields (w0 w1 w2 : Word) (lit : Option DWord) : eWord1 (eFields w0 w1 w2 lit) = w1 := by
  have join : w1.extractLsb' 31 1 ++ w1.extractLsb' 28 3 ++ w1.extractLsb' 24 4 ++ w1.extractLsb' 16 8 ++ w1.extractLsb' 8 8 ++
      w1.extractLsb' 0 8 = w1 := by
    simp (disch := rfl) only [BitVec.extractLsb'_append_extractLsb'_eq_extractLsb']
    exact BitVec.extractLsb'_eq_self
  simp only [eWord1, eFields, ofBool_getLsbD_eq_extractLsb']
  exact join

theorem eWord2_eFields (w0 w1 w2 : Word) (lit : Option DWord) : eWord2 (eFields w0 w1 w2 lit) = w2 := by
  have join : w2.extractLsb' 26 6 ++ w2.extractLsb' 22 4 ++ w2.extractLsb' 18 4 ++ w2.extractLsb' 16 2 ++ w2.extractLsb' 15 1 ++
      w2.extractLsb' 14 1 ++ w2.extractLsb' 13 1 ++ w2.extractLsb' 11 2 ++ w2.extractLsb' 8 3 ++ w2.extractLsb' 7 1 ++
      w2.extractLsb' 4 3 ++ w2.extractLsb' 0 4 = w2 := by
    simp (disch := rfl) only [BitVec.extractLsb'_append_extractLsb'_eq_extractLsb']
    exact BitVec.extractLsb'_eq_self
  simp only [eWord2, eFields, ofBool_getLsbD_eq_extractLsb']
  exact join

/-- A literal is put together from its two words. -/
theorem literal_join (x : DWord) : x.extractLsb' 32 32 ++ x.extractLsb' 0 32 = x := BitVec.extractLsb'_append_extractLsb' (w := 32) (len := 32)

theorem literal_split (w3 w4 : Word) : (w4 ++ w3).extractLsb' 0 32 = w3 ∧ (w4 ++ w3).extractLsb' 32 32 = w4 :=
  ⟨BitVec.extractLsb'_append_eq_right, BitVec.extractLsb'_append_eq_left⟩

/-! ### Run headers -/

/-- The word of a run header. -/
def hWord (h : HForm) : Word := h.prio ++ BitVec.ofBool h.rgn ++ h.len ++ h.setB ++ h.setA ++ h.wait ++ (3 : BitVec 2)

theorem encodeH_eq_hWord (h : HForm) : encodeH h = [hWord h] := rfl

theorem hWord_fields (h : HForm) :
    (hWord h).extractLsb' 28 4 = h.prio ∧ (hWord h).getLsbD 27 = h.rgn ∧ (hWord h).extractLsb' 22 5 = h.len ∧
    (hWord h).extractLsb' 18 4 = h.setB ∧ (hWord h).extractLsb' 14 4 = h.setA ∧ (hWord h).extractLsb' 2 12 = h.wait ∧
    (hWord h).extractLsb' 0 2 = 3 := by
  have fields (prio : BitVec 4) (rgn : BitVec 1) (len : BitVec 5) (setB setA : BitVec 4) (wait : BitVec 12) (ll : BitVec 2) :
      let w := prio ++ rgn ++ len ++ setB ++ setA ++ wait ++ ll
      w.extractLsb' 28 4 = prio ∧ w.extractLsb' 27 1 = rgn ∧ w.extractLsb' 22 5 = len ∧ w.extractLsb' 18 4 = setB ∧
      w.extractLsb' 14 4 = setA ∧ w.extractLsb' 2 12 = wait ∧ w.extractLsb' 0 2 = ll := by
    simp (disch := decide) only [BitVec.extractLsb'_append_eq_of_add_le, BitVec.extractLsb'_append_eq_of_le,
      Nat.sub_self, Nat.reduceSub, BitVec.extractLsb'_eq_self, and_self]
  obtain ⟨hprio, hrgn, hrest⟩ := fields h.prio (BitVec.ofBool h.rgn) h.len h.setB h.setA h.wait 3
  exact ⟨hprio, getLsbD_of_extractLsb'_eq_ofBool hrgn, hrest⟩

theorem hFields_hWord (h : HForm) : hFields (hWord h) = h := by
  obtain ⟨hprio, hrgn, hlen, hsetB, hsetA, hwait, -⟩ := hWord_fields h
  simp only [hFields, hprio, hrgn, hlen, hsetB, hsetA, hwait]

theorem hWord_hFields {w : Word} (hll : w.extractLsb' 0 2 = 3) : hWord (hFields w) = w := by
  have join : w.extractLsb' 28 4 ++ w.extractLsb' 27 1 ++ w.extractLsb' 22 5 ++ w.extractLsb' 18 4 ++ w.extractLsb' 14 4 ++
      w.extractLsb' 2 12 ++ w.extractLsb' 0 2 = w := by
    simp (disch := rfl) only [BitVec.extractLsb'_append_extractLsb'_eq_extractLsb']
    exact BitVec.extractLsb'_eq_self
  simp only [hWord, hFields, ofBool_getLsbD_eq_extractLsb', ← hll]
  exact join

/-! ### The tables of opcodes -/

/-- An OP10 value of the E-form table: its instruction is no agent step, and the encoder gives it the same OP10. -/
theorem eInstr_encode {op : Nat} {f : EForm} {i : Instr} (h : eInstr op f = some i) :
    op < 1024 ∧ isEvent i = false ∧ encode i = encodeE op f := by
  revert h
  fun_cases eInstr op f <;> intro h <;> cases h <;> exact ⟨by decide, rfl, rfl⟩

/-- The same for the B-form table. -/
theorem bInstr_encode {op : Nat} {f : BForm} {i : Instr} (h : bInstr op f = some i) :
    IsBOp op ∧ isEvent i = false ∧ encode i = encodeB op f := by
  revert h
  fun_cases bInstr op f <;> intro h <;> cases h <;> exact ⟨⟨by decide, by decide⟩, rfl, rfl⟩

/-- What has an opcode stands in one of the two tables, a B-form beside the E-form that it means. -/
theorem tables_of_parts {i : Instr} {op : Nat} {f : EForm} (h : i.parts = some (op, f)) :
    eInstr op f = some i ∨ ∃ b, f = bToE op b ∧ bInstr op b = some i ∧ wellFormed i = bFormOk op b := by
  cases i <;> first
    | (cases h; done)
    | (cases h; exact .inl rfl)
    | (cases h; exact .inr ⟨_, rfl, rfl, rfl⟩)

/-- What is no agent step is a run header or has an opcode. -/
theorem run_or_parts {i : Instr} (h : isEvent i = false) : (∃ r, i = .run r) ∨ ∃ op f, i.parts = some (op, f) := by
  unfold isEvent at h
  split at h
  · exact .inl ⟨_, rfl⟩
  · obtain ⟨⟨op, f⟩, hp⟩ := Option.isSome_iff_exists.1 (Option.isNone_eq_false_iff.1 h)
    exact .inr ⟨op, f, hp⟩

/-- A well-formed B-form of classes 10 and 11 leaves the half bit clear. -/
theorem half_of_bFormOk {op : Nat} {f : BForm} (h : bFormOk op f = true) (hop : 512 ≤ op) : f.h = false := by
  simp only [bFormOk, Bool.and_eq_true, Bool.or_eq_true, decide_eq_true_eq, Bool.not_eq_true'] at h
  exact h.2.resolve_left (by omega)

/-! ### The decoder, LL by LL -/

theorem decodeWords_bForm {w : Word} {i : Instr} (rest : List Word) (hll : w.extractLsb' 0 2 = 0)
    (h : bInstr (bOp w) (bFields w) = some i) : decodeWords (w :: rest) = .ok (i, 1) := by
  have hform : llOf w = 0 := congrArg BitVec.toNat hll
  simp only [decodeWords, hform, h]

theorem decodeWords_eForm {w w1 w2 : Word} {i : Instr} (rest : List Word) (hll : w.extractLsb' 0 2 = 1)
    (h : eInstr (eOp w) (eFields w w1 w2 none) = some i) : decodeWords (w :: w1 :: w2 :: rest) = .ok (i, 3) := by
  have hform : llOf w = 1 := congrArg BitVec.toNat hll
  simp only [decodeWords, hform, h]

theorem decodeWords_literal {w w1 w2 w3 w4 : Word} {i : Instr} (rest : List Word) (hll : w.extractLsb' 0 2 = 2)
    (h : eInstr (eOp w) (eFields w w1 w2 (some (w4 ++ w3))) = some i) :
    decodeWords (w :: w1 :: w2 :: w3 :: w4 :: rest) = .ok (i, 5) := by
  have hform : llOf w = 2 := congrArg BitVec.toNat hll
  simp only [decodeWords, hform, h]

theorem decodeWords_header {w : Word} (rest : List Word) (hll : w.extractLsb' 0 2 = 3) :
    decodeWords (w :: rest) = .ok (.run (hFields w), 1) := by
  have hform : llOf w = 3 := congrArg BitVec.toNat hll
  simp only [decodeWords, hform]

/-- What words that decode are: LL fixes the form, and the words that it calls for are there. -/
theorem decodeWords_cases {w : Word} {ws : List Word} {i : Instr} {n : Nat} (h : decodeWords (w :: ws) = .ok (i, n)) :
    (w.extractLsb' 0 2 = 0 ∧ n = 1 ∧ bInstr (bOp w) (bFields w) = some i) ∨
    (w.extractLsb' 0 2 = 1 ∧ n = 3 ∧ ∃ w1 w2 r, ws = w1 :: w2 :: r ∧ eInstr (eOp w) (eFields w w1 w2 none) = some i) ∨
    (w.extractLsb' 0 2 = 2 ∧ n = 5 ∧ ∃ w1 w2 w3 w4 r, ws = w1 :: w2 :: w3 :: w4 :: r ∧
      eInstr (eOp w) (eFields w w1 w2 (some (w4 ++ w3))) = some i) ∨
    (w.extractLsb' 0 2 = 3 ∧ n = 1 ∧ i = .run (hFields w)) := by
  have hll (k : BitVec 2) (e : llOf w = k.toNat) : w.extractLsb' 0 2 = k := BitVec.eq_of_toNat_eq e
  simp only [decodeWords] at h
  split at h
  · next e =>
    split at h <;> cases h
    exact .inl ⟨hll 0 e, rfl, ‹_›⟩
  · next e =>
    split at h <;> cases h
    exact .inr (.inl ⟨hll 1 e, rfl, _, _, _, rfl, ‹_›⟩)
  · next e =>
    split at h <;> cases h
    exact .inr (.inr (.inl ⟨hll 2 e, rfl, _, _, _, _, _, rfl, ‹_›⟩))
  · next e =>
    cases h
    exact .inr (.inr (.inr ⟨hll 3 e, rfl, rfl⟩))
  · cases h

/-! ### Decoding what is encoded -/

theorem decode_encode_run (h : HForm) (rest : List Word) : decodeWords (encode (.run h) ++ rest) = .ok (.run h, (encode (.run h)).length) := by
  obtain ⟨-, -, -, -, -, -, hll⟩ := hWord_fields h
  have hdec := decodeWords_header rest hll
  rwa [hFields_hWord] at hdec

theorem decode_encodeB {op : Nat} {f : BForm} {i : Instr} (rest : List Word) (h : bInstr op f = some i) (hh : 512 ≤ op → f.h = false) :
    decodeWords (encodeB op f ++ rest) = .ok (i, (encodeB op f).length) := by
  obtain ⟨hop, -, -⟩ := bInstr_encode h
  obtain ⟨-, -, -, -, -, hll⟩ := bWord_fields op f
  rw [encodeB_eq_bWord]
  exact decodeWords_bForm rest hll (by rwa [bOp_bWord hop, bFields_bWord hop hh])

theorem decode_encodeE {op : Nat} {f : EForm} {i : Instr} (rest : List Word) (h : eInstr op f = some i) :
    decodeWords (encodeE op f ++ rest) = .ok (i, (encodeE op f).length) := by
  obtain ⟨hop, -, -⟩ := eInstr_encode h
  cases hl : f.lit with
  | none =>
    obtain ⟨-, -, -, -, hll⟩ := eWord0_fields op f 1
    have hf := eFields_eWords op f 1
    rw [hl] at hf
    rw [encodeE_of_plain hl]
    exact decodeWords_eForm rest hll (by rwa [eOp_eWord0 hop, hf])
  | some x =>
    obtain ⟨-, -, -, -, hll⟩ := eWord0_fields op f 2
    have hf := eFields_eWords op f 2
    rw [hl] at hf
    rw [encodeE_of_literal hl]
    exact decodeWords_literal rest hll (by rwa [eOp_eWord0 hop, literal_join, hf])

/-- Settles O2: a run header, a B-form and an E-form each decode from their own words. -/
theorem decodeOfEncodeIsTheInstruction : Obligations.DecodeOfEncodeIsTheInstruction := by
  unfold Obligations.DecodeOfEncodeIsTheInstruction
  intro i rest hwf hev
  obtain ⟨h, rfl⟩ | ⟨op, f, hp⟩ := run_or_parts hev
  · exact decode_encode_run h rest
  · obtain he | ⟨b, -, hb, hok⟩ := tables_of_parts hp
    · obtain ⟨-, -, hwords⟩ := eInstr_encode he
      rw [hwords]
      exact decode_encodeE rest he
    · obtain ⟨-, -, hwords⟩ := bInstr_encode hb
      rw [hwords]
      exact decode_encodeB rest hb (half_of_bFormOk (hok ▸ hwf))

/-! ### Encoding what is decoded -/

/-- Settles O3: LL by LL, the words are put together from the fields that the decoder read. -/
theorem encodeOfDecodeIsTheWords : Obligations.EncodeOfDecodeIsTheWords := by
  unfold Obligations.EncodeOfDecodeIsTheWords
  intro ws i n h
  cases ws with
  | nil => cases h
  | cons w ws =>
    obtain ⟨hll, rfl, hb⟩ | ⟨hll, rfl, w1, w2, r, rfl, he⟩ | ⟨hll, rfl, w1, w2, w3, w4, r, rfl, he⟩ | ⟨hll, rfl, rfl⟩ := decodeWords_cases h
    · obtain ⟨-, hev, hwords⟩ := bInstr_encode hb
      refine ⟨hev, ?_⟩
      rw [hwords, encodeB_eq_bWord, bWord_bFields hll]
      rfl
    · obtain ⟨-, hev, hwords⟩ := eInstr_encode he
      refine ⟨hev, ?_⟩
      rw [hwords, encodeE_of_plain rfl, eWord0_eFields w1 w2 none hll, eWord1_eFields, eWord2_eFields]
      rfl
    · obtain ⟨-, hev, hwords⟩ := eInstr_encode he
      obtain ⟨hlo, hhi⟩ := literal_split w3 w4
      refine ⟨hev, ?_⟩
      rw [hwords, encodeE_of_literal rfl, eWord0_eFields w1 w2 _ hll, eWord1_eFields, eWord2_eFields, hlo, hhi]
      rfl
    · refine ⟨rfl, ?_⟩
      rw [encode, encodeH_eq_hWord, hWord_hFields hll]
      rfl

/-- Settles O4: each value of LL excludes the others, and its case of the decoder has the form. -/
theorem lengthBitsFixTheForm : Obligations.LengthBitsFixTheForm := by
  unfold Obligations.LengthBitsFixTheForm
  intro w ws i n h
  obtain ⟨hll, rfl, hb⟩ | ⟨hll, rfl, w1, w2, r, rfl, he⟩ | ⟨hll, rfl, w1, w2, w3, w4, r, rfl, he⟩ | ⟨hll, rfl, rfl⟩ := decodeWords_cases h <;>
    rw [hll] <;> refine ⟨fun e => ?_, fun e => ?_, fun e => ?_, fun e => ?_⟩
  case inl.refine_1 => exact ⟨rfl, _, _, hb⟩
  case inr.inl.refine_2 => exact ⟨rfl, _, _, he, rfl⟩
  case inr.inr.inl.refine_3 => exact ⟨rfl, _, _, w1, w2, w3, w4, r, rfl, he, rfl⟩
  case inr.inr.inr.refine_4 => exact ⟨rfl, _, rfl⟩
  all_goals exact absurd e (by decide)

/-! ### The E-form that a B-form means -/

/-- The fields that a B-form does not have take their implied values (R129). -/
theorem bToE_implied (op : Nat) (f : BForm) :
    (bToE op f).g0 = f.g ∧ (bToE op f).gc = 0 ∧ (bToE op f).g1 = 0 ∧ (bToE op f).type = 0 ∧ (bToE op f).rnd = 0 ∧
    (bToE op f).sat = false ∧ (bToE op f).cache = 0 ∧ (bToE op f).span = 0 ∧ (bToE op f).ord = 0 ∧ (bToE op f).lit = none := by
  fun_cases bToE op f <;> exact ⟨rfl, rfl, rfl, rfl, rfl, rfl, rfl, rfl, rfl, rfl⟩

/-- A B-form is carried out as the E-form that it means. -/
theorem exec_bInstr {op : Nat} {f : BForm} {i : Instr} (s : State) (h : bInstr op f = some i) :
    ∃ j, eInstr op (bToE op f) = some j ∧ exec i s = exec j s := by
  revert h
  fun_cases bInstr op f <;> intro h <;> cases h <;> exact ⟨_, rfl, rfl⟩

/-- Settles O5. -/
theorem bFormExecutesAsItsEForm : Obligations.BFormExecutesAsItsEForm := by
  unfold Obligations.BFormExecutesAsItsEForm
  intro op f i s h
  obtain ⟨j, hj, hexec⟩ := exec_bInstr s h
  exact ⟨j, hj, hexec, bToE_implied op f⟩

/-! ### Words of the spec -/

/-- Settles O1: each word is decoded. -/
theorem writtenWordsDecode : Obligations.WrittenWordsDecode := by
  unfold Obligations.WrittenWordsDecode
  exact ⟨⟨_, rfl, rfl⟩, ⟨_, rfl, rfl, rfl, rfl, rfl, rfl, rfl⟩, ⟨_, rfl, rfl, rfl⟩, ⟨_, rfl, rfl, rfl, rfl, rfl⟩, ⟨_, rfl, rfl⟩,
    ⟨_, rfl, rfl, rfl⟩, ⟨_, rfl, rfl, rfl⟩, ⟨_, rfl, rfl, rfl, rfl⟩, ⟨_, rfl, rfl⟩, ⟨_, rfl, rfl, rfl, rfl, rfl, rfl⟩⟩

end Sys2Proof
end

section
/-!
PROOF. The hard-wired registers, and reads after writes of every other (06 R113, R114): the laws of p registers and of their poison, then
O18.
-/

namespace Sys2Proof.Machine

open Sys2Proof

variable (gr : Group)

/-- A p register of a lane after a write of another kind: p15 reads 1 (06 R113). -/
theorem getP_wrP (n l i j : Nat) (x q : Bool) (hn : n ≠ 15) (hl : l < 64) (hj : j < 64) :
    (gr.wrP n l x q).getP i j = if i = n ∧ j = l then x else gr.getP i j := by
  have hp : (gr.wrP n l x q).p = tupd 0 gr.p n (setLane (tget 0 gr.p n) l x) := by
    simp [Group.wrP, Group.setP, Group.setPoisP, hn]
  unfold Group.getP Group.getPM
  rw [hp, tget_tupd]
  by_cases hi : i = n
  · subst hi
    simp [hn, hasLane_setLane _ x hl hj]
  · simp [hi]

/-- The poison of a p register of a lane after a write (06 R114). -/
theorem poisP_wrP (n l i j : Nat) (x q : Bool) (hn : n ≠ 15) (hl : l < 64) (hj : j < 64) :
    (gr.wrP n l x q).poisP i j = if i = n ∧ j = l then q else gr.poisP i j := by
  have hp : (gr.wrP n l x q).pPois = tupd 0 gr.pPois n (setLane (tget 0 gr.pPois n) l q) := by
    simp [Group.wrP, Group.setP, Group.setPoisP, hn]
  unfold Group.poisP
  rw [hp, tget_tupd]
  by_cases hi : i = n
  · subst hi
    simp [hn, hasLane_setLane _ q hl hj]
  · simp [hi]

theorem getP_15 {l : Nat} (hl : l < 64) : gr.getP 15 l = true := by
  show hasLane (BitVec.allOnes 64) l = true
  rw [hasLane, BitVec.toNat_allOnes, Nat.testBit_two_pow_sub_one]
  exact decide_eq_true hl

/-- Settles O18. -/
theorem hardwiredRegisters : Obligations.HardwiredRegisters := by
  unfold Obligations.HardwiredRegisters
  intro gr
  refine ⟨fun x q => ?s63, fun l x q => ?p15, fun n i x q hn hi => ?s, fun n i l j x q hn hl hj => ?p, fun n i l j x q hl hj => ?v⟩
  case s63 => exact ⟨rfl, rfl, rfl, rfl⟩
  case p15 => exact ⟨rfl, rfl, rfl, getP_15 _⟩
  case s =>
    have hn' : n ≠ 63 := Nat.ne_of_lt hn
    rw [getS_wrS, poisS_wrS _ _ _ _ _ (Nat.lt_succ_of_lt hn) hi]
    simp only [hn', ne_eq, not_false_eq_true, and_true]
  case p =>
    have hn' : n ≠ 15 := Nat.ne_of_lt hn
    exact ⟨getP_wrP gr n l i j x q hn' hl hj, poisP_wrP gr n l i j x q hn' hl hj⟩
  case v => exact ⟨getV_wrV gr n l i j x q hl hj, poisV_wrV gr n l i j x q hl hj⟩

end Sys2Proof.Machine
end

section
/-!
PROOF. How an instruction and a run header issue (06 R126, R133, R135; 15 R352): the branches of `issue`, then O9, O10, O12 and O14.
-/

namespace Sys2Proof.Machine

open Sys2Proof

/-- The arm of an instruction whose context is known. -/
theorem exec_eq_issue {i : Instr} {s : State} {op : Nat} {f : EForm} {m : Meaning} (hp : i.parts = some (op, f)) (hm : meaningOf i = some m) :
    exec i s = issue op f m s := by
  obtain ⟨m', hm', hexec⟩ := exec_of_parts i s hp
  rw [hm] at hm'
  cases hm'
  exact hexec

/-- An instruction without a cause and without an active lane completes (R126, R135). -/
theorem issue_idle {op : Nat} {f : EForm} {m : Meaning} {s : State} {c : Ctx} (hc : issueCtx s op f = some c) (hcs : issueCauses c m s = [])
    (hl : (c.lanes == 0 && !m.always) = true) :
    issue op f m s = .next (advance c (s.modGroup c.g fun gr => gr.decFlag c.gr.hm c.flag)) := by
  simp only [issue, hc, hcs, List.isEmpty_nil, Bool.not_true, Bool.false_eq_true, if_false, hl, if_true]

/-- An instruction that must wait stalls its group, by its own rule or for something before it (R133; 17 R402). -/
theorem issue_waits {op : Nat} {f : EForm} {m : Meaning} {s : State} {c : Ctx} (hc : issueCtx s op f = some c) (hcs : issueCauses c m s = [])
    (hl : (c.lanes == 0 && !m.always) = false) (hrb : rollsBack c.gr c.entry = false) (hh : m.halts c s = false)
    (hw : mustWait c m s = true) :
    issue op f m s = .next (stallGroup (if m.stall c s && !accessWait c m s then m.onStall c s else s) c.g (m.stall c s && !accessWait c m s)) := by
  simp only [issue, hc, hcs, List.isEmpty_nil, Bool.not_true, Bool.false_eq_true, if_false, hl, hrb, Bool.false_and, hh, hw, if_true]

/-- A group that is not cancelled notes its wait. -/
theorem stallGroup_note {s : State} {g : Nat} (own : Bool) (h : cancelled s (s.group g) = false) :
    stallGroup s g own = s.modGroup g fun gr => { gr with stalled := true, waitsAt := own, stoodAt := some (gr.stoodAt.getD s.now) } := by
  simp only [stallGroup, h, Bool.false_eq_true, if_false]

/-- Settles O9: the law of an instruction that issues. -/
theorem instructionHasItsEffect : Obligations.InstructionHasItsEffect := by
  unfold Obligations.InstructionHasItsEffect
  exact fun _ _ _ _ h => exec_issues h

/-- Settles O10. -/
theorem noActiveLaneDoesNothing : Obligations.NoActiveLaneDoesNothing := by
  unfold Obligations.NoActiveLaneDoesNothing
  intro i s c m hp hm hc hcs hl ha
  rw [exec_eq_issue hp hm, issue_idle hc hcs (by rw [hl, ha]; rfl)]

/-- Settles O12: what waits for something before it does not wait by its own rule, and what waits for nothing before it does. -/
theorem waitingInstructionStalls : Obligations.WaitingInstructionStalls := by
  unfold Obligations.WaitingInstructionStalls
  intro i s c m hp hm hc hcs hl hrb hh hw
  have hissue := issue_waits hc hcs hl hrb hh hw
  rw [exec_eq_issue hp hm, hissue]
  refine ⟨fun ha => ?before, fun ha => ?own, fun t g own => stallGroup_note own⟩
  case before => simp only [ha, Bool.not_true, Bool.and_false, Bool.false_eq_true, if_false]
  case own =>
    have hstall : m.stall c s = true := by simpa only [mustWait, ha, Bool.false_or] using hw
    simp only [ha, hstall, Bool.not_false, Bool.and_true, if_true]

/-- The header check of the issue is that of a well-formed header. -/
theorem headerBad_of_headerOk {h : HForm} (ok : headerOk h = true) : issueRun.headerBad h = false := by
  simp only [headerOk, Bool.and_eq_true, Bool.or_eq_true, decide_eq_true_eq, beq_iff_eq] at ok
  obtain ⟨⟨⟨hlo, hhi⟩, hA⟩, hB⟩ := ok
  have hlen : (h.len == 0) = false := by
    rw [beq_eq_false_iff_ne]
    intro e
    simp [e] at hlo
  have hset (x : BitVec 4) (hx : x.toNat < 12 ∨ x = 15) : (decide (12 ≤ x.toNat) && decide (x.toNat < 15)) = false := by
    rcases hx with hx | rfl
    · simp [hx]
    · rfl
  simp only [issueRun.headerBad, hlen, hset _ hA, hset _ hB, Bool.or_false, decide_eq_false_iff_not, Bool.false_or]
  omega

/-- Settles O14: the header passes each of its tests in turn. -/
theorem eligibleRunHeaderIssues : Obligations.EligibleRunHeaderIssues := by
  unfold Obligations.EligibleRunHeaderIssues
  intro h s r hr hi ok he hd
  have hdue : (if r.mid then none else dueEFault s (s.group s.cur) h.wait) = none := by
    cases hm : r.mid with
    | true => rfl
    | false => exact hd hm
  have hexec : exec (.run h) s = issueRun h s := rfl
  simp only [hexec, issueRun, hr, hi, headerBad_of_headerOk ok, he, hdue, Bool.false_eq_true, if_false]

end Sys2Proof.Machine
end

section
/-!
PROOF. The turn of a group executes the instruction that its run has come to (06 R133, R135), and the placed instruction is such a one (log 8);
then O6 and O7.
-/

namespace Sys2Proof.Machine

open Sys2Proof

/-! ### The turn of a group -/

theorem unstalled_eq {gr : Group} (h : gr.stalled = false) : { gr with stalled := false } = gr := by
  cases gr
  cases h
  rfl

/-- No group is stalled any more; nothing else of any group changes. -/
theorem group_unstall (s : State) (g : Nat) : (unstall s).group g = { s.group g with stalled := false } := by
  have table (t : Sp Group) : tget Group.reset (t.map fun e => if e.2.stalled then (e.1, { e.2 with stalled := false }) else e) g =
      { tget Group.reset t g with stalled := false } := by
    induction t with
    | nil => rfl
    | cons e r ih =>
      obtain ⟨k, gr⟩ := e
      simp only [tget] at ih ⊢
      by_cases hk : k = g <;> cases hs : gr.stalled
      · simp only [List.map_cons, hs, tfind, hk, if_true, Bool.false_eq_true, if_false, Option.getD_some, unstalled_eq hs]
      · simp only [List.map_cons, hs, tfind, hk, if_true, Option.getD_some]
      · simpa only [List.map_cons, hs, tfind, hk, Bool.false_eq_true, if_false] using ih
      · simpa only [List.map_cons, hs, tfind, hk, if_true, if_false] using ih
  exact table s.groups

/-- The group whose turn it is notes the turn. -/
theorem group_turn (s : State) (g : Nat) : (s.turn g).group g = { s.group g with stalled := false, turned := s.now } := by
  have hg : (s.turn g).group g = { (unstall s).group g with turned := s.now } :=
    group_modGroup_same (unstall s) g fun gr => { gr with turned := s.now }
  rw [hg, group_unstall]

/-- A group whose run has not issued issues its header. -/
theorem issueNext_header {s : State} {g : Nat} {r : Run} (hr : (s.group g).run = some r) (hi : r.issued = false)
    (he : (s.group g).ended = false) (hs : (s.group g).saved = false) : issueNext s g = exec (.run r.h) (s.turn g) := by
  simp only [issueNext, group_turn, hr, hi, he, hs, Bool.or_self, Bool.false_eq_true, if_false, Bool.not_false, if_true]

/-- A group whose run is in progress executes the instruction that it has come to. -/
theorem issueNext_instr {s : State} {g n : Nat} {r : Run} {i : Instr} (hr : (s.group g).run = some r) (hi : r.issued = true)
    (hl : r.left ≠ 0) (he : (s.group g).ended = false) (hs : (s.group g).saved = false)
    (hd : decodeWords (r.words.drop r.ofs) = .ok (i, n)) (hn : ∀ h, i ≠ .run h) : issueNext s g = exec i (s.turn g) := by
  simp only [issueNext, group_turn, hr, hi, he, hs, Bool.or_self, Bool.false_eq_true, if_false, Bool.not_true, beq_eq_false_iff_ne.2 hl, hd]

/-- The step is a group's turn when that is what is given first. -/
theorem step_issue {s : State} {g : Nat} {rest : List Due} (ha : s.agenda = .issue g :: rest) :
    step s = issueNext { s with agenda := rest } g := by
  simp only [step, nextStep, ha, runDue]

/-- Settles O6. -/
theorem stepRunsTheDecodedInstruction : Obligations.StepRunsTheDecodedInstruction := by
  unfold Obligations.StepRunsTheDecodedInstruction
  intro s g rest r i n ha hr hi hl he hs hd hn
  rw [step_issue ha]
  exact issueNext_instr hr hi hl he hs hd hn

/-! ### The placed instruction -/

/-- A word is put together from its bytes. -/
theorem word_of_bytes (w : Word) : w.extractLsb' 24 8 ++ w.extractLsb' 16 8 ++ w.extractLsb' 8 8 ++ w.extractLsb' 0 8 = w := by
  simp (disch := rfl) only [BitVec.extractLsb'_append_extractLsb'_eq_extractLsb']
  exact BitVec.extractLsb'_eq_self

/-- Words are read back from the bytes that memory holds them in. -/
theorem wordsOfBytes_bytesOfWords (ws : List Word) : wordsOfBytes (bytesOfWords ws) = ws := by
  induction ws with
  | nil => rfl
  | cons w ws ih => exact congrArg₂ List.cons (word_of_bytes w) ih

/-- What the decoder reads from a table word, it reads from its words. -/
theorem decodeWords_of_decodeTableWord {nbits w : Nat} {i : Instr} (h : decodeTableWord nbits w = some i) :
    ∃ n, decodeWords (tableWords (w % 2 ^ nbits)) = .ok (i, n) := by
  simp only [decodeTableWord, decodeBytes, wordsOfBytes_bytesOfWords] at h
  split at h
  · next j n e =>
    cases h
    exact ⟨n, e⟩
  · cases h

/-- The first word of a decoded run header is the header's. -/
theorem ll_of_decoded_header {w : Word} {ws : List Word} {h : HForm} {n : Nat} (hd : decodeWords (w :: ws) = .ok (.run h, n)) :
    w.extractLsb' 0 2 = 3 := by
  obtain ⟨-, hwords⟩ := encodeOfDecodeIsTheWords _ _ _ hd
  obtain ⟨-, -, -, -, -, -, hll⟩ := hWord_fields h
  cases n with
  | zero => cases hwords
  | succ n =>
    obtain ⟨rfl, -⟩ := List.cons.inj hwords
    exact hll

/-- The group that a placed instruction runs in: its run is at the instruction. -/
theorem group_withFetchWord (s : State) (nbits w : Nat) :
    ((s.withFetchWord nbits w).group s.nextId).run = some (placedRun (tableWords (w % 2 ^ nbits))) ∧
    ((s.withFetchWord nbits w).group s.nextId).ended = false ∧ ((s.withFetchWord nbits w).group s.nextId).saved = false := by
  have hg : (s.withFetchWord nbits w).group s.nextId = _ := tget_tput_same Group.reset s.groups s.nextId _
  rw [hg]
  exact ⟨rfl, rfl, rfl⟩

/-- Settles O7: a placed header is issued, and another placed instruction stands in an issued run. -/
theorem placedInstructionRunsNext : Obligations.PlacedInstructionRunsNext := by
  unfold Obligations.PlacedInstructionRunsNext
  intro s nbits w i h
  obtain ⟨n, hd⟩ := decodeWords_of_decodeTableWord h
  obtain ⟨hrun, hended, hsaved⟩ := group_withFetchWord s nbits w
  obtain ⟨w0, ws, hws⟩ : ∃ w0 ws, tableWords (w % 2 ^ nbits) = w0 :: ws := ⟨_, _, rfl⟩
  rw [step_issue rfl]
  rw [hws] at hd hrun
  by_cases hll : w0.extractLsb' 0 2 = 3
  case pos =>
    have hhdr : llOf w0 = 3 := congrArg BitVec.toNat hll
    rw [decodeWords_header ws hll] at hd
    cases hd
    have hr : (placedRun (w0 :: ws)).issued = false ∧ (placedRun (w0 :: ws)).h = hFields w0 := by
      simp [placedRun, hhdr]
    obtain ⟨hissued, hh⟩ := hr
    rw [← hh]
    exact issueNext_header hrun hissued hended hsaved
  case neg =>
    have hhdr : (llOf w0 == 3) = false := beq_eq_false_iff_ne.2 fun e => hll (BitVec.eq_of_toNat_eq e)
    have hr : (placedRun (w0 :: ws)).issued = true ∧ (placedRun (w0 :: ws)).words = w0 :: ws := by
      simp [placedRun, hhdr]
    obtain ⟨hissued, hwords⟩ := hr
    refine issueNext_instr hrun hissued Nat.one_ne_zero hended hsaved (hwords ▸ hd) ?_
    rintro h rfl
    exact hll (ll_of_decoded_header hd)

end Sys2Proof.Machine
end

section
/-!
PROOF. The passage from one instruction of a run to the next (06 R133; 18 R435): the recorders change the counters of the register window alone;
then O16. The flags of a run that issues and of an instruction that completes (06 R135); then O15 and O47.
-/

namespace Sys2Proof.Machine

open Sys2Proof

/-! ### The recorders of events (18 R435) -/

/-- Dwords of the window in which the recorders count. -/
def IsRecorder (o : Nat) : Prop := 0x410008 / 8 ≤ o ∧ o < 0x420200 / 8

/-- Two states differ at most in the counters of the recorders. -/
def SameButRecorders (s t : State) : Prop := ∃ win, t = { s with win := win } ∧ ∀ o, ¬ IsRecorder o → tfind win o = tfind s.win o

theorem SameButRecorders.refl (s : State) : SameButRecorders s s := ⟨s.win, rfl, fun _ _ => rfl⟩

theorem SameButRecorders.winSet {s t : State} (h : SameButRecorders s t) {o v : Nat} (ho : IsRecorder (o / 8)) :
    SameButRecorders s (winSet t o v) := by
  obtain ⟨win, rfl, hwin⟩ := h
  refine ⟨tput win (o / 8) (BitVec.ofNat 64 v), rfl, fun k hk => ?_⟩
  have hne : k ≠ o / 8 := fun e => hk (e ▸ ho)
  rw [tfind_tput_ne _ _ hne, hwin k hk]

theorem SameButRecorders.winSet_if {s t : State} (h : SameButRecorders s t) {o v : Nat} {hit : Bool} (ho : hit = true → IsRecorder (o / 8)) :
    SameButRecorders s (if hit then Machine.winSet t o v else t) := by
  split
  · next hhit => exact h.winSet (ho hhit)
  · exact h

theorem SameButRecorders.foldl {α : Type} {f : State → α → State} {s : State}
    (hf : ∀ t e, SameButRecorders s t → SameButRecorders s (f t e)) (es : List α) {t : State} (h : SameButRecorders s t) :
    SameButRecorders s (es.foldl f t) := by
  induction es generalizing t with
  | nil => exact h
  | cons e r ih => exact ih (hf t e h)

/-- The count of an event changes the counters of the recorders alone: those of the cluster's cores or of the device. -/
theorem evCount_sameButRecorders (s : State) (code : Nat) (core : Option Nat) (n : Nat) : SameButRecorders s (evCount s code core n) := by
  unfold evCount
  split
  · exact .refl s
  · refine .foldl (fun t e h => ?_) _ (.refl s)
    dsimp only
    split
    · next hselects =>
      simp only [Bool.and_eq_true, beq_iff_eq] at hselects
      obtain ⟨heven, -⟩ := hselects
      split
      · next hcluster =>
        simp only [Bool.and_eq_true, decide_eq_true_eq] at hcluster
        refine h.winSet_if fun _ => ?_
        unfold IsRecorder
        omega
      · refine h.winSet_if fun hdevice => ?_
        simp only [Bool.and_eq_true, decide_eq_true_eq] at hdevice
        unfold IsRecorder
        omega
    · exact h

theorem evCount_rest (s : State) (code : Nat) (core : Option Nat) (n : Nat) :
    ∃ win, evCount s code core n = { s with win := win } ∧ ∀ o, ¬ IsRecorder o → tfind win o = tfind s.win o :=
  evCount_sameButRecorders s code core n

@[simp] theorem group_evCount (s : State) (code : Nat) (core : Option Nat) (n g : Nat) : (evCount s code core n).group g = s.group g := by
  obtain ⟨win, h, -⟩ := evCount_rest s code core n
  rw [h]
  rfl

/-! ### The middle of a run -/

/-- A run with another instruction to come passes on to it. -/
theorem advance_middle {c : Ctx} {s : State} {r : Run} (hr : (s.group c.g).run = some r) (hl : 2 ≤ r.left) :
    advance c s = (evCount s 3 (some c.gr.core) 1).modGroup c.g fun gr =>
      { gr with run := some { r with ofs := r.ofs + c.nw, left := r.left - 1 }, stalled := false, waitsAt := false, stoodAt := none } := by
  have hl' : decide (1 < r.left) = true := decide_eq_true hl
  simp only [advance, hr, hl', Bool.true_or, if_true]

/-- Settles O16. -/
theorem middleOfARunPassesOn : Obligations.MiddleOfARunPassesOn := by
  unfold Obligations.MiddleOfARunPassesOn
  intro c s r hr hl
  obtain ⟨win, hev, hwin⟩ := evCount_rest s 3 (some c.gr.core) 1
  refine ⟨win, ?next, fun o ho => hwin o ?outside⟩
  case next =>
    rw [advance_middle hr hl, hev]
    rfl
  case outside =>
    unfold IsRecorder
    omega

/-! ### Flags -/

theorem length_modAt {α : Type} (l : List α) (k : Nat) (f : α → α) : (modAt l k f).length = l.length := by
  induction l generalizing k with
  | nil => rfl
  | cons x r ih => cases k <;> simp [modAt, ih]

theorem getD_modAt_same {α : Type} {l : List α} {k : Nat} (f : α → α) (d : α) (hk : k < l.length) :
    (modAt l k f).getD k d = f (l.getD k d) := by
  induction l generalizing k with
  | nil => exact absurd hk (Nat.not_lt_zero k)
  | cons x r ih =>
    cases k with
    | zero => rfl
    | succ k => exact ih (Nat.lt_of_succ_lt_succ hk)

theorem getD_modAt_ne {α : Type} {l : List α} {k j : Nat} (f : α → α) (d : α) (hj : j ≠ k) : (modAt l k f).getD j d = l.getD j d := by
  induction l generalizing k j with
  | nil => rfl
  | cons x r ih =>
    cases k with
    | zero => cases j with
      | zero => exact absurd rfl hj
      | succ j => rfl
    | succ k => cases j with
      | zero => rfl
      | succ j => exact ih fun e => hj (congrArg Nat.succ e)

/-- An element is changed as often as its place is named. -/
theorem getD_foldl_modAt {α β : Type} (place : β → Nat) (f : α → α) (d : α) (xs : List β) {l : List α} {j : Nat} (hj : j < l.length) :
    (xs.foldl (fun l x => modAt l (place x) f) l).getD j d = f^[(xs.filter fun x => place x == j).length] (l.getD j d) := by
  induction xs generalizing l with
  | nil => rfl
  | cons x r ih =>
    rw [List.foldl_cons, ih (by rwa [length_modAt])]
    by_cases h : place x = j
    · subst h
      simp only [List.filter_cons, beq_self_eq_true, if_true, List.length_cons, Function.iterate_succ_apply, getD_modAt_same f d hj]
    · have hb : (place x == j) = false := beq_eq_false_iff_ne.2 h
      simp only [List.filter_cons, hb, Bool.false_eq_true, if_false, getD_modAt_ne f d (Ne.symm h)]

theorem length_foldl_modAt {α β : Type} (place : β → Nat) (f : α → α) (xs : List β) (l : List α) :
    (xs.foldl (fun l x => modAt l (place x) f) l).length = l.length := by
  induction xs generalizing l with
  | nil => rfl
  | cons x r ih => rw [List.foldl_cons, ih, length_modAt]

theorem modFlag_own {gr : Group} (hm : gr.hm = false) (k : Nat) (f : FlagSt → FlagSt) :
    gr.modFlag gr.hm k f = { gr with flags := modAt gr.flags k f } := if_neg (Bool.eq_false_iff.1 hm)

/-- Outside handler mode a change of several flags changes the group's own flags alone. -/
theorem foldl_modFlag {β : Type} (place : β → Nat) (f : FlagSt → FlagSt) (xs : List β) {gr : Group} (hm : gr.hm = false) :
    xs.foldl (fun (gr : Group) x => gr.modFlag gr.hm (place x) f) gr =
      { gr with flags := xs.foldl (fun l x => modAt l (place x) f) gr.flags } := by
  induction xs generalizing gr with
  | nil => rfl
  | cons x r ih =>
    rw [List.foldl_cons, modFlag_own hm]
    exact ih hm

/-! ### The flags of a run that issues (06 R135) -/

/-- The flags that a header waits on. -/
def waited (h : HForm) : List Nat := (List.range 12).filter fun k => h.wait.toNat.testBit k

/-- The flags after those that a header waits on were cleared. -/
def clearedFlags (h : HForm) (l : List FlagSt) : List FlagSt := (waited h).foldl (fun l k => modAt l k fun f => { f with set := false }) l

/-- The flags after the counted instructions were armed. -/
def armedFlags (cnt : List (DWord × Nat)) (l : List FlagSt) : List FlagSt := cnt.foldl (fun l x => modAt l x.2 FlagSt.arm) l

theorem iterate_clear (n : Nat) (f : FlagSt) : (fun f : FlagSt => { f with set := false })^[n] f = { f with set := f.set && n == 0 } := by
  cases n with
  | zero => simp
  | succ n =>
    have h : ∀ m, (fun f : FlagSt => { f with set := false })^[m] { f with set := false } = { f with set := false } := fun m => by
      induction m with
      | zero => rfl
      | succ m ih => exact ih
    rw [Function.iterate_succ_apply, h]
    simp

theorem iterate_arm (n : Nat) (f : FlagSt) : FlagSt.arm^[n] f = { set := f.set && n == 0, pend := f.pend + n } := by
  induction n generalizing f with
  | zero => simp
  | succ n ih =>
    rw [Function.iterate_succ_apply, ih]
    simp [FlagSt.arm, Nat.add_assoc, Nat.add_comm 1]

theorem getD_clearedFlags (h : HForm) {l : List FlagSt} {k : Nat} (d : FlagSt) (hk : k < l.length) (h12 : k < 12) :
    (clearedFlags h l).getD k d = { l.getD k d with set := (l.getD k d).set && !h.wait.getLsbD k } := by
  rw [clearedFlags, getD_foldl_modAt (fun k => k) _ d _ hk, iterate_clear]
  have hempty : (((waited h).filter fun x => x == k).length == 0) = !h.wait.getLsbD k := by
    cases hw : h.wait.getLsbD k with
    | true =>
      have hmem : k ∈ (waited h).filter fun x => x == k :=
        List.mem_filter.2 ⟨List.mem_filter.2 ⟨List.mem_range.2 h12, hw⟩, beq_self_eq_true k⟩
      exact beq_eq_false_iff_ne.2 (List.length_pos_of_mem hmem).ne'
    | false =>
      have hnil : (waited h).filter (fun x => x == k) = [] := List.filter_eq_nil_iff.2 fun x hx hxk => by
        have hx' := (List.mem_filter.1 hx).2
        rw [show x = k from eq_of_beq hxk] at hx'
        exact Bool.false_ne_true (hw.symm.trans hx')
      simp [hnil]
  rw [hempty]

theorem getD_armedFlags (cnt : List (DWord × Nat)) {l : List FlagSt} {k : Nat} (d : FlagSt) (hk : k < l.length) :
    (armedFlags cnt l).getD k d =
      { set := (l.getD k d).set && (cnt.filter fun x => x.2 == k).length == 0,
        pend := (l.getD k d).pend + (cnt.filter fun x => x.2 == k).length } := by
  rw [armedFlags, getD_foldl_modAt (fun x : DWord × Nat => x.2) _ d _ hk, iterate_arm]

/-- The header's clearing of the flags that it waits on. -/
theorem foldl_clear_waited (h : HForm) {gr : Group} (hm : gr.hm = false) :
    (List.range 12).foldl (fun (gr : Group) k =>
      if h.wait.toNat.testBit k then gr.modFlag gr.hm k fun f => { f with set := false } else gr) gr =
      { gr with flags := clearedFlags h gr.flags } := by
  rw [← List.foldl_filter]
  exact foldl_modFlag (fun k => k) _ (waited h) hm

/-- The header's arming of the counted instructions. -/
theorem foldl_armCounted (cnt : List (DWord × Nat)) {gr : Group} (hm : gr.hm = false) :
    cnt.foldl (fun (gr : Group) x => gr.modFlag gr.hm x.2 FlagSt.arm) gr = { gr with flags := armedFlags cnt gr.flags } :=
  foldl_modFlag (fun x : DWord × Nat => x.2) FlagSt.arm cnt hm

theorem flags_enterRegion_if (b : Bool) (gr : Group) (lanes : Lanes) (pc hdr : DWord) :
    (if b then gr.enterRegion lanes pc hdr else gr).flags = gr.flags := by
  cases b <;> rfl

/-- The flags of a group that issues a run outside handler mode, from its first instruction. -/
theorem flags_startRun {s : State} {h : HForm} {r : Run} (hmid : r.mid = false) (hl : r.left ≠ 0) (hm : (s.group s.cur).hm = false) :
    ((startRun s s.cur h r).group s.cur).flags =
      armedFlags (countedFrom r.pc h (r.words.drop r.ofs) r.ofs r.left) (clearedFlags h (s.group s.cur).flags) := by
  unfold startRun
  extract_lets gr mid cnt others gr1 cleared gr3 armed gr5 due r' gr6 gr7 s'
  have hcleared : cleared = { gr1 with flags := clearedFlags h gr.flags } :=
    (if_neg (Bool.eq_false_iff.1 hmid)).trans (foldl_clear_waited h hm)
  have hgr3 : gr3.hm = false ∧ gr3.flags = clearedFlags h gr.flags := by
    simp only [gr3, mid, hmid, hcleared]
    exact ⟨hm, rfl⟩
  have harmed : armed = { gr3 with flags := armedFlags cnt gr3.flags } := by
    simp only [armed, mid, hmid, Bool.false_and, Bool.false_eq_true, if_false]
    exact foldl_armCounted cnt hgr3.1
  have hgr6 : gr6.flags = armed.flags := by
    simp only [gr6, mid, hmid, Bool.false_eq_true, if_false]
    exact flags_enterRegion_if _ armed r.lanes r.pc r.pc
  have hleft : (r'.left == 0) = false := beq_eq_false_iff_ne.2 hl
  have hgr7 : s'.group s.cur = gr7 := (group_evCount ..).trans (group_setGroup_same s s.cur gr7)
  rw [if_neg (Bool.eq_false_iff.1 hleft), hgr7]
  show gr6.flags = _
  rw [hgr6, harmed, hgr3.2]

/-- Settles O15. -/
theorem runHeaderClearsWaitedFlags : Obligations.RunHeaderClearsWaitedFlags := by
  unfold Obligations.RunHeaderClearsWaitedFlags
  intro s h r k hmid hofs hl hk hm hlen n f
  have hk' : k < (s.group s.cur).flags.length := by rwa [hlen]
  have hk'' : k < (clearedFlags h (s.group s.cur).flags).length := by rwa [clearedFlags, length_foldl_modAt (fun k => k)]
  rw [flags_startRun hmid hl hm, getD_armedFlags _ _ hk'', getD_clearedFlags h _ hk' hk, hofs, List.drop_zero]

/-! ### The flag of an instruction that completes (06 R135) -/

/-- The group of a pending instruction that is gone: it has no such instruction, and its flag has counted. -/
theorem group_finishPend {s : State} {g id : Nat} {p : Pend} (h : (s.group g).findPend id = some p) :
    ∃ ps, (finishPend s g id).group g = ({ s.group g with pend := ps } : Group).decFlag p.hm p.flag ∧ ∀ q ∈ ps, q.id ≠ id := by
  unfold finishPend
  simp only [h]
  generalize hps : List.map _ (List.filter _ (s.group g).pend) = ps
  obtain ⟨ws, hws⟩ := foldl_wire_rest (fun q : Pend => q.after.contains id || q.afterSent.contains id) (fun q => .instrComplete g q.id)
    (({ s.group g with pend := ps } : Group).decFlag p.hm p.flag).pend
    (s.setGroup g (({ s.group g with pend := ps } : Group).decFlag p.hm p.flag))
  refine ⟨ps, ?group, ?gone⟩
  case group =>
    rw [hws]
    exact group_setGroup_same s g _
  case gone =>
    subst hps
    intro q hq
    obtain ⟨r, hr, rfl⟩ := List.mem_map.1 hq
    have hne : r.id ≠ id := of_decide_eq_true (List.mem_filter.1 hr).2
    split <;> exact hne

/-- Settles O47: the instruction is gone, and its flag counts it. -/
theorem completionCountsOnItsFlag : Obligations.CompletionCountsOnItsFlag := by
  unfold Obligations.CompletionCountsOnItsFlag
  intro s g id k p hp hf hk hm hlen gr f
  obtain ⟨ps, hgroup, hids⟩ := group_finishPend hp
  have hgr : gr = { s.group g with pend := ps, flags := modAt (s.group g).flags k FlagSt.done } := by
    show (finishPend s g id).group g = _
    rw [hgroup, hf, hm]
    rfl
  rw [hgr]
  exact ⟨getD_modAt_same _ _ (by rwa [hlen]), fun j hj => getD_modAt_ne _ _ hj, findPend_none_of_ids hids, rfl, rfl, rfl⟩

end Sys2Proof.Machine
end

section
/-!
PROOF. The end of a run changes no register (06 R113; 15 R355): the registers of every group through the signals, the frontier, the end of a
group and the return from a trap that a run's end brings about; then O17. The state in which a group starts (06 R115); then O57.
-/

namespace Sys2Proof.Machine

open Sys2Proof

/-! ### Registers kept -/

/-- Two groups have the same registers, with their poison (06 R113, R114). -/
structure SameRegs (a b : Group) : Prop where
  v : b.v = a.v
  s : b.s = a.s
  p : b.p = a.p
  vPois : b.vPois = a.vPois
  sPois : b.sPois = a.sPois
  pPois : b.pPois = a.pPois

/-- Every group has the same registers in two states. -/
structure KeepsRegs (s t : State) : Prop where
  group : ∀ h, SameRegs (s.group h) (t.group h)

section
variable {a b : Group} {s t u : State} {α : Type}

theorem SameRegs.refl (a : Group) : SameRegs a a := ⟨rfl, rfl, rfl, rfl, rfl, rfl⟩

theorem SameRegs.trans {c : Group} (h : SameRegs a b) (k : SameRegs b c) : SameRegs a c :=
  ⟨k.v.trans h.v, k.s.trans h.s, k.p.trans h.p, k.vPois.trans h.vPois, k.sPois.trans h.sPois, k.pPois.trans h.pPois⟩

theorem SameRegs.foldl {f : Group → α → Group} (hf : ∀ gr x, SameRegs gr (f gr x)) (xs : List α) (h : SameRegs a b) :
    SameRegs a (xs.foldl f b) := by
  induction xs generalizing b with
  | nil => exact h
  | cons x r ih => exact ih (h.trans (hf b x))

theorem KeepsRegs.refl (s : State) : KeepsRegs s s := ⟨fun _ => .refl _⟩

theorem KeepsRegs.trans (h : KeepsRegs s t) (k : KeepsRegs t u) : KeepsRegs s u := ⟨fun g => (h.group g).trans (k.group g)⟩

/-- What leaves the groups alone keeps their registers. -/
theorem KeepsRegs.of_groups (h : KeepsRegs s t) (e : u.groups = t.groups) : KeepsRegs s u := ⟨fun g => by
  rw [show u.group g = t.group g by simp only [State.group, e]]
  exact h.group g⟩

/-- A change of one group that keeps its registers. -/
theorem KeepsRegs.setGroup {g : Nat} {gr : Group} (h : KeepsRegs s t) (hg : SameRegs (t.group g) gr) : KeepsRegs s (t.setGroup g gr) := ⟨fun k => by
  by_cases hk : k = g
  · subst hk
    rw [group_setGroup_same]
    exact (h.group k).trans hg
  · rw [group_setGroup_ne _ _ hk]
    exact h.group k⟩

theorem KeepsRegs.modGroup {g : Nat} {f : Group → Group} (h : KeepsRegs s t) (hg : ∀ gr, SameRegs gr (f gr)) : KeepsRegs s (t.modGroup g f) :=
  h.setGroup (hg _)

theorem KeepsRegs.foldl {f : State → α → State} (hf : ∀ t x, KeepsRegs t (f t x)) (xs : List α) (h : KeepsRegs s t) :
    KeepsRegs s (xs.foldl f t) := by
  induction xs generalizing t with
  | nil => exact h
  | cons x r ih => exact ih (h.trans (hf t x))

end

/-! ### What leaves every group alone -/

theorem groups_foldl {α : Type} {f : State → α → State} (hf : ∀ s x, (f s x).groups = s.groups) (xs : List α) (s : State) :
    (xs.foldl f s).groups = s.groups := by
  induction xs generalizing s with
  | nil => rfl
  | cons x r ih => exact (ih _).trans (hf s x)

@[simp] theorem evCount_groups (s : State) (code : Nat) (core : Option Nat) (n : Nat) : (evCount s code core n).groups = s.groups := by
  obtain ⟨win, h, -⟩ := evCount_rest s code core n
  rw [h]

@[simp] theorem wireOnce_groups (s : State) (m : Msg) : (s.wireOnce m).groups = s.groups := by
  unfold State.wireOnce
  split <;> rfl

@[simp] theorem dbgEvt_groups (s : State) (bit : Nat) : (dbgEvt s bit).groups = s.groups := by
  unfold dbgEvt
  dsimp only
  split <;> rfl

@[simp] theorem leuth_groups (s : State) (cls kind payload core group seq pc : Nat) (dev orphan : Bool) :
    (leuth s cls kind payload core group seq pc dev orphan).groups = s.groups := by
  unfold leuth
  dsimp only
  split
  · rfl
  · split
    · rfl
    · split
      · exact wireOnce_groups _ _
      · rfl

@[simp] theorem rfrzTrigger_groups (s : State) (bit : Nat) : (rfrzTrigger s bit).groups = s.groups := by
  unfold rfrzTrigger
  dsimp only
  split
  · rfl
  · split
    · rfl
    · simp only [leuth_groups, dbgEvt_groups, winSet_groups]

@[simp] theorem causeTrigger_groups (s : State) (cause : Nat) : (causeTrigger s cause).groups = s.groups := by
  unfold causeTrigger
  split
  · exact rfrzTrigger_groups s 1
  · split
    · exact rfrzTrigger_groups s 2
    · rfl

@[simp] theorem launchFault_groups (s : State) (l cause group : Nat) : (launchFault s l cause group).groups = s.groups := rfl

@[simp] theorem unpark_groups (s : State) (p : Parked) (abandon : Bool) : (unpark s p abandon).groups = s.groups := by
  cases p with
  | matrix core id => cases abandon <;> rfl
  | none => rfl
  | query c id => rfl
  | baton c q => rfl

@[simp] theorem setBar_groups (s : State) (b : BarRef) (v : Bar) : (setBar s b v).groups = s.groups := by
  unfold setBar
  split <;> rfl

@[simp] theorem replace_groups (s : State) : (replace s).groups = s.groups := by
  refine groups_foldl (fun s e => ?_) _ s
  split
  · exact wireOnce_groups s _
  · rfl

@[simp] theorem childKick_groups (s : State) : (childKick s).groups = s.groups := by
  refine groups_foldl (fun s e => (groups_foldl (fun s b => wireOnce_groups s _) _ _).trans ?_) _ s
  split
  · rfl
  · exact wireOnce_groups s _

@[simp] theorem faultRecord_groups (s : State) (core group seq pc cause sub : Nat) (orphan : Bool) :
    (faultRecord s core group seq pc cause sub orphan).groups = s.groups := leuth_groups ..

@[simp] theorem watchRecord_groups (s : State) (c core group seq pc : Nat) (h : WatchHit) (orphan : Bool) :
    (watchRecord s c core group seq pc h orphan).groups = s.groups := leuth_groups ..

@[simp] theorem advanceBar_groups (s : State) (b : BarRef) (who : Nat) (pc : DWord) (last : BitVec 16) (n : Nat) :
    (advanceBar s b who pc last n).groups = s.groups := by
  induction n generalizing s with
  | zero => rfl
  | succ n ih =>
    unfold advanceBar
    dsimp only
    split
    · rw [ih]
      refine (groups_foldl (fun s e => ?_) _ _).trans ((setBar_groups ..).trans (leuth_groups ..))
      split <;> rfl
    · rfl

@[simp] theorem passWires_groups (s : State) (g : Nat) : (passWires s g).groups = s.groups := by
  refine groups_foldl (fun s w => ?_) _ s
  split
  · split
    · exact wireOnce_groups s _
    · rfl
  · rfl

/-! ### The frontier -/

section
variable {a b : Group} {s t : State}

theorem SameRegs.join {pc hdr : DWord} {mask : Lanes} {prio : Nat} {ws : List Wait} (h : SameRegs a b) :
    SameRegs a (b.join pc hdr mask prio ws) := by
  unfold Group.join
  split
  · exact h
  · split
    · exact ⟨h.v, h.s, h.p, h.vPois, h.sPois, h.pPois⟩
    · split <;> exact ⟨h.v, h.s, h.p, h.vPois, h.sPois, h.pPois⟩

theorem SameRegs.joinAll {prio : DWord → Nat} {moves : List Held} (h : SameRegs a b) : SameRegs a (b.joinAll prio moves) :=
  h.foldl (fun gr _ => (SameRegs.refl gr).join) _

theorem SameRegs.unhold {prio : DWord → Nat} {n : Nat} (h : SameRegs a b) : SameRegs a (b.unhold prio n) := by
  induction n generalizing b with
  | zero => exact h
  | succ n ih =>
    unfold Group.unhold
    split
    · exact h
    · split
      · exact ih (SameRegs.join ⟨h.v, h.s, h.p, h.vPois, h.sPois, h.pPois⟩)
      · exact h

theorem SameRegs.merge (h : SameRegs a b) : SameRegs a b.merge := by
  refine SameRegs.foldl (fun gr e => ?_) _ ⟨h.v, h.s, h.p, h.vPois, h.sPois, h.pPois⟩
  split
  · exact (SameRegs.refl gr).join
  · exact ⟨rfl, rfl, rfl, rfl, rfl, rfl⟩

theorem SameRegs.joinRelease (h : SameRegs a b) : SameRegs a b.joinRelease := by
  refine h.foldl (fun gr k => ?_) _
  dsimp only
  split
  · exact ⟨rfl, rfl, rfl, rfl, rfl, rfl⟩
  · exact .refl gr

theorem KeepsRegs.settle {g : Nat} (h : KeepsRegs s t) : KeepsRegs s (settle t g) :=
  h.setGroup (SameRegs.unhold (SameRegs.merge ⟨rfl, rfl, rfl, rfl, rfl, rfl⟩))

theorem KeepsRegs.rotateHeld {g : Nat} (h : KeepsRegs s t) : KeepsRegs s (rotateHeld t g) := by
  unfold Machine.rotateHeld
  dsimp only
  split
  · split
    · exact h
    · refine (h.setGroup ?_).settle
      exact ⟨rfl, rfl, rfl, rfl, rfl, rfl⟩
  · exact h

end

/-! ### The end of a group -/

section
variable {s t : State}

theorem KeepsRegs.releaseFut {g k lane : Nat} (h : KeepsRegs s t) : KeepsRegs s (releaseFut t g k lane) := by
  unfold Machine.releaseFut
  dsimp only
  split
  · exact h.modGroup fun _ => ⟨rfl, rfl, rfl, rfl, rfl, rfl⟩
  · refine (KeepsRegs.of_groups h ?_).modGroup fun _ => ?_
    · rfl
    · exact ⟨rfl, rfl, rfl, rfl, rfl, rfl⟩

theorem KeepsRegs.finishPend {g id : Nat} (h : KeepsRegs s t) : KeepsRegs s (finishPend t g id) := by
  cases hp : (t.group g).findPend id with
  | none =>
    have hnone : Machine.finishPend t g id = t := by simp only [Machine.finishPend, hp]
    rwa [hnone]
  | some p =>
    obtain ⟨ps, fl, hf, ws, e, -⟩ := finishPend_rest hp
    rw [e]
    exact KeepsRegs.of_groups (h.setGroup (g := g) (gr := { t.group g with pend := ps, flags := fl, hflags := hf })
      ⟨rfl, rfl, rfl, rfl, rfl, rfl⟩) rfl

theorem KeepsRegs.cancelPend {g id : Nat} (h : KeepsRegs s t) : KeepsRegs s (cancelPend t g id) := by
  refine (h.modGroup fun _ => ?_).finishPend
  exact ⟨rfl, rfl, rfl, rfl, rfl, rfl⟩

theorem KeepsRegs.endGroup {g : Nat} (h : KeepsRegs s t) : KeepsRegs s (endGroup t g) := by
  unfold Machine.endGroup
  extract_lets gr futures faults unparked left ended wired unbound dev unsaved unqueued pushes unpushed dropped pc passed done
  split
  · exact h
  · have hfutures : KeepsRegs s futures := h.foldl (fun u e => (KeepsRegs.refl u).releaseFut) _
    have hfaults : KeepsRegs s faults := hfutures.of_groups (groups_foldl (fun u e => by simp) _ _)
    have hunparked : KeepsRegs s unparked := hfaults.of_groups (groups_foldl (fun u p => unpark_groups u p true) _ _)
    have hended : KeepsRegs s ended := hunparked.modGroup fun _ => ⟨rfl, rfl, rfl, rfl, rfl, rfl⟩
    have hwired : KeepsRegs s wired := hended.of_groups (groups_foldl (fun u p => by split <;> rfl) _ _)
    have hunpushed : KeepsRegs s unpushed := hwired.of_groups rfl
    have hdropped : KeepsRegs s dropped := hunpushed.foldl (fun u id => (KeepsRegs.refl u).cancelPend) _
    have hpassed : KeepsRegs s passed := hdropped.of_groups (groups_foldl (fun u b => advanceBar_groups u b g pc gr.last 4) _ _)
    have hdone : KeepsRegs s done := by
      unfold done
      split
      · exact hpassed
      · refine hpassed.of_groups ((wire_groups _ _).trans (groups_foldl (fun u b => ?_) _ _))
        split
        · exact wireOnce_groups u _
        · rfl
    exact hdone.of_groups ((childKick_groups _).trans (replace_groups _))

theorem KeepsRegs.endGroupCause {g cause sub pc : Nat} (h : KeepsRegs s t) : KeepsRegs s (endGroupCause t g cause sub pc) :=
  (h.of_groups (by simp)).endGroup

/-! ### The return from a trap, as far as the end of a run brings it about -/

theorem KeepsRegs.frameWatch {g asid a : Nat} {pc : DWord} {wr : Bool} (h : KeepsRegs s t) : KeepsRegs s (frameWatch t g asid a pc wr) := by
  refine h.foldl (fun u k => ?_) _
  dsimp only
  split
  · refine ((KeepsRegs.refl u).of_groups (watchRecord_groups ..)).modGroup fun _ => ?_
    exact ⟨rfl, rfl, rfl, rfl, rfl, rfl⟩
  · exact (KeepsRegs.refl u).of_groups (watchRecord_groups ..)

theorem KeepsRegs.addPend {g : Nat} {p : Pend} (h : KeepsRegs s t) : KeepsRegs s (addPend t g p) :=
  h.modGroup fun _ => ⟨rfl, rfl, rfl, rfl, rfl, rfl⟩

theorem KeepsRegs.fresh (h : KeepsRegs s t) : KeepsRegs s t.fresh.2 := h.of_groups rfl

theorem KeepsRegs.eretTry {g : Nat} (h : KeepsRegs s t) : KeepsRegs s (eretTry t g) := by
  unfold Machine.eretTry
  dsimp only
  split
  · exact h
  · split
    · exact h
    · split
      · exact h.of_groups rfl
      · split
        · exact h.endGroupCause
        · exact h.frameWatch.fresh.addPend.of_groups rfl

/-! ### The end of a run -/

theorem KeepsRegs.endRun {g : Nat} (h : KeepsRegs s t) : KeepsRegs s (endRun t g) := by
  unfold Machine.endRun
  extract_lets gr
  split
  · exact h
  · extract_lets fall gone stay yl gr1 gr2 gr3 settled passed stopped faulted
    have hgr3 : SameRegs gr gr3 := (SameRegs.joinAll (a := gr) (b := gr1) ⟨rfl, rfl, rfl, rfl, rfl, rfl⟩).joinRelease
    have hsettled : KeepsRegs s settled := (h.setGroup hgr3).settle.rotateHeld
    have hpassed : KeepsRegs s passed := hsettled.of_groups (passWires_groups _ _)
    have hstopped : KeepsRegs s stopped := by
      unfold stopped
      split
      · exact hpassed.of_groups (dbgEvt_groups _ _)
      · exact hpassed
    have hfaulted : KeepsRegs s faulted := by
      unfold faulted
      split
      · exact hstopped.of_groups (wire_groups _ _)
      · exact hstopped
    split
    · exact hsettled.endGroup
    · split
      · exact hfaulted.endGroup
      · exact hfaulted.eretTry

end

/-- Settles O17. -/
theorem endOfRunKeepsRegisters : Obligations.EndOfRunKeepsRegisters := by
  unfold Obligations.EndOfRunKeepsRegisters
  intro s g h
  obtain ⟨hv, hs, hp, hvPois, hsPois, hpPois⟩ := (KeepsRegs.refl s).endRun (g := g) |>.group h
  exact ⟨hv, hs, hp, hvPois, hsPois, hpPois⟩

/-! ### The start of a group (06 R115) -/

/-- Lanes that take a place in the frontier change the frontier alone. -/
theorem join_rest (gr : Group) (pc hdr : DWord) (mask : Lanes) (prio : Nat) (ws : List Wait) :
    ∃ es hs, gr.join pc hdr mask prio ws = { gr with entries := es, held := hs } := by
  unfold Group.join
  split
  · exact ⟨gr.entries, gr.held, rfl⟩
  · split
    · exact ⟨_, gr.held, rfl⟩
    · split
      · exact ⟨_, gr.held, rfl⟩
      · exact ⟨gr.entries, _, rfl⟩

/-- The group that a placement makes, before its lanes take their place in the frontier. -/
def newGroup (s : State) (x : Start) : Group :=
  { Group.reset with
    launch := x.launch, block := x.block, num := x.num, index := x.index, core := x.core, w := x.w, phys := x.w
    subtree := x.subtree, base := x.base, dasid := recCtx (s.launch x.launch).record
    s := if x.arg == 0 then [] else [(0, x.arg)]
    exited := lanesBelow x.w &&& ~~~ lanesBelow x.lanes
    region := (List.range x.lanes).map fun l => (l, x.pc)
    regionHdr := (List.range x.lanes).map fun l => (l, x.pc)
    rgncnt := 1, residentAt := s.now, lastIssue := s.now, idleSince := s.now }

/-- The group that stands after a placement is the new one with its place in the frontier. -/
theorem group_startGroup (s : State) (x : Start) :
    ∃ es hs, (startGroup s x).1.group (startGroup s x).2 = { newGroup s x with entries := es, held := hs } := by
  obtain ⟨es, hs, hjoin⟩ := join_rest (newGroup s x) x.pc x.pc (lanesBelow x.lanes) (peekPrio s.fresh.2 (newGroup s x) x.pc) []
  refine ⟨es, hs, ?_⟩
  rw [← hjoin]
  refine Eq.trans ?_ (group_setGroup_same s.fresh.2 s.nextId _)
  simp only [State.group]
  exact congrArg (fun t => tget Group.reset t s.nextId) (leuth_groups ..)

/-- s0 of a new group is its argument, and every other s register is zero. -/
theorem getS_newGroup (s : State) (x : Start) (n : Nat) : (newGroup s x).getS n = if n = 0 then x.arg else 0 := by
  have htable : tget 0 (newGroup s x).s n = if n = 0 then x.arg else 0 := by
    show tget 0 (if x.arg == 0 then [] else [(0, x.arg)]) n = _
    split
    · next harg => rw [eq_of_beq harg, tget_nil, ite_self]
    · by_cases hn : n = 0
      · subst hn
        rfl
      · simp only [tget, tfind, hn, Ne.symm hn, if_false, Option.getD_none]
  unfold Group.getS
  by_cases h63 : n = 63
  · subst h63
    rfl
  · rw [if_neg (by simpa using h63), htable]

/-- Settles O57: the registers and the tables of a new group are those of reset but for s0. -/
theorem groupStartsClear : Obligations.GroupStartsClear := by
  unfold Obligations.GroupStartsClear
  intro s x r gr
  obtain ⟨es, hs, hgr⟩ := group_startGroup s x
  have hlane (l : Nat) : hasLane 0 l = false := Nat.zero_testBit l
  rw [show gr = _ from hgr]
  refine ⟨fun n l _ => ⟨rfl, hlane l⟩, fun n l hn _ => ⟨?p, ?pPois⟩, fun n => ⟨getS_newGroup s x n, ?sPois⟩, rfl, fun k l _ _ => rfl, rfl, rfl,
    rfl, rfl, rfl⟩
  case p =>
    show hasLane (if n == 15 then BitVec.allOnes 64 else 0) l = false
    rw [if_neg (by simpa using hn), hlane]
  case pPois =>
    show (decide (n ≠ 15) && hasLane 0 l) = false
    rw [hlane, Bool.and_false]
  case sPois =>
    show (decide (n ≠ 63) && hasLane 0 n) = false
    rw [hlane, Bool.and_false]

end Sys2Proof.Machine
end


section
/-!
PROOF. What CSRR reads and CSRW writes, and what each leaves alone (06 R119; 17 R416, R417): the next state of each instruction for the
numbers it treats in one way, the value of each number; then O39.
-/

namespace Sys2Proof.Machine

open Sys2Proof

variable {i : Instr} {s : State} {c : Ctx} {m : Meaning}

/-! ### What an instruction of control registers is -/

theorem csrr_of_parts {op : Nat} {f : EForm} (hp : i.parts = some (op, f)) (hm : meaningOf i = some m)
    (hi : (∃ f, i = .csrrB f) ∨ ∃ f, i = .csrrE f) : op = 0x310 ∧ m = csrrSem := by
  obtain ⟨_, rfl⟩ | ⟨_, rfl⟩ := hi <;> cases hp <;> cases hm <;> exact ⟨rfl, rfl⟩

theorem csrw_of_parts {op : Nat} {f : EForm} (hp : i.parts = some (op, f)) (hm : meaningOf i = some m)
    (hi : (∃ f, i = .csrwB f) ∨ ∃ f, i = .csrwE f) : op = 0x311 ∧ m = csrwSem := by
  obtain ⟨_, rfl⟩ | ⟨_, rfl⟩ := hi <;> cases hp <;> cases hm <;> exact ⟨rfl, rfl⟩

/-- The group of an issue is the group at its number. -/
theorem Issues.group_eq (h : Issues i s c m) : s.group c.g = c.gr := by
  obtain ⟨hg, hgr, -⟩ := issueCtx_eq h.ctx
  rw [hg, hgr]

/-- The next state of an access to a control register. -/
theorem exec_csr {t : State} (h : Issues i s c m) (hop : c.op = 0x310 ∨ c.op = 0x311) (ha : m.always = false)
    (hF : m.act c s = (t, false)) : exec i s = .next (advance c (t.setGroup c.g (t.group c.g))) := by
  obtain ⟨-, -, -, -, -, -, hsp, -⟩ := issueCtx_eq h.ctx
  obtain hop | hop := hop <;> rw [hop] at hsp <;>
    exact exec_modGroup h ha (by rw [hsp]; decide) (by rw [hop]; decide) (by rw [hop]; decide) hF

/-! ### CSRR -/

@[simp] theorem launch_setGroup (s : State) (g l : Nat) (v : Group) : (s.setGroup g v).launch l = s.launch l := rfl

/-- The read of a number that no counter of energy stands behind, by CSRR or by CSRR.V. -/
theorem csrrSem_act (hn : csrNum c ≠ 0x20) (hn' : csrNum c ≠ 0x21) (hb : csrNum c ≠ 0x12) :
    csrrSem.act c s = (s.modGroup c.g fun gr =>
      if c.f.modBit 0 then
        (lanesOf c.lanes).foldl (fun gr l => wrVec gr c.regs c.f.d.toNat false l (csrVal s c.g (csrNum c) l % 2 ^ 32) false) gr
      else gr.wrS c.f.d.toNat (BitVec.ofNat 64 (csrVal s c.g (csrNum c) ((lanesOf c.lanes).headD 0))) false, false) := by
  simp only [csrrSem, beq_eq_false_iff_ne.2 hn, beq_eq_false_iff_ne.2 hn', beq_eq_false_iff_ne.2 hb, Bool.or_self, Bool.false_eq_true,
    if_false]

/-- CSRR writes the number's value to s[D] and nothing else. -/
theorem exec_csrr_scalar (h : Issues i s c csrrSem) (hop : c.op = 0x310) (hmod : c.f.modBit 0 = false) (hn : csrNum c ≠ 0x20)
    (hn' : csrNum c ≠ 0x21) (hb : csrNum c ≠ 0x12) {v : DWord} (hv : ∀ l, BitVec.ofNat 64 (csrVal s c.g (csrNum c) l) = v) :
    exec i s = .next (advance c (s.setGroup c.g (c.gr.wrS c.f.d.toNat v false))) := by
  rw [exec_csr h (.inl hop) rfl (csrrSem_act hn hn' hb)]
  simp only [hmod, modGroup_eq, group_setGroup_same, setGroup_setGroup, h.group_eq, hv, Bool.false_eq_true, if_false]

/-- A read of BEST takes the note of the launch's best data, which a later read of BESTDATA gives. -/
theorem exec_csrr_best (h : Issues i s c csrrSem) (hop : c.op = 0x310) (hmod : c.f.modBit 0 = false) (hn : csrNum c = 0x12) :
    exec i s = .next (advance c (s.setGroup c.g
      (({ c.gr with best := some (s.launch c.gr.launch).bestData }).wrS c.f.d.toNat
        (BitVec.ofNat 64 (s.launch c.gr.launch).bestScore.toNat) false))) := by
  have hact : csrrSem.act c s = (s.setGroup c.g
      (({ c.gr with best := some (s.launch c.gr.launch).bestData }).wrS c.f.d.toNat
        (BitVec.ofNat 64 (s.launch c.gr.launch).bestScore.toNat) false), false) := by
    have henergy : (csrNum c == 0x20 || csrNum c == 0x21) = false := by rw [hn]; decide
    simp only [csrrSem, henergy, Bool.false_eq_true, if_false]
    simp only [hn, hmod, modGroup_eq, h.group_eq, csrVal, group_setGroup_same, setGroup_setGroup, launch_setGroup, beq_self_eq_true,
      if_true, Bool.false_eq_true, if_false]
  rw [exec_csr h (.inl hop) rfl hact, group_setGroup_same, setGroup_setGroup]

/-- CSRR.V of LANEID gives each active lane its number, and changes nothing but v registers. -/
theorem exec_csrr_laneid (h : Issues i s c csrrSem) (hop : c.op = 0x310) (hmod : c.f.modBit 0 = true) (hn : csrNum c = 0) :
    ∃ gr, exec i s = .next (advance c (s.setGroup c.g gr)) ∧
      gr = { c.gr with v := gr.v, vPois := gr.vPois, vUe := gr.vUe } ∧
      ∀ r l, l < 64 → (gr.getV r l).toNat =
        if r = vNum c.regs c.f.d.toNat ∧ hasLane c.lanes l = true then l else (c.gr.getV r l).toNat := by
  obtain ⟨hval, -, hrest⟩ := fold_wrVec c.gr c.regs c.f.d.toNat false (fun l => csrVal s c.g 0 l % 2 ^ 32) (fun _ => false)
    (lanesOf c.lanes) (fun _ hl => hasLane_lt (mem_lanesOf.1 hl)) (nodup_lanesOf _)
  refine ⟨_, ?next, hrest, fun r l hl => ?read⟩
  case next =>
    rw [exec_csr h (.inl hop) rfl (csrrSem_act (by omega) (by omega) (by omega))]
    simp only [hmod, hn, modGroup_eq, group_setGroup_same, setGroup_setGroup, h.group_eq, if_true]
  case read =>
    rw [hval r l hl]
    by_cases hw : r = vNum c.regs c.f.d.toNat ∧ hasLane c.lanes l = true
    · have hword : l % 2 ^ 32 % 2 ^ 32 = l := by omega
      simp only [hw, mem_lanesOf, csrVal, Bool.false_eq_true, false_and, and_false, and_self, if_false, if_true, BitVec.toNat_ofNat, hword]
    · simp only [hw, mem_lanesOf, And.comm (a := hasLane c.lanes l = true), Bool.false_eq_true, false_and, if_false]

/-! ### CSRW -/

/-- The least of a deadline and a number is one of the two. -/
theorem ofNat_min_toNat (a b : DWord) : BitVec.ofNat 64 (min a.toNat b.toNat) = if b.toNat < a.toNat then b else a := by
  split
  · rw [Nat.min_eq_right (by omega), BitVec.ofNat_toNat, BitVec.setWidth_eq]
  · rw [Nat.min_eq_left (by omega), BitVec.ofNat_toNat, BitVec.setWidth_eq]

/-- A message sent at most once is under way afterwards. -/
theorem mem_wireOnce (s : State) (w : Msg) : w ∈ (s.wireOnce w).wires := by
  unfold State.wireOnce
  split
  · exact List.contains_iff_mem.1 ‹_›
  · exact List.mem_append_right _ List.mem_cons_self

/-- The state in which CSRW has brought the deadline of a launch forward, its expiry under way when it is due. -/
def deadlineWrite (c : Ctx) (s : State) : State :=
  let s := s.modLaunch c.gr.launch fun l => { l with deadline := BitVec.ofNat 64 (min l.deadline.toNat (sOp c c.f.a)) }
  if (s.launch c.gr.launch).deadline.toNat ≤ s.now then s.wireOnce (.deadlineExpiry c.gr.launch) else s

theorem csrwSem_act_deadline (hn : csrNum c = 0x011) : csrwSem.act c s = (deadlineWrite c s, false) := by
  simp only [csrwSem, hn, deadlineWrite]

theorem csrwSem_act_capsel (hn : csrNum c = 0x031) :
    csrwSem.act c s = (s.modGroup c.g fun gr => { gr with capsel := BitVec.ofNat 13 (sOp c c.f.a) }, false) := by
  simp only [csrwSem, hn]

/-- But for the launches and the messages under way, sending one at most once changes nothing. -/
theorem wireOnce_rest (s : State) (w : Msg) : s.wireOnce w = { s with wires := (s.wireOnce w).wires } := by
  unfold State.wireOnce
  split <;> rfl

theorem deadlineWrite_rest (c : Ctx) (s : State) :
    deadlineWrite c s = { s with launches := (deadlineWrite c s).launches, wires := (deadlineWrite c s).wires } := by
  unfold deadlineWrite
  extract_lets t
  split
  · rw [wireOnce_rest]; rfl
  · rfl

/-- CSRW of the deadline leaves the lesser of the two, sends its expiry when it is due, and changes no group. -/
theorem exec_csrw_deadline (h : Issues i s c csrwSem) (hop : c.op = 0x311) (hn : csrNum c = 0x011) :
    exec i s = .next (advance c ((deadlineWrite c s).setGroup c.g c.gr)) := by
  have hgr : (deadlineWrite c s).group c.g = c.gr := by rw [deadlineWrite_rest]; exact h.group_eq
  rw [exec_csr h (.inr hop) rfl (csrwSem_act_deadline hn), hgr]

theorem launch_wireOnce (s : State) (w : Msg) (l : Nat) : (s.wireOnce w).launch l = s.launch l := by rw [wireOnce_rest]; rfl

theorem launch_deadlineWrite (c : Ctx) (s : State) :
    (deadlineWrite c s).launch c.gr.launch = { s.launch c.gr.launch with
      deadline := if (c.gr.getS c.f.a.toNat).toNat < (s.launch c.gr.launch).deadline.toNat then c.gr.getS c.f.a.toNat
        else (s.launch c.gr.launch).deadline } := by
  unfold deadlineWrite
  extract_lets t
  have ht : t.launch c.gr.launch = { s.launch c.gr.launch with
      deadline := BitVec.ofNat 64 (min (s.launch c.gr.launch).deadline.toNat (c.gr.getS c.f.a.toNat).toNat) } :=
    launch_setLaunch_same _ _ _
  rw [ofNat_min_toNat] at ht
  split
  · rw [launch_wireOnce, ht]
  · exact ht

theorem deadlineExpiry_sent (h : ((deadlineWrite c s).launch c.gr.launch).deadline.toNat ≤ s.time.toNat) :
    .deadlineExpiry c.gr.launch ∈ (deadlineWrite c s).wires := by
  revert h
  unfold deadlineWrite
  extract_lets t
  intro h
  split
  case isTrue => exact mem_wireOnce _ _
  case isFalse hlate =>
    rw [if_neg hlate] at h
    exact absurd h hlate

/-- CSRW of the index of the capability list sets it and nothing else. -/
theorem exec_csrw_capsel (h : Issues i s c csrwSem) (hop : c.op = 0x311) (hn : csrNum c = 0x031) :
    exec i s = .next (advance c (s.setGroup c.g { c.gr with capsel := (c.gr.getS c.f.a.toNat).setWidth 13 })) := by
  rw [exec_csr h (.inr hop) rfl (csrwSem_act_capsel hn)]
  simp only [modGroup_eq, group_setGroup_same, setGroup_setGroup, h.group_eq, sOp, BitVec.ofNat_toNat]

/-! ### The obligation -/

/-- Settles O39: number by number, the value of its read, and the next state of its write. -/
theorem controlRegisterResults : Obligations.ControlRegisterResults := by
  unfold Obligations.ControlRegisterResults
  intro i s c m h n x la val
  refine ⟨fun hi => ?_, fun hi => ?_⟩
  · obtain ⟨hop, rfl⟩ := csrr_of_parts h.parts h.meaning hi
    refine ⟨fun v hv hmod => ?scalar, fun hn hmod => exec_csrr_best h hop hmod hn, fun hn hmod => exec_csrr_laneid h hop hmod hn⟩
    case scalar =>
      suffices hread : (csrNum c ≠ 0x20 ∧ csrNum c ≠ 0x21 ∧ csrNum c ≠ 0x12) ∧ ∀ l, BitVec.ofNat 64 (csrVal s c.g (csrNum c) l) = v by
        obtain ⟨⟨h20, h21, h12⟩, hread⟩ := hread
        exact exec_csrr_scalar h hop hmod h20 h21 h12 hread
      have hnum : csrNum c = n := rfl
      rw [hnum]
      clear_value n
      unfold val at hv
      split at hv <;> cases hv <;> refine ⟨by decide, fun l => ?_⟩ <;>
        simp only [csrVal, h.group_eq, State.now, BitVec.ofNat_toNat, BitVec.setWidth_eq, la]
  · obtain ⟨hop, rfl⟩ := csrw_of_parts h.parts h.meaning hi
    refine ⟨fun hn => ?deadline, fun hn => exec_csrw_capsel h hop hn⟩
    case deadline =>
      refine ⟨_, exec_csrw_deadline h hop hn, ?_, ?_, group_setGroup_same _ _ _, launch_deadlineWrite c s, deadlineExpiry_sent⟩
      · rw [deadlineWrite_rest]; rfl
      · rw [deadlineWrite_rest]; rfl

end Sys2Proof.Machine
end


section
/-!
PROOF. A privileged action without its privilege traps at its issue (06 R150; 17 R415): the causes common to every instruction and those of
an instruction's own check are among the causes of its issue, and with one of them it takes its precise trap; then O40.
-/

namespace Sys2Proof.Machine

open Sys2Proof

variable {i : Instr} {op : Nat} {f : EForm} {s : State} {c : Ctx} {m : Meaning} {l : Nat}

/-! ### Causes of an issue -/

/-- A cause on every lane of a set is on each of them. -/
theorem mem_onLanes {ls : Lanes} (cause sub : Nat) (hl : hasLane ls l = true) :
    ({ lane := l, cause := cause, sub := sub, addr := 0 } : LaneCause) ∈ onLanes ls cause sub :=
  List.mem_map.2 ⟨l, mem_lanesOf.2 hl, rfl⟩

/-- The cause of a group-level instruction is on the lowest active lane. -/
theorem mem_groupCause (cause sub addr : Nat) (hl : (lanesOf c.lanes).head? = some l) :
    ({ lane := l, cause := cause, sub := sub, addr := addr } : LaneCause) ∈ groupCause c cause sub addr := by
  obtain ⟨ls, hls⟩ := List.head?_eq_some_iff.1 hl
  have hlt : l < 64 := hasLane_lt (mem_lanesOf.1 (hls ▸ List.mem_cons_self))
  have hlow : lowest c.lanes = oneLane l := by simp only [lowest, hls]
  refine List.mem_map.2 ⟨l, mem_lanesOf.2 ?_, rfl⟩
  rw [hlow, hasLane_oneLane hlt, decide_eq_true rfl]

/-- What every instruction is checked for is among the causes of its issue. -/
theorem commonCauses_subset_issueCauses (hleg : illegalSub c.op c.f c.regs c.flag.isSome = none) :
    commonCauses c m s ⊆ issueCauses c m s := by
  intro k hk
  have hstage : k ∈ stageCauses c m s := List.mem_append_left _ hk
  have hne : (stageCauses c m s).isEmpty = false := List.isEmpty_eq_false_iff_exists_mem.2 ⟨k, hstage⟩
  simp only [issueCauses, hleg, hne, Bool.false_eq_true, if_false]
  exact List.mem_append_left _ hstage

/-- A privileged opcode without system privilege, outside handler mode, is PRIVILEGE on every lane of its entry, whatever the guard. -/
theorem privilege_mem_commonCauses (hleg : illegalSub c.op c.f c.regs c.flag.isSome = none) (hop : needsPriv c.op = true)
    (hpriv : ctxPriv s (s.ctxOf c.gr) = false) (hhm : c.gr.hm = false) (hl : hasLane c.entry l = true) :
    ({ lane := l, cause := 2, sub := 0, addr := 0 } : LaneCause) ∈ commonCauses c m s := by
  simp only [commonCauses, hleg, hop, hpriv, hhm, Bool.not_false, Bool.and_self, Bool.and_false, Bool.false_and, if_true]
  exact List.mem_append_left _ (List.mem_append_left _ (List.mem_append_left _ (mem_onLanes 2 0 hl)))

/-- An instruction that leaves no records and raises no engine fault takes its precise trap when it has a cause. -/
theorem exec_traps {k : LaneCause} (hp : i.parts = some (c.op, c.f)) (hm : meaningOf i = some m) (hc : issueCtx s c.op c.f = some c)
    (hrb : rollsBack c.gr c.entry = false) (hrp : c.gr.regPending c.entry = false) (heng : ∀ c s, m.engine c s = none)
    (hnotes : ∀ c s, m.notes c s = s) (hk : k ∈ issueCauses c m s) :
    ∃ cs, exec i s = .next (trapPrecise c cs (atileOf cs) s) ∧ ∃ j ∈ cs, j.lane = k.lane ∧ j.cause = k.cause ∧ j.sub = k.sub := by
  obtain ⟨m', hm', hexec⟩ := exec_of_parts i s hp
  cases hm.symm.trans hm'
  refine ⟨issueCauses c m s, ?trap, k, hk, rfl, rfl, rfl⟩
  case trap => rw [hexec, issue_traps hc (List.ne_nil_of_mem hk) hrb hrp (heng c s), hnotes, ite_self]

/-! ### The privileged instructions -/

/-- TLBI, ASIDSW, CARVE, HALT and POOLCFG need privilege, and have neither records nor an engine fault. -/
theorem meaning_of_privileged (hp : i.parts = some (op, f)) (hm : meaningOf i = some m)
    (hi : (∃ f, i = .tlbi f) ∨ (∃ f, i = .asidsw f) ∨ (∃ f, i = .carve f) ∨ (∃ f, i = .halt f) ∨ ∃ f, i = .poolcfg f) :
    needsPriv op = true ∧ (∀ c s, m.engine c s = none) ∧ ∀ c s, m.notes c s = s := by
  obtain ⟨_, rfl⟩ | ⟨_, rfl⟩ | ⟨_, rfl⟩ | ⟨_, rfl⟩ | ⟨_, rfl⟩ := hi <;> cases hp <;> cases hm <;>
    exact ⟨by decide, fun _ _ => rfl, fun _ _ => rfl⟩

/-- A CSRR of a system register without privilege is PRIVILEGE on the lowest active lane. -/
theorem privilege_mem_csrrCheck (hlo : 0x100 ≤ csrNum c) (hhi : csrNum c ≤ 0x1FF) (hpriv : ctxPriv s (s.ctxOf c.gr) = false)
    (hhm : c.gr.hm = false) (hl : (lanesOf c.lanes).head? = some l) :
    ({ lane := l, cause := 2, sub := 0, addr := 0 } : LaneCause) ∈ csrrSem.check c s := by
  have hnum : (decide (0x100 ≤ csrNum c) && decide (csrNum c ≤ 0x1FF) && !anyPriv s c.gr) = true := by
    simp only [anyPriv, hhm, hpriv, hlo, hhi, decide_true, Bool.or_self, Bool.not_false, Bool.and_self]
  simp only [csrrSem, csrCheck, hnum, if_true]
  exact List.mem_append_right _ (mem_groupCause 2 0 0 hl)

/-- ERET outside handler mode is ILLEGAL, NOT_HANDLER, on every active lane. -/
theorem notHandler_mem_eretCheck (hhm : c.gr.hm = false) (hl : hasLane c.lanes l = true) :
    ({ lane := l, cause := 1, sub := 0x1C, addr := 0 } : LaneCause) ∈ eretSem.check c s := by
  simp only [eretSem, hhm, Bool.false_eq_true, if_false]
  exact mem_onLanes 1 0x1C hl

/-- Settles O40: the cause is among those every instruction is checked for, or those of CSRR's or ERET's own check. -/
theorem privilegeIsChecked : Obligations.PrivilegeIsChecked := by
  unfold Obligations.PrivilegeIsChecked
  intro i s c m hp hm hc hleg hrb hrp hhm taken
  obtain ⟨-, -, -, -, -, -, hsp, -⟩ := issueCtx_eq hc
  have lanesOnly (h : ((opSpec c.op).getD {}).group = false) : c.sp.group = false := by rw [hsp, h]
  refine ⟨fun hpriv => ⟨fun hi l hl => ?privileged, fun hi hlo hhi l hl => ?csrr⟩, fun hi l hl => ?eret⟩
  case privileged =>
    obtain ⟨hop, heng, hnotes⟩ := meaning_of_privileged hp hm hi
    exact exec_traps hp hm hc hrb hrp heng hnotes
      (commonCauses_subset_issueCauses hleg (privilege_mem_commonCauses hleg hop hpriv hhm hl))
  case csrr =>
    obtain ⟨hop, rfl⟩ := csrr_of_parts hp hm hi
    have hactive : hasLane c.lanes l = true := mem_lanesOf.1 (List.mem_of_head? hl)
    exact exec_traps hp hm hc hrb hrp (fun _ _ => rfl) (fun _ _ => rfl)
      (check_subset_issueCauses hleg hactive (lanesOnly (by rw [hop]; decide)) (privilege_mem_csrrCheck hlo hhi hpriv hhm hl))
  case eret =>
    obtain ⟨f, rfl⟩ := hi
    have hop : c.op = 0x371 := (congrArg Prod.fst (Option.some.inj hp)).symm
    cases hm
    exact exec_traps hp rfl hc hrb hrp (fun _ _ => rfl) (fun _ _ => rfl)
      (check_subset_issueCauses hleg hl (lanesOnly (by rw [hop]; decide)) (notHandler_mem_eretCheck hhm hl))

end Sys2Proof.Machine
end


section
/-!
PROOF. An access to an explicit space only becomes pending at its issue (06 R136; 07 R160, R166): what an instruction that completes later
leaves of its group at its issue; then O53.
-/

namespace Sys2Proof.Machine

open Sys2Proof

variable {i : Instr} {op : Nat} {f : EForm} {s : State} {c : Ctx} {m : Meaning}

/-- The loads, stores and atomics of the explicit spaces have one meaning, commit at their completion and take no tag. -/
theorem meaning_of_explicitAccess (hp : i.parts = some (op, f)) (hm : meaningOf i = some m)
    (hi : (∃ f, i = .ldsB f) ∨ (∃ f, i = .ldsE f) ∨ (∃ f, i = .stsB f) ∨ (∃ f, i = .stsE f) ∨ (∃ f, i = .ldkB f) ∨ (∃ f, i = .ldkE f) ∨
      (∃ f, i = .stkB f) ∨ (∃ f, i = .stkE f) ∨ (∃ f, i = .ldxB f) ∨ (∃ f, i = .ldxE f) ∨ (∃ f, i = .stxB f) ∨ (∃ f, i = .stxE f) ∨
      (∃ f, i = .ldlB f) ∨ (∃ f, i = .ldlE f) ∨ (∃ f, i = .stlB f) ∨ (∃ f, i = .stlE f) ∨ (∃ f, i = .atomS f) ∨ (∃ f, i = .atomK f) ∨
      (∃ f, i = .atomX f) ∨ (∃ f, i = .casS f) ∨ (∃ f, i = .casK f) ∨ ∃ f, i = .casX f) :
    m = spaceSem ∧ commitsAtIssue op = false ∧ takesTag op = false := by
  obtain ⟨_, rfl⟩ | ⟨_, rfl⟩ | ⟨_, rfl⟩ | ⟨_, rfl⟩ | ⟨_, rfl⟩ | ⟨_, rfl⟩ | ⟨_, rfl⟩ | ⟨_, rfl⟩ | ⟨_, rfl⟩ | ⟨_, rfl⟩ | ⟨_, rfl⟩ | ⟨_, rfl⟩ |
    ⟨_, rfl⟩ | ⟨_, rfl⟩ | ⟨_, rfl⟩ | ⟨_, rfl⟩ | ⟨_, rfl⟩ | ⟨_, rfl⟩ | ⟨_, rfl⟩ | ⟨_, rfl⟩ | ⟨_, rfl⟩ | ⟨_, rfl⟩ := hi <;>
    cases hp <;> cases hm <;> exact ⟨rfl, by decide, by decide⟩

/-- The access that the issue of an explicit-space instruction makes pending. -/
def spacePend (c : Ctx) (s : State) : Pend :=
  let s1 := s.fresh.2
  { memPend c s.nextId s1 with
    ready := true
    pieces := (lanesOf c.lanes).filterMap fun l =>
      match locate s1 c.gr ((spaceOf c.op).getD 0) (memAddr c l) (accessSize c.op c.f) l with
      | .ok k => some (k.piece l (accessSize c.op c.f))
      | .error _ => none
    holds := isAtomic c.op }

theorem spaceSem_act (c : Ctx) (s : State) :
    spaceSem.act c s = ((addPend s.fresh.2 c.g (spacePend c s)).wire (.instrComplete c.g s.nextId), true) := rfl

/-- A store's access holds its lanes' data. -/
theorem vals_spacePend (h : isStore c.op = true) : (spacePend c s).vals = (lanesOf c.lanes).map fun l => (l, storeData c l) := by
  have hvals : (spacePend c s).vals = if isStore c.op then (lanesOf c.lanes).map fun l => (l, storeData c l) else [] := rfl
  rw [hvals, if_pos h]

/-- What the issue of an instruction that completes later leaves beside its effect: the hazards of its destinations. -/
theorem afterAct_pending {t : State} (hc : commitsAtIssue c.op = false) (ht : takesTag c.op = false) (he : (t.group c.g).ended = false) :
    afterAct c m s (t, true) = t.setGroup c.g
      { t.group c.g with haz := (t.group c.g).haz ++ hazOf c (regUses c.op c.f ++ m.uses c s) } := by
  simp only [afterAct, modGroup_eq, he, hc, ht, Bool.false_eq_true, if_false, if_true]

/-- The state after the issue of an explicit-space instruction: its access pending, its destinations hazarded, its completion under way. -/
theorem afterAct_space (hgr : s.group c.g = c.gr) (hend : c.gr.ended = false) (hc : commitsAtIssue c.op = false) (ht : takesTag c.op = false) :
    afterAct c spaceSem s (spaceSem.act c s) = { s with
      nextId := s.nextId + 1, wires := s.wires ++ [.instrComplete c.g (spacePend c s).id]
      groups := tput s.groups c.g
        { c.gr with pend := c.gr.pend ++ [spacePend c s], haz := c.gr.haz ++ hazOf c (regUses c.op c.f) } } := by
  have hgroups : ((addPend s.fresh.2 c.g (spacePend c s)).wire (.instrComplete c.g s.nextId)).groups =
      tput s.groups c.g { c.gr with pend := c.gr.pend ++ [spacePend c s] } := by
    rw [← hgr]
    rfl
  have hgroup : ((addPend s.fresh.2 c.g (spacePend c s)).wire (.instrComplete c.g s.nextId)).group c.g =
      { c.gr with pend := c.gr.pend ++ [spacePend c s] } := by
    rw [State.group, hgroups, tget_tput_same]
  have huses : regUses c.op c.f ++ spaceSem.uses c s = regUses c.op c.f := List.append_nil _
  rw [spaceSem_act, afterAct_pending hc ht (by rw [hgroup]; exact hend), hgroup, huses, State.setGroup, hgroups, tput_tput]
  rfl

/-- Settles O53: the access is `spacePend`, and the state after its issue is that of `afterAct_space`. -/
theorem explicitAccessIsPendingAtIssue : Obligations.ExplicitAccessIsPendingAtIssue := by
  unfold Obligations.ExplicitAccessIsPendingAtIssue
  intro i s c m h hend hi
  obtain ⟨rfl, hc, ht⟩ := meaning_of_explicitAccess h.parts h.meaning hi
  refine ⟨spacePend c s, rfl, rfl, rfl, rfl, rfl, rfl, vals_spacePend, ?next⟩
  case next => rw [exec_issues h, afterAct_space h.group_eq hend hc ht]

end Sys2Proof.Machine
end

section
/-!
PROOF. A queued store that is performed writes its own bytes (07 R166; 14 R327): what follows the writes in `performStore`, in caches,
directory and pending instructions, leaves memory alone; then O49.
-/

namespace Sys2Proof.Machine

open Sys2Proof

/-! ### What leaves memory alone -/

/-- Steps that each leave memory alone leave it alone together. -/
theorem mem_foldl {α : Type} {f : State → α → State} (hf : ∀ s x, (f s x).mem = s.mem) (xs : List α) (s : State) :
    (xs.foldl f s).mem = s.mem := by
  induction xs generalizing s with
  | nil => rfl
  | cons x r ih => exact (ih _).trans (hf s x)

/-- Either way of a choice leaves memory alone. -/
theorem mem_ite {c : Prop} [Decidable c] {a b s : State} (ha : a.mem = s.mem) (hb : b.mem = s.mem) : (if c then a else b).mem = s.mem := by
  split
  · exact ha
  · exact hb

@[simp] theorem wireOnce_mem (s : State) (m : Msg) : (s.wireOnce m).mem = s.mem := mem_ite rfl rfl

@[simp] theorem touchSlot_mem (s : State) (c key : Nat) (m : BitVec 32) : (touchSlot s c key m).mem = s.mem := rfl

@[simp] theorem dropCode_mem (s : State) (c frame : Nat) (m : BitVec 32) : (dropCode s c frame m).mem = s.mem := by
  refine mem_foldl (fun t j => ?_) _ s
  exact mem_ite rfl rfl

@[simp] theorem wbUe_mem (s : State) (frame : Nat) (m : BitVec 32) : (wbUe s frame m).mem = s.mem := by
  refine mem_foldl (fun t j => ?_) _ s
  exact mem_ite rfl rfl

@[simp] theorem cleanPhys_mem (s : State) (c frame : Nat) (m : BitVec 32) : (cleanPhys s c frame m).mem = s.mem := by
  refine mem_foldl (fun t k => ?_) _ s
  exact mem_ite rfl (wbUe_mem t _ _)

@[simp] theorem evWb_mem (c frame : Nat) (mask : BitVec 32) (keep : Bool) (s : State) : (evWb c frame mask keep s).mem = s.mem :=
  mem_ite rfl rfl

@[simp] theorem cleanUnit_mem (s : State) (c : Nat) (e : StoreEnt) : (cleanUnit s c e).mem = s.mem := by
  refine mem_ite rfl (mem_foldl (fun t k => ?_) _ (setUe s e.pa false))
  rfl

@[simp] theorem lsuWake_mem (s : State) (c : Nat) : (lsuWake s c).mem = s.mem := mem_foldl (fun s _ => wireOnce_mem s _) _ s

@[simp] theorem storeDone_mem (s : State) (g op : Nat) : (storeDone s g op).mem = s.mem := by
  unfold storeDone
  dsimp only
  split
  · exact mem_ite ((wireOnce_mem _ _).trans (lsuWake_mem _ _)) (lsuWake_mem _ _)
  · exact lsuWake_mem _ _

/-! ### The bytes of a queued store -/

/-- Memory after a queued store is performed is memory after its bytes are written. -/
theorem performStore_mem (s : State) (c : Nat) (e : StoreEnt) :
    (performStore s c e).mem = (e.bytes.foldl (fun s b => physWrite s b.1 [b.2]) s).mem := by
  unfold performStore
  dsimp only
  rw [storeDone_mem]
  split <;> split <;> simp only [evWb_mem, cleanPhys_mem, cleanUnit_mem, dropCode_mem, touchSlot_mem]

/-- A table whose keys are all above k lists nothing at k. -/
theorem tfind_eq_none_of_tabove {α : Type} {k : Nat} {t : Sp α} (h : tabove k t) : tfind t k = none := by
  induction t with
  | nil => rfl
  | cons e r ih =>
    have hk : ¬ e.1 = k := Nat.ne_of_gt (h e List.mem_cons_self)
    simp only [tfind, hk, if_false]
    exact ih fun x hx => h x (List.mem_cons_of_mem _ hx)

/-- One byte written to physical memory. -/
theorem peek_physWrite_one (s : State) (k a : Nat) (b : Byte) :
    peek (physWrite s k [b]).mem a = if a = k then b else peek s.mem a := peek_poke s.mem k a b

/-- The bytes of a table written one after the other: a byte that it lists reads as listed, every other byte as before. -/
theorem peek_foldl_physWrite (s : State) {t : Sp Byte} (h : trising t = true) (a : Nat) :
    peek (t.foldl (fun s b => physWrite s b.1 [b.2]) s).mem a = (tfind t a).getD (peek s.mem a) := by
  induction t generalizing s with
  | nil => rfl
  | cons e r ih =>
    obtain ⟨k, b⟩ := e
    obtain ⟨habove, hr⟩ := trising_cons.1 h
    rw [List.foldl_cons, ih _ hr, peek_physWrite_one]
    by_cases ha : a = k
    · subst ha
      simp only [tfind, if_true, tfind_eq_none_of_tabove habove, Option.getD_none, Option.getD_some]
    · simp only [tfind, ha, Ne.symm ha, if_false]

/-- Settles O49: memory changes only by the bytes that the store writes. -/
theorem performedStoreWritesItsBytes : Obligations.PerformedStoreWritesItsBytes := by
  unfold Obligations.PerformedStoreWritesItsBytes
  intro s c e h a
  rw [performStore_mem, peek_foldl_physWrite s h]

end Sys2Proof.Machine
end

section
/-!
PROOF. The operations of atomics (07 R180): `atomOp` operation by operation, what a CAS writes, then O54.
-/

namespace Sys2Proof.Machine

open Sys2Proof

/-! ### The operations of ATOM and CAS -/

section
variable (n o x lane pc : Nat)

theorem atomOp_add : atomOp 0 n o x lane pc = (o + x) % 2 ^ (8 * n) := rfl

/-- SMIN gives the operand that is less as a signed number (07 R180). -/
theorem signed_atomOp_smin : signed (8 * n) (atomOp 1 n o x lane pc) = min (signed (8 * n) o) (signed (8 * n) x) := by
  simp only [atomOp, apply_ite (signed (8 * n)), min_def]

/-- SMAX gives the operand that is greater as a signed number (07 R180). -/
theorem signed_atomOp_smax : signed (8 * n) (atomOp 2 n o x lane pc) = max (signed (8 * n) o) (signed (8 * n) x) := by
  rw [max_comm]
  simp only [atomOp, apply_ite (signed (8 * n)), max_def]

theorem atomOp_umin : atomOp 3 n o x lane pc = min o x := rfl

theorem atomOp_umax : atomOp 4 n o x lane pc = max o x := rfl

theorem testBit_atomOp_and (j : Nat) : (atomOp 5 n o x lane pc).testBit j = (o.testBit j && x.testBit j) := Nat.testBit_and o x j

theorem testBit_atomOp_or (j : Nat) : (atomOp 6 n o x lane pc).testBit j = (o.testBit j || x.testBit j) := Nat.testBit_or o x j

theorem testBit_atomOp_xor (j : Nat) : (atomOp 7 n o x lane pc).testBit j = (o.testBit j != x.testBit j) := Nat.testBit_xor o x j

theorem atomOp_xchg : atomOp 8 n o x lane pc = x := rfl

theorem atomOp_inc : atomOp 9 n o x lane pc = if x ≤ o then 0 else o + 1 := rfl

/-- A CAS writes its new value where the old one is the compare value, and nothing elsewhere. -/
theorem atomicNew_cas {op : Nat} (f : EForm) (new : Nat) (h : 0x254 ≤ op) :
    atomicNew op f n o x new lane pc = if o = x then some new else none := by
  simp only [atomicNew, Nat.not_lt.2 h, if_false, beq_iff_eq]

end

/-- Settles O54, from the value of each operation. -/
theorem atomicOperations : Obligations.AtomicOperations := by
  unfold Obligations.AtomicOperations
  intro n o x lane pc _ _ _
  exact ⟨atomOp_add .., signed_atomOp_smin .., signed_atomOp_smax .., atomOp_umin .., atomOp_umax ..,
    fun j => ⟨testBit_atomOp_and .., testBit_atomOp_or .., testBit_atomOp_xor ..⟩, atomOp_xchg .., atomOp_inc ..,
    fun _ f new h => atomicNew_cas n o x lane pc f new h⟩

end Sys2Proof.Machine
end

section
/-!
PROOF. What a two's-complement or unsigned format holds, and shifts by whole amounts (08 R189, R201): `signed` and `wrap` as the library's
bit vectors, then O19 and O20.
-/

namespace Sys2Proof.Machine

open Sys2Proof

/-! ### Two's-complement values (08 R189) -/

theorem signed_eq_toInt (w x : Nat) : signed w x = (BitVec.ofNat w x).toInt := by
  cases w with
  | zero => simp [signed, Nat.mod_one, BitVec.toInt_zero_length]
  | succ w =>
    simp only [signed, BitVec.toInt_eq_toNat_cond, BitVec.toNat_ofNat, Nat.add_sub_cancel, Nat.pow_succ',
      Nat.mul_lt_mul_left (a := 2) (by decide)]

theorem wrap_eq_toNat (w : Nat) (v : Int) : wrap w v = (BitVec.ofInt w v).toNat := rfl

theorem neg_two_pow_le_signed (w x : Nat) : -2 ^ (w - 1) ≤ signed w x := by
  rw [signed_eq_toInt]
  exact BitVec.le_toInt _

theorem signed_lt_two_pow (w x : Nat) : signed w x < 2 ^ (w - 1) := by
  rw [signed_eq_toInt]
  exact BitVec.toInt_lt

/-- The sign of a value is its top bit. -/
theorem signed_neg_iff_testBit {w : Nat} (hw : 0 < w) (x : Nat) : signed w x < 0 ↔ x.testBit (w - 1) = true := by
  have hmsb := BitVec.msb_eq_toInt (x := BitVec.ofNat w x)
  rw [BitVec.msb_eq_getLsbD_last, BitVec.getLsbD_ofNat, ← signed_eq_toInt] at hmsb
  simpa [Nat.sub_lt hw Nat.one_pos] using (decide_eq_true_iff.symm.trans (Bool.eq_iff_iff.1 hmsb.symm))

/-- A value within the range of w bits is read back from its bits. -/
theorem signed_wrap {w : Nat} (hw : 0 < w) {v : Int} (hlo : -2 ^ (w - 1) ≤ v) (hhi : v < 2 ^ (w - 1)) : signed w (wrap w v) = v := by
  rw [signed_eq_toInt, wrap_eq_toNat, BitVec.ofNat_toNat, BitVec.setWidth_eq, BitVec.toInt_ofInt_eq_self hw hlo hhi]

theorem valOf_unsigned (w x : Nat) : valOf false w x = ((x % 2 ^ w : Nat) : Int) := rfl

/-- Settles O19: a value within the range is that of its own bits. -/
theorem formatsHoldTheirRange : Obligations.FormatsHoldTheirRange := by
  unfold Obligations.FormatsHoldTheirRange
  intro w hw
  refine ⟨fun v => ⟨?_, fun hv => ⟨wrap w v, ?_⟩⟩, fun v => ⟨?_, fun hv => ⟨v.toNat, ?_⟩⟩,
    ⟨8, by decide⟩, ⟨7, by decide⟩, ⟨15, by decide⟩⟩
  · rintro ⟨x, rfl⟩
    exact ⟨neg_two_pow_le_signed w x, Int.le_sub_one_of_lt (signed_lt_two_pow w x)⟩
  · exact signed_wrap hw hv.1 (Int.lt_of_le_sub_one hv.2)
  · rintro ⟨x, rfl⟩
    have hx : ((x % 2 ^ w : Nat) : Int) < 2 ^ w := by exact_mod_cast Nat.mod_lt x (Nat.two_pow_pos w)
    exact ⟨Int.natCast_nonneg _, Int.le_sub_one_of_lt hx⟩
  · have hv' : v.toNat < 2 ^ w := (Int.toNat_lt hv.1).2 (by exact_mod_cast Int.lt_of_le_sub_one hv.2)
    rw [valOf_unsigned, Nat.mod_eq_of_lt hv', Int.toNat_of_nonneg hv.1]

/-! ### Shifts by whole amounts (08 R201) -/

section
variable (w a n : Nat)

theorem wrap_neg_one : wrap w (-1) = 2 ^ w - 1 := by
  rw [wrap_eq_toNat, BitVec.ofInt_neg, BitVec.ofInt_ofNat, BitVec.neg_one_eq_allOnes, BitVec.toNat_allOnes]

theorem shl_eq : shl w a n = if n < w then a * 2 ^ n % 2 ^ w else 0 := by
  simp only [shl, ← Nat.not_lt, ite_not]

theorem shr_eq : shr w a n = if n < w then a / 2 ^ n else 0 := by
  simp only [shr, ← Nat.not_lt, ite_not]

/-- An arithmetic shift by the width or more leaves the sign alone. -/
theorem sar_eq : sar w a n = if n < w then wrap w (signed w a / (2 ^ n : Nat)) else if signed w a < 0 then 2 ^ w - 1 else 0 := by
  by_cases hn : n < w
  · rw [if_pos hn, sar, Nat.min_eq_left (Nat.le_of_lt hn)]
  · rw [if_neg hn, sar, Nat.min_eq_right (Nat.le_of_not_lt hn)]
    have hpow : (2 ^ (w - 1) : Int) ≤ (2 ^ w : Nat) := by exact_mod_cast Nat.pow_le_pow_right (by decide) (Nat.sub_le w 1)
    have hlo := neg_two_pow_le_signed w a
    have hhi := signed_lt_two_pow w a
    by_cases hneg : signed w a < 0
    · rw [if_pos hneg, Int.ediv_eq_neg_one_of_neg_of_le hneg (by omega), wrap_neg_one]
    · rw [if_neg hneg, Int.ediv_eq_zero_of_lt (by omega) (by omega)]
      rfl

/-- A rotation takes its amount modulo the width. -/
theorem rotl_mod : rotl w a (n % w) = rotl w a n := by
  simp only [rotl, Nat.mod_mod]

end

/-- Settles O20, shift by shift. -/
theorem shiftsByWholeAmounts : Obligations.ShiftsByWholeAmounts := by
  unfold Obligations.ShiftsByWholeAmounts
  refine ⟨fun c w n => ?_, fun w a n hw ha => ⟨shl_eq w a n, shr_eq w a n, fun hn => ?_, fun hn => ?_, (rotl_mod w a n).symm⟩, rfl, rfl⟩
  · simp only [shiftAmount, Bool.and_eq_true, Bool.not_eq_true', decide_eq_true_eq]
  · rw [sar_eq, if_pos hn]
    exact Int.toNat_of_nonneg (Int.emod_nonneg _ (by exact_mod_cast (Nat.two_pow_pos w).ne'))
  · simp only [sar_eq, Nat.not_lt.2 hn, if_false, signed_neg_iff_testBit hw]

end Sys2Proof.Machine
end

section
/-!
PROOF. Results computed element by element (08 R185; 09 R207 to R210): packed elements read back, the destination of an instruction of
classes 00 and 01 after it has issued, then the logic and shift family and O22.
-/

namespace Sys2Proof.Machine

open Sys2Proof

/-! ### Packed elements (08 R185) -/

theorem packElems_lt (w : Nat) (es : List Nat) : packElems w es < 2 ^ (w * es.length) := by
  induction es with
  | nil => exact Nat.one_pos
  | cons e es ih =>
    have he : e % 2 ^ w < 2 ^ w := Nat.mod_lt e (Nat.two_pow_pos w)
    calc e % 2 ^ w + 2 ^ w * packElems w es
      _ < 2 ^ w * 1 + 2 ^ w * packElems w es := by rw [Nat.mul_one]; exact Nat.add_lt_add_right he _
      _ = 2 ^ w * (packElems w es + 1) := by rw [← Nat.mul_add, Nat.add_comm]
      _ ≤ 2 ^ w * 2 ^ (w * es.length) := Nat.mul_le_mul_left _ ih
      _ = 2 ^ (w * (e :: es).length) := by rw [List.length_cons, Nat.mul_succ, Nat.pow_add, Nat.mul_comm]

/-- An element of a packed list is the list's. -/
theorem elemAt_packElems (w : Nat) (es : List Nat) {k : Nat} (hk : k < es.length) : elemAt w (packElems w es) k = es[k] % 2 ^ w := by
  induction es generalizing k with
  | nil => exact absurd hk (Nat.not_lt_zero k)
  | cons e es ih =>
    have he : e % 2 ^ w < 2 ^ w := Nat.mod_lt e (Nat.two_pow_pos w)
    cases k with
    | zero => simp [elemAt, packElems]
    | succ k =>
      have hpop : (e % 2 ^ w + 2 ^ w * packElems w es) / 2 ^ w = packElems w es := by
        rw [Nat.add_mul_div_left _ _ (Nat.two_pow_pos w), Nat.div_eq_of_lt he, Nat.zero_add]
      simpa only [elemAt, packElems, List.getElem_cons_succ, Nat.mul_succ, Nat.add_comm (w * k), Nat.pow_add, ← Nat.div_div_eq_div_mul,
        hpop] using ih (Nat.lt_of_succ_lt_succ hk)

theorem elemAt_lt (w x k : Nat) : elemAt w x k < 2 ^ w := Nat.mod_lt _ (Nat.two_pow_pos w)

/-- The widths of the elements of classes 00 and 01 (08 R184). -/
def IsElemWidth (w : Nat) : Prop := w ∈ [4, 8, 16, 32, 64]

theorem isElemWidth_intWidth (ty : Nat) : IsElemWidth (intWidth ty) := by
  unfold intWidth IsElemWidth
  split <;> decide

theorem isElemWidth_fmtWidth (ty : Nat) : IsElemWidth (fmtOf ty).width := by
  unfold fmtOf IsElemWidth
  split <;> decide

theorem fmtWidth_ne_64 (ty : Nat) : (fmtOf ty).width ≠ 64 := by
  unfold fmtOf
  split <;> decide

/-- Only the 64-bit types have elements of 64 bits. -/
theorem is64_of_intWidth {ty : Nat} (h : intWidth ty = 64) : is64 ty = true := by
  unfold intWidth at h
  split at h <;> cases h <;> rfl

/-- The elements of a register or a pair fill it. -/
theorem IsElemWidth.fills {w : Nat} (hw : IsElemWidth w) : w * elemCount false w = if w == 64 then 64 else 32 := by
  have hall : ∀ w ∈ [4, 8, 16, 32, 64], w * elemCount false w = if w == 64 then 64 else 32 := by decide
  exact hall w hw

/-! ### The registers of a destination (06 R113, R116; 09 R209) -/

/-- The two registers of an aligned pair are not the same. -/
theorem vNum_pair_ne (regs : Nat) {n : Nat} (hn : n < 256) (heven : n % 2 = 0) : vNum regs n ≠ vNum regs (n + 1) := by
  have hpair : 240 ≤ n + 1 ↔ 240 ≤ n := by omega
  have hsucc : n + 1 < 256 := by omega
  unfold vNum vReg
  simp only [hpair, hsucc, hn, and_true, Bool.and_eq_true, decide_eq_true_eq]
  split
  · split <;> simp only [Option.getD_some] <;> omega
  · have hval (k : Nat) : (if k < regs then some k else none).getD k = k := by split <;> rfl
    rw [hval, hval]
    exact Nat.ne_of_lt n.lt_succ_self

section
variable (c : Ctx) (wide : Bool) (val : Nat → Nat) (pois : Nat → Bool) (gr : Group)

/-- What an active lane reads back from the v register or the pair that it wrote. -/
theorem regBits_wrDest_vector (hpair : wide = true → vNum c.regs c.f.d.toNat ≠ vNum c.regs (c.f.d.toNat + 1)) {l : Nat}
    (hl : hasLane c.lanes l = true) :
    regBits (wrDest c false wide val pois gr) c.regs false c.f.d.toNat wide l = val l % 2 ^ (if wide then 64 else 32) := by
  obtain ⟨hget, -, -⟩ := fold_wrVec gr c.regs c.f.d.toNat wide val pois (lanesOf c.lanes) (fun _ h => hasLane_lt (mem_lanesOf.1 h))
    (nodup_lanesOf _)
  cases wide with
  | false => simp [regBits, wrDest, hget _ l (hasLane_lt hl), mem_lanesOf, hl]
  | true =>
    simp only [regBits, wrDest, hget _ l (hasLane_lt hl), mem_lanesOf, hl, hpair rfl, true_and, and_true, Bool.false_eq_true, if_false,
      if_true, BitVec.toNat_ofNat]
    rw [← Nat.mod_mul, ← Nat.pow_add]

/-- What the scalar half writes: the value of the lowest active lane. -/
theorem getS_wrDest_scalar (hd : c.f.d.toNat ≠ 63) {l : Nat} (hl : (lanesOf c.lanes).head? = some l) :
    (wrDest c true wide val pois gr).getS c.f.d.toNat = BitVec.ofNat 64 (val l) := by
  simp [wrDest, getS_wrS, hd, List.headD_eq_head?_getD, hl]

/-- The elements of a destination are those computed. -/
theorem elementsOfD_wrDest (sg : Bool) {w : Nat} (hw : IsElemWidth w) (r : Nat → Nat → Nat)
    (hpair : c.f.modBit 5 = false → w = 64 → vNum c.regs c.f.d.toNat ≠ vNum c.regs (c.f.d.toNat + 1)) :
    ElementsOfD c sg w (wrDest c (c.f.modBit 5) (w == 64) (fun l => elemResult (c.f.modBit 5) sg w (r l)) pois gr) r where
  vector hv l k hl hk := by
    have hlt : packElems w ((List.range (elemCount false w)).map (r l)) < 2 ^ (if w == 64 then 64 else 32) := by
      simpa only [List.length_map, List.length_range, hw.fills] using packElems_lt w ((List.range (elemCount false w)).map (r l))
    rw [hv, regBits_wrDest_vector c _ _ pois gr (fun h64 => hpair hv (beq_iff_eq.1 h64)) hl]
    simp only [elemResult, Bool.false_eq_true, if_false, Nat.mod_eq_of_lt hlt]
    rw [elemAt_packElems w _ (by simpa using hk), List.getElem_map, List.getElem_range]
  scalar hs hd l hl := by
    rw [hs, getS_wrDest_scalar c _ _ pois gr hd hl]
    rfl
  hardwired := rfl

end

/-! ### Instructions that write D alone (09 R209) -/

/-- The opcodes of classes 00 and 01 whose operands and destination are the generic ones, as wide as their TYPE (06 R145, R146). -/
def genericOps : List Nat :=
  [0x000, 0x001, 0x002, 0x003, 0x004, 0x005, 0x006, 0x007, 0x008, 0x009, 0x00A, 0x00B, 0x00C, 0x00D, 0x00E, 0x00F, 0x010, 0x011,
    0x013, 0x014, 0x015, 0x016, 0x017, 0x020, 0x021, 0x022, 0x023, 0x024, 0x025, 0x029, 0x100, 0x101, 0x102, 0x103, 0x104, 0x105,
    0x106, 0x107, 0x108, 0x109, 0x10A, 0x10B, 0x10C, 0x10D, 0x10E, 0x121, 0x122, 0x125, 0x127, 0x128, 0x129, 0x12A, 0x12B, 0x12C]

/-- They complete at their issue and leave nothing behind. -/
theorem generic_completes {op : Nat} (h : op ∈ genericOps) :
    ((opSpec op).getD {}).flag = .short ∧ commitsAtIssue op = false ∧ takesTag op = false := by
  have hall : ∀ op ∈ genericOps, ((opSpec op).getD {}).flag = .short ∧ commitsAtIssue op = false ∧ takesTag op = false := by decide
  exact hall op h

/-- The registers they use are the generic ones. -/
theorem regUses_generic {op : Nat} (h : op ∈ genericOps) (f : EForm) :
    ∃ sp, sp.d = .d ∧ regUses op f = usesGen sp f (if is64 f.type.toNat then 2 else 1) := by
  have hall : ∀ op ∈ genericOps, (opSpec op).any (·.d == .d) = true := by decide
  obtain ⟨sp, hsp, hd⟩ := (Option.any_eq_true _ _).1 (hall op h)
  refine ⟨sp, beq_iff_eq.1 hd, ?_⟩
  unfold regUses
  rw [hsp]
  dsimp only
  split
  -- the last case is every opcode without registers of its own; the others are no generic opcodes
  pick_goal -1
  · rfl
  all_goals exact absurd h (by decide)

/-- They use D, a pair where the TYPE has 64 bits. -/
theorem generic_uses_dest {op : Nat} (h : op ∈ genericOps) (f : EForm) :
    ∀ u ∈ useOf .d f.d (f.modBit 5) (if is64 f.type.toNat then 2 else 1) true, u ∈ regUses op f := by
  obtain ⟨sp, hd, huses⟩ := regUses_generic h f
  intro u hu
  simp only [huses, usesGen, hd, List.append_assoc]
  exact List.mem_append_left _ hu

section
variable {i : Instr} {s : State} {c : Ctx} {m : Meaning}

/-- The opcode and the meaning of an instruction that issues are its own. -/
theorem Issues.op_meaning {op : Nat} {e : EForm} {m' : Meaning} (h : Issues i s c m) (hp : i.parts = some (op, e))
    (hm : meaningOf i = some m') : c.op = op ∧ m = m' :=
  ⟨congrArg Prod.fst (Option.some.inj (h.parts.symm.trans hp)), Option.some.inj (h.meaning.symm.trans hm)⟩

/-- A pair that a generic opcode writes is aligned. -/
theorem Issues.pair_ne (h : Issues i s c m) (hop : c.op ∈ genericOps) (ha : m.always = false) (hv : c.f.modBit 5 = false)
    (h64 : is64 c.f.type.toNat = true) : vNum c.regs c.f.d.toNat ≠ vNum c.regs (c.f.d.toNat + 1) := by
  obtain ⟨-, -, -, -, halign, -⟩ := fields_of_legal (h.legal ha)
  have hu : useV c.f.d 2 2 true ∈ regUses c.op c.f := generic_uses_dest hop c.f _ (by simp [useOf, hv, h64])
  exact vNum_pair_ne c.regs c.f.d.isLt (beq_iff_eq.1 (List.all_eq_true.1 halign _ hu))

/-- The next state of a generic opcode that computes D element by element, and the elements of D in it. -/
theorem exec_elements {F : Ctx → Group → Group} {sg : Bool} {w : Nat} {r : Nat → Nat → Nat} {pois : Nat → Bool}
    (h : Issues i s c (regAct F)) (hop : c.op ∈ genericOps) (hw : IsElemWidth w) (h64 : w = 64 → is64 c.f.type.toNat = true)
    (hF : ∀ gr, F c gr = wrDest c (c.f.modBit 5) (w == 64) (fun l => elemResult (c.f.modBit 5) sg w (r l)) pois gr) :
    ∃ gr, exec i s = .next (advance c (s.setGroup c.g gr)) ∧ ElementsOfD c sg w gr r := by
  obtain ⟨-, -, -, -, -, -, hsp, -⟩ := issueCtx_eq h.ctx
  obtain ⟨hflag, hcommit, htag⟩ := generic_completes hop
  refine ⟨_, exec_onGroup h rfl (hsp ▸ hflag) hcommit htag rfl, ?_⟩
  rw [hF]
  exact elementsOfD_wrDest c pois _ sg hw r fun hv hw64 => h.pair_ne hop rfl hv (h64 hw64)

/-- The second operand of an integer instruction: an element of B, or its immediate, sign-extended or not (09 R208). -/
def secondElem (bImm : Option Bool) (c : Ctx) (l k : Nat) : Nat :=
  match bImm with
  | none => elemOfB c l k
  | some true => immS c.f.b % 2 ^ intWidth c.f.type.toNat
  | some false => c.f.b.toNat % 2 ^ intWidth c.f.type.toNat

/-- An integer instruction gives each element its own result. -/
theorem exec_elemSem {op : Nat} {e : EForm} {bImm : Option Bool} {f : Ctx → Bool → Nat → Nat → Nat → Nat → Nat} (h : Issues i s c m)
    (hp : i.parts = some (op, e)) (hop : op ∈ genericOps) (hm : meaningOf i = some (elemSem bImm f)) :
    ∃ gr, exec i s = .next (advance c (s.setGroup c.g gr)) ∧
      ElementsOfD c (intSigned c.f.type.toNat) (intWidth c.f.type.toNat) gr fun l k =>
        f c (intSigned c.f.type.toNat) (intWidth c.f.type.toNat) (elemOfA c l k) (secondElem bImm c l k) (elemOfC c l k) := by
  obtain ⟨rfl, rfl⟩ := h.op_meaning hp hm
  exact exec_elements h hop (isElemWidth_intWidth _) is64_of_intWidth fun _ => rfl

end

/-! ### The logic and shift family (09 R215) -/

/-- An instruction of the logic and shift family: its opcode, its meaning, its second operand and its result. -/
theorem logic_meaning {i : Instr} {c : Ctx} (h : (logicOf i c 0 0 0 0).isSome = true) :
    ∃ op e bImm f, i.parts = some (op, e) ∧ op ∈ genericOps ∧ meaningOf i = some (elemSem bImm f) ∧
      (∀ l k, secondOf i c l k = secondElem bImm c l k) ∧
      ∀ sg w a b x, (logicOf i c w a b (shiftAmount c w b)).getD 0 = f c sg w a b x := by
  cases i with
  | andB f | andE f | andImmB f | andImmE f | orB f | orE f | xorB f | xorE f | andnB f | andnE f | notB f | notE f =>
    exact ⟨_, _, _, _, rfl, by decide, rfl, fun _ _ => rfl, fun _ _ _ _ _ => rfl⟩
  | shlB f | shlE f | shlImmB f | shlImmE f =>
    exact ⟨_, _, _, _, rfl, by decide, rfl, fun _ _ => rfl, fun _ w a b _ => (shl_eq w a (shiftAmount c w b)).symm⟩
  | shrB f | shrE f | shrImmB f | shrImmE f =>
    exact ⟨_, _, _, _, rfl, by decide, rfl, fun _ _ => rfl, fun _ w a b _ => (shr_eq w a (shiftAmount c w b)).symm⟩
  | sarB f | sarE f | sarImmB f | sarImmE f =>
    exact ⟨_, _, _, _, rfl, by decide, rfl, fun _ _ => rfl, fun _ w a b _ => (sar_eq w a (shiftAmount c w b)).symm⟩
  | rot f =>
    refine ⟨_, _, _, _, rfl, by decide, rfl, fun _ _ => rfl, fun _ w a b _ => ?_⟩
    cases hm : c.f.modBit 0 <;> simp [logicOf, rotl, hm]
  | _ => cases h

/-- Settles O22. -/
theorem logicAndShiftResults : Obligations.LogicAndShiftResults := by
  unfold Obligations.LogicAndShiftResults
  intro i s c m h hlogic
  obtain ⟨op, e, bImm, f, hparts, hop, hmeaning, hsecond, hresult⟩ := logic_meaning hlogic
  simpa only [hsecond, ← hresult] using exec_elemSem h hparts hop hmeaning

end Sys2Proof.Machine
end

section
/-!
PROOF. Float results (08 R186, R198, R199; 10 R231): the sign of an element, the choice of FMIN and FMAX, NaNs and the one rounding of
`sumResult`, then O29 and O30.
-/

namespace Sys2Proof.Machine

open Sys2Proof

/-! ### Float instructions, element by element -/

/-- A float instruction gives each element its own result. -/
theorem exec_floatSem {i : Instr} {s : State} {c : Ctx} {m : Meaning} {op : Nat} {e : EForm}
    {f : Ctx → Fmt → Nat → Nat → Nat → Nat → Nat} (h : Issues i s c m) (hp : i.parts = some (op, e)) (hop : op ∈ genericOps)
    (hm : meaningOf i = some (floatSem f)) :
    ∃ gr, exec i s = .next (advance c (s.setGroup c.g gr)) ∧
      ElementsOfD c false (fmtOf c.f.type.toNat).width gr fun l k =>
        f c (fmtOf c.f.type.toNat) l (elemAt (fmtOf c.f.type.toNat).width (opA c false l) k)
          (elemAt (fmtOf c.f.type.toNat).width (opB c false l) k) (elemAt (fmtOf c.f.type.toNat).width (opC c false l) k) := by
  obtain ⟨rfl, rfl⟩ := h.op_meaning hp hm
  have hnarrow : ((fmtOf c.f.type.toNat).width == 64) = false := beq_eq_false_iff_ne.2 (fmtWidth_ne_64 _)
  exact exec_elements h hop (isElemWidth_fmtWidth _) (fun h64 => absurd h64 (fmtWidth_ne_64 _)) fun gr =>
    congrArg (fun wide => wrDest c (c.f.modBit 5) wide _ (resPois c) gr) hnarrow.symm

/-! ### Signs and the order of magnitudes (10 R231) -/

section
variable (F : Fmt) {a b : Nat}

/-- An element with its sign inverted. -/
theorem pack_not_sign {x : Nat} (hx : x < 2 ^ F.width) :
    F.pack (!F.sign x) (F.mag x) = if x.testBit (F.width - 1) then x - 2 ^ (F.width - 1) else x + 2 ^ (F.width - 1) := by
  have hwidth : F.width = F.width - 1 + 1 := by unfold Fmt.width; omega
  have hdouble : x < 2 ^ (F.width - 1 + 1) := hwidth ▸ hx
  by_cases hge : 2 ^ (F.width - 1) ≤ x
  · have hsign : x.testBit (F.width - 1) = true := Nat.testBit_of_two_pow_le_and_two_pow_add_one_gt hge hdouble
    have hlow : x - 2 ^ (F.width - 1) < 2 ^ (F.width - 1) := by rw [Nat.pow_succ] at hdouble; omega
    simp [Fmt.pack, Fmt.sign, Fmt.mag, bitOf, hsign, Nat.mod_eq_sub_mod hge, Nat.mod_eq_of_lt hlow]
  · have hlt : x < 2 ^ (F.width - 1) := Nat.lt_of_not_le hge
    simp [Fmt.pack, Fmt.sign, Fmt.mag, bitOf, Nat.testBit_lt_two_pow hlt, Nat.mod_eq_of_lt hlt]

theorem firstNan_cons_nan (xs : List Nat) (h : F.isNan a = true) : firstNan F (a :: xs) = some a := List.find?_cons_of_pos h

theorem firstNan_cons_number (xs : List Nat) (h : F.isNan a = false) : firstNan F (a :: xs) = firstNan F xs :=
  List.find?_cons_of_neg (by simp [h])

theorem firstNan_nil : firstNan F [] = none := rfl

theorem firstNan_pair_numbers (ha : F.isNan a = false) (hb : F.isNan b = false) : firstNan F [a, b] = none := by
  rw [firstNan_cons_number F _ ha, firstNan_cons_number F _ hb, firstNan_nil]

theorem fpick_nan_left (max : Bool) (h : F.isNan a = true) : fpick max F a b = quiet F a := by
  simp only [fpick, firstNan_cons_nan F _ h]

theorem fpick_nan_right (max : Bool) (ha : F.isNan a = false) (hb : F.isNan b = true) : fpick max F a b = quiet F b := by
  simp only [fpick, firstNan_cons_number F _ ha, firstNan_cons_nan F _ hb]

theorem fpick_numbers (max : Bool) (ha : F.isNan a = false) (hb : F.isNan b = false) :
    fpick max F a b = if decide (magKey F b < magKey F a) = max then a else b := by
  simp only [fpick, firstNan_pair_numbers F ha hb, beq_iff_eq]

/-- FMIN gives the smaller of two numbers. -/
theorem fpick_min (ha : F.isNan a = false) (hb : F.isNan b = false) :
    (fpick false F a b = a ∨ fpick false F a b = b) ∧ magKey F (fpick false F a b) ≤ magKey F a ∧
      magKey F (fpick false F a b) ≤ magKey F b := by
  rw [fpick_numbers F false ha hb]
  by_cases hlt : magKey F b < magKey F a
  · simp [hlt, hlt.le]
  · simp [hlt, not_lt.1 hlt]

/-- FMAX gives the larger of two numbers. -/
theorem fpick_max (ha : F.isNan a = false) (hb : F.isNan b = false) :
    (fpick true F a b = a ∨ fpick true F a b = b) ∧ magKey F a ≤ magKey F (fpick true F a b) ∧
      magKey F b ≤ magKey F (fpick true F a b) := by
  rw [fpick_numbers F true ha hb]
  by_cases hlt : magKey F b < magKey F a
  · simp [hlt, hlt.le]
  · simp [hlt, not_lt.1 hlt]

end

/-- Settles O29. -/
theorem floatSignAndOrderResults : Obligations.FloatSignAndOrderResults := by
  unfold Obligations.FloatSignAndOrderResults
  intro i s c m h F w a b
  refine ⟨?fabs, ?fneg, ?fmin, ?fmax⟩
  case fabs => rintro (⟨f, rfl⟩ | ⟨f, rfl⟩) <;> exact exec_floatSem h rfl (by decide) rfl
  case fneg =>
    have hneg : (fun l k => F.pack (!F.sign (a l k)) (F.mag (a l k))) =
        fun l k => if (a l k).testBit (w - 1) then a l k - 2 ^ (w - 1) else a l k + 2 ^ (w - 1) :=
      funext₂ fun l k => pack_not_sign F (elemAt_lt _ _ _)
    rw [← hneg]
    rintro (⟨f, rfl⟩ | ⟨f, rfl⟩) <;> exact exec_floatSem h rfl (by decide) rfl
  case fmin =>
    rintro (⟨f, rfl⟩ | ⟨f, rfl⟩) <;>
    · obtain ⟨gr, hnext, hel⟩ := exec_floatSem h rfl (by decide) rfl
      exact ⟨gr, _, hnext, hel, fun l k => ⟨fpick_nan_left F false, fpick_nan_right F false, fpick_min F⟩⟩
  case fmax =>
    rintro (⟨f, rfl⟩ | ⟨f, rfl⟩) <;>
    · obtain ⟨gr, hnext, hel⟩ := exec_floatSem h rfl (by decide) rfl
      exact ⟨gr, _, hnext, hel, fun l k => ⟨fpick_nan_left F true, fpick_nan_right F true, fpick_max F⟩⟩

/-! ### The one rounding of a sum of products (08 R198, R199) -/

section
variable (F : Fmt) (md : Rnd) (sat : Bool) (lane pc : Nat) {a b x : Nat}

/-- An exact sum rounded once, or a created NaN where there is none. -/
def roundSum (sum : Option FV) : Nat :=
  match sum with
  | some v => v.encode F md sat
  | none => createdNan F lane pc

/-- A NaN among the factors is the result, made quiet. -/
theorem sumResult_nan_factor {nans adds : List Nat} {prods : List (Nat × Nat)} {neg : Bool} (h : firstNan F nans = some x) :
    sumResult F F md sat lane pc nans prods adds neg = quiet F x := by
  simp only [sumResult, h, beq_self_eq_true, if_true]

/-- Else a NaN among the addends is. -/
theorem sumResult_nan_addend {nans adds : List Nat} {prods : List (Nat × Nat)} {neg : Bool} (hn : firstNan F nans = none)
    (h : firstNan F adds = some x) : sumResult F F md sat lane pc nans prods adds neg = quiet F x := by
  simp only [sumResult, hn, h]

/-- The sum or the difference of two numbers. -/
theorem sumResult_add (neg : Bool) (ha : F.isNan a = false) (hb : F.isNan b = false) :
    sumResult F F md sat lane pc [] [] [a, b] neg =
      roundSum F md sat lane pc (sumTerms md [F.val a, if neg then (F.val b).neg else F.val b]) := by
  have hvals : (if neg then [F.val a, (F.val b).neg] else [F.val a, F.val b]) = [F.val a, if neg then (F.val b).neg else F.val b] := by
    cases neg <;> rfl
  simp only [sumResult, roundSum, firstNan_nil, firstNan_pair_numbers F ha hb, List.map_cons, List.map_nil, products, List.nil_append, hvals]
  cases sumTerms md [F.val a, if neg then (F.val b).neg else F.val b] <;> rfl

/-- The product of two numbers, with numbers added. -/
theorem sumResult_mul {adds : List Nat} (ha : F.isNan a = false) (hb : F.isNan b = false) (hadds : firstNan F adds = none) :
    sumResult F F md sat lane pc [a, b] [(a, b)] adds false =
      match (F.val a).mul (F.val b) with
      | none => createdNan F lane pc
      | some p => roundSum F md sat lane pc (sumTerms md (p :: adds.map F.val)) := by
  simp only [sumResult, roundSum, firstNan_pair_numbers F ha hb, hadds, Bool.false_eq_true, if_false, List.map_cons, List.map_nil, products]
  cases (F.val a).mul (F.val b) with
  | none => rfl
  | some p =>
    simp only [List.singleton_append]
    cases sumTerms md (p :: adds.map F.val) <;> rfl

end

/-- Settles O30: NaN operands in their order, then the sum or the product of numbers. -/
theorem floatArithmeticResults : Obligations.FloatArithmeticResults := by
  unfold Obligations.FloatArithmeticResults
  intro i s c m h F w a b x hi
  have hno {P : Prop} (hf : false = true) : P := absurd hf Bool.false_ne_true
  cases i with
  | faddB f | faddE f | fsubB f | fsubE f =>
    obtain ⟨gr, hnext, hel⟩ := exec_floatSem h rfl (by decide) rfl
    refine ⟨gr, _, hnext, hel, fun l k => ⟨fun ha => ?nanA, fun ha hb => ?nanB, hno, fun ha hb _ => ⟨fun _ => ?numbers, hno⟩⟩⟩
    case nanA => exact sumResult_nan_addend F _ _ _ _ (firstNan_nil F) (firstNan_cons_nan F _ ha)
    case nanB => exact sumResult_nan_addend F _ _ _ _ (firstNan_nil F) ((firstNan_cons_number F _ ha).trans (firstNan_cons_nan F _ hb))
    case numbers => exact sumResult_add F _ _ _ _ _ ha hb
  | fmulB f | fmulE f =>
    obtain ⟨gr, hnext, hel⟩ := exec_floatSem h rfl (by decide) rfl
    refine ⟨gr, _, hnext, hel, fun l k => ⟨fun ha => ?nanA, fun ha hb => ?nanB, hno, fun ha hb _ => ⟨hno, fun _ => ?numbers⟩⟩⟩
    case nanA => exact sumResult_nan_factor F _ _ _ _ (firstNan_cons_nan F _ ha)
    case nanB => exact sumResult_nan_factor F _ _ _ _ ((firstNan_cons_number F _ ha).trans (firstNan_cons_nan F _ hb))
    case numbers => exact sumResult_mul F _ _ _ _ ha hb (firstNan_nil F)
  | ffmaB f | ffmaE f =>
    obtain ⟨gr, hnext, hel⟩ := exec_floatSem h rfl (by decide) rfl
    refine ⟨gr, _, hnext, hel, fun l k =>
      ⟨fun ha => ?nanA, fun ha hb => ?nanB, fun _ ha hb hx => ?nanC, fun ha hb hx => ⟨hno, fun _ => ?numbers⟩⟩⟩
    case nanA => exact sumResult_nan_factor F _ _ _ _ (firstNan_cons_nan F _ ha)
    case nanB => exact sumResult_nan_factor F _ _ _ _ ((firstNan_cons_number F _ ha).trans (firstNan_cons_nan F _ hb))
    case nanC => exact sumResult_nan_addend F _ _ _ _ (firstNan_pair_numbers F ha hb) (firstNan_cons_nan F _ hx)
    case numbers => exact sumResult_mul F _ _ _ _ ha hb (firstNan_cons_number F _ (hx rfl))
  | _ => cases hi

end Sys2Proof.Machine
end

section
/-!
PROOF. Bits of an integer element (09 R217, R218): one bit replaced, fields taken out with their extension and put in, the counts and the
reversal, each bit by bit; then O23 and O24.
-/

namespace Sys2Proof.Machine

open Sys2Proof

/-! ### Single bits and fields -/

/-- A number with bit i replaced, bit by bit. -/
theorem testBit_setBits (x i j : Nat) (b : Bool) : (setBits x i i (if b then 1 else 0)).testBit j = if j = i then b else x.testBit j := by
  have hlow : x % 2 ^ i < 2 ^ i := Nat.mod_lt x (Nat.two_pow_pos i)
  have hx : x = 2 ^ i * (x / 2 ^ i) + x % 2 ^ i := (Nat.div_add_mod x (2 ^ i)).symm
  have hset : setBits x i i (if b then 1 else 0) = 2 ^ i * (2 * (x / 2 ^ i / 2) + b.toNat) + x % 2 ^ i := by
    have hhigh : 2 ^ i * (x / 2 ^ i) = 2 ^ i * (2 * (x / 2 ^ i / 2)) + x / 2 ^ i % 2 * 2 ^ i := by
      rw [Nat.mul_comm (_ % 2), ← Nat.mul_add, Nat.div_add_mod]
    have hb : (if b then 1 else 0) % 2 = b.toNat := by cases b <;> rfl
    simp only [setBits, bits, Nat.sub_self, Nat.zero_add, Nat.pow_one, hb, Nat.mul_add, Nat.mul_comm b.toNat]
    omega
  rw [hset, Nat.testBit_two_pow_mul_add _ hlow]
  obtain hlt | rfl | hgt := Nat.lt_trichotomy j i
  · rw [if_pos hlt, if_neg hlt.ne, Nat.testBit_mod_two_pow, decide_eq_true hlt, Bool.true_and]
  · rw [if_neg (Nat.lt_irrefl j), if_pos rfl, Nat.sub_self, Nat.testBit_zero]
    cases b <;> simp
  · obtain ⟨d, rfl⟩ := Nat.exists_eq_add_of_lt hgt
    have hhalf : (2 * (x / 2 ^ i / 2) + b.toNat) / 2 = x / 2 ^ i / 2 := by
      have := b.toNat_lt
      omega
    rw [if_neg (by omega), if_neg (by omega), show i + d + 1 - i = d + 1 by omega, Nat.testBit_succ, hhalf, ← Nat.testBit_succ,
      Nat.testBit_div_two_pow, show d + 1 + i = i + d + 1 by omega]

/-- A field of a number, bit by bit. -/
theorem testBit_bits {lo hi : Nat} (x : Nat) (h : lo < hi) (j : Nat) :
    (bits x (hi - 1) lo).testBit j = (decide (j < hi - lo) && x.testBit (lo + j)) := by
  have hlen : hi - 1 - lo + 1 = hi - lo := by omega
  rw [bits, hlen, Nat.testBit_mod_two_pow, Nat.testBit_div_two_pow, Nat.add_comm]

/-- A number of n bits, its sign extended to w bits, bit by bit (08 R189). -/
theorem testBit_wrap_signed {n : Nat} (hn : 0 < n) (w x j : Nat) :
    (wrap w (signed n x)).testBit j = (decide (j < w) && x.testBit (min j (n - 1))) := by
  have hext : wrap w (signed n x) = ((BitVec.ofNat n x).signExtend w).toNat := by
    rw [wrap_eq_toNat, signed_eq_toInt, BitVec.signExtend]
  rw [hext, BitVec.testBit_toNat, BitVec.getLsbD_signExtend, BitVec.msb_eq_getLsbD_last]
  by_cases hj : j < n
  · rw [if_pos hj, BitVec.getLsbD_ofNat, decide_eq_true hj, Nat.min_eq_left (Nat.le_sub_one_of_lt hj), Bool.true_and]
  · have hlast : n - 1 < n := Nat.sub_lt hn Nat.one_pos
    rw [if_neg hj, BitVec.getLsbD_ofNat, decide_eq_true hlast, Nat.min_eq_right (by omega), Bool.true_and]

/-! ### The counts and the reversal (09 R218) -/

/-- The leading zeros of one bit more: none where that bit is 1, else one more. -/
theorem clz_succ (w a : Nat) : clz (w + 1) a = if a.testBit w then 0 else clz w a + 1 := by
  have hfilter : (List.range (w + 1)).filter (bitOf a) = (List.range w).filter (bitOf a) ++ if a.testBit w then [w] else [] := by
    rw [List.range_succ, List.filter_append, List.filter_cons, List.filter_nil]
    rfl
  rw [clz, hfilter, clz]
  cases a.testBit w with
  | true => simp
  | false =>
    simp only [Bool.false_eq_true, if_false, List.append_nil]
    cases hlast : ((List.range w).filter (bitOf a)).getLast? with
    | none => rfl
    | some i =>
      have hi : i < w := List.mem_range.1 (List.mem_filter.1 (List.mem_of_getLast? hlast)).1
      dsimp only
      omega

/-- The leading zeros are zeros, and a 1 stands below them. -/
theorem clz_spec (w a : Nat) :
    clz w a ≤ w ∧ (∀ j, j < w → w - clz w a ≤ j → a.testBit j = false) ∧ (clz w a < w → a.testBit (w - 1 - clz w a) = true) := by
  induction w with
  | zero => exact ⟨Nat.le_refl 0, fun j hj => absurd hj (Nat.not_lt_zero j), fun h => absurd h (Nat.lt_irrefl 0)⟩
  | succ w ih =>
    obtain ⟨hle, hzeros, hone⟩ := ih
    rw [clz_succ]
    cases hbit : a.testBit w with
    | true =>
      refine ⟨Nat.zero_le _, fun j hj hge => ?_, fun _ => hbit⟩
      exact absurd hge (Nat.not_le.2 hj)
    | false =>
      simp only [Bool.false_eq_true, if_false]
      refine ⟨Nat.succ_le_succ hle, fun j hj hge => ?_, fun hlt => ?_⟩
      · obtain rfl | hjw := Nat.eq_or_lt_of_le (Nat.le_of_lt_succ hj)
        · exact hbit
        · exact hzeros j hjw (by omega)
      · rw [show w + 1 - 1 - (clz w a + 1) = w - 1 - clz w a by omega]
        exact hone (Nat.lt_of_succ_lt_succ hlt)

/-- The fold of BREV after its first n bits has reversed those. -/
theorem testBit_brev_fold (w a : Nat) {n : Nat} (hn : n ≤ w) (j : Nat) :
    ((List.range n).foldl (fun r i => if bitOf a i then r + 2 ^ (w - 1 - i) else r) 0).testBit j =
      (decide (w - n ≤ j ∧ j < w) && a.testBit (w - 1 - j)) := by
  induction n generalizing j with
  | zero =>
    have hnone : ¬ (w - 0 ≤ j ∧ j < w) := by omega
    rw [decide_eq_false hnone, Bool.false_and]
    exact Nat.zero_testBit j
  | succ n ih =>
    have hstep (r : Nat) (hr : r.testBit (w - 1 - n) = false) :
        (if bitOf a n then r + 2 ^ (w - 1 - n) else r) = setBits r (w - 1 - n) (w - 1 - n) (if a.testBit n then 1 else 0) := by
      have hzero : r / 2 ^ (w - 1 - n) % 2 = 0 := by simpa [Nat.testBit_eq_decide_div_mod_eq] using hr
      cases hbit : a.testBit n <;> simp [setBits, bits, bitOf, hbit, hzero]
    have hclear : ((List.range n).foldl (fun r i => if bitOf a i then r + 2 ^ (w - 1 - i) else r) 0).testBit (w - 1 - n) = false := by
      rw [ih (Nat.le_of_succ_le hn), decide_eq_false (by omega), Bool.false_and]
    rw [List.range_succ, List.foldl_append, List.foldl_cons, List.foldl_nil, hstep _ hclear, testBit_setBits, ih (Nat.le_of_succ_le hn)]
    by_cases hj : j = w - 1 - n
    · have hback : w - 1 - j = n := by omega
      have hin : w - (n + 1) ≤ j ∧ j < w := by omega
      rw [if_pos hj, hback, decide_eq_true hin, Bool.true_and]
    · have hsame : (w - n ≤ j ∧ j < w) ↔ (w - (n + 1) ≤ j ∧ j < w) := by omega
      simp only [if_neg hj, hsame]

/-- BREV reverses the bits of an element. -/
theorem testBit_brev {w j : Nat} (a : Nat) (hj : j < w) : (brev w a).testBit j = a.testBit (w - 1 - j) := by
  rw [brev, testBit_brev_fold w a (Nat.le_refl w), decide_eq_true ⟨by omega, hj⟩, Bool.true_and]

/-- An instruction that counts or reverses: its opcode, its meaning and its result. -/
theorem count_meaning {i : Instr} (h : (countOf i 0 0).isSome = true) :
    ∃ op e f, i.parts = some (op, e) ∧ op ∈ genericOps ∧ meaningOf i = some (elemSem none f) ∧
      ∀ c sg w a b x, ∃ Q, countOf i w a = some Q ∧ Q (f c sg w a b x) := by
  cases i with
  | popc f => exact ⟨_, _, _, rfl, by decide, rfl, fun _ _ _ _ _ _ => ⟨_, rfl, rfl⟩⟩
  | clz f => exact ⟨_, _, _, rfl, by decide, rfl, fun _ _ w a _ _ => ⟨_, rfl, clz_spec w a⟩⟩
  | brev f => exact ⟨_, _, _, rfl, by decide, rfl, fun _ _ _ a _ _ => ⟨_, rfl, fun _ => testBit_brev a⟩⟩
  | _ => cases h

/-- Settles O23: each count has its property bit by bit. -/
theorem countResults : Obligations.CountResults := by
  unfold Obligations.CountResults
  intro i s c m h hcount
  obtain ⟨op, e, f, hparts, hop, hmeaning, hresult⟩ := count_meaning hcount
  obtain ⟨gr, hnext, hel⟩ := exec_elemSem h hparts hop hmeaning
  exact ⟨gr, _, hnext, hel, fun _ _ => hresult ..⟩

/-! ### BFE and BFI (09 R217) -/

section
variable {sg : Bool} {w a b : Nat}

theorem bfe_empty (h : bfLen b = 0 ∨ w ≤ bfPos b) : bfe sg w a b = 0 := by
  have htest : (bfLen b == 0 || decide (w ≤ bfPos b)) = true := by simpa using h
  simp only [bfe, htest, if_true]

/-- A field that begins within the element is taken up to its own end or the element's, and extended by the signedness of the TYPE. -/
theorem bfe_field (hlen : 0 < bfLen b) (hpos : bfPos b < w) :
    bfe sg w a b =
      let f := bits a (min (bfPos b + bfLen b) w - 1) (bfPos b)
      if sg then wrap w (signed (min (bfPos b + bfLen b) w - bfPos b) f) else f := by
  have htest : (bfLen b == 0 || decide (w ≤ bfPos b)) = false := by simp [hlen.ne', hpos]
  simp only [bfe, htest, Bool.false_eq_true, if_false]

/-- BFE under a signed TYPE, bit by bit: past its end the field repeats its last bit. -/
theorem testBit_bfe_signed (hlen : 0 < bfLen b) (hpos : bfPos b < w) {j : Nat} (hj : j < w) :
    (bfe true w a b).testBit j = a.testBit (min (bfPos b + j) (min (bfPos b + bfLen b) w - 1)) := by
  have hlt : bfPos b < min (bfPos b + bfLen b) w := by omega
  rw [bfe_field hlen hpos]
  simp only [if_true]
  rw [testBit_wrap_signed (by omega), testBit_bits a hlt, decide_eq_true hj, Bool.true_and,
    decide_eq_true (show min j (min (bfPos b + bfLen b) w - bfPos b - 1) < min (bfPos b + bfLen b) w - bfPos b by omega), Bool.true_and]
  congr 1
  omega

/-- BFE under an unsigned TYPE, bit by bit: past its end there are zeros. -/
theorem testBit_bfe_unsigned (hlen : 0 < bfLen b) (hpos : bfPos b < w) (j : Nat) :
    (bfe false w a b).testBit j = (decide (j < min (bfPos b + bfLen b) w - bfPos b) && a.testBit (bfPos b + j)) := by
  have hlt : bfPos b < min (bfPos b + bfLen b) w := by omega
  rw [bfe_field hlen hpos]
  exact testBit_bits a hlt j

/-- Within the field and the element BFE gives the bits of A. -/
theorem testBit_bfe_field {j : Nat} (hj : j < w) (hlen : j < bfLen b) (hpos : bfPos b + j < w) :
    (bfe sg w a b).testBit j = a.testBit (bfPos b + j) := by
  have hlen0 : 0 < bfLen b := Nat.zero_lt_of_lt hlen
  have hposw : bfPos b < w := Nat.lt_of_le_of_lt (Nat.le_add_right _ _) hpos
  cases sg with
  | true =>
    rw [testBit_bfe_signed hlen0 hposw hj, Nat.min_eq_left (by omega)]
  | false =>
    rw [testBit_bfe_unsigned hlen0 hposw, decide_eq_true (by omega), Bool.true_and]

/-- Past the field or the element BFE gives zeros under an unsigned TYPE. -/
theorem testBit_bfe_unsigned_above {j : Nat} (h : bfLen b ≤ j ∨ w ≤ bfPos b + j) : (bfe false w a b).testBit j = false := by
  by_cases hempty : bfLen b = 0 ∨ w ≤ bfPos b
  · rw [bfe_empty hempty, Nat.zero_testBit]
  · rw [testBit_bfe_unsigned (by omega) (by omega), decide_eq_false (by omega), Bool.false_and]

/-- The fold of BFI after n bits has put those in. -/
theorem testBit_bfi_fold (a b pos n j : Nat) :
    ((List.range n).foldl (fun r i => setBits r (pos + i) (pos + i) (if bitOf b i then 1 else 0)) a).testBit j =
      if pos ≤ j ∧ j < pos + n then b.testBit (j - pos) else a.testBit j := by
  induction n with
  | zero =>
    have hnone : ¬ (pos ≤ j ∧ j < pos + 0) := by omega
    rw [if_neg hnone]
    rfl
  | succ n ih =>
    rw [List.range_succ, List.foldl_append, List.foldl_cons, List.foldl_nil, testBit_setBits, ih]
    by_cases hj : j = pos + n
    · rw [if_pos hj, if_pos (by omega), show j - pos = n by omega]
      rfl
    · have hsame : (pos ≤ j ∧ j < pos + n) ↔ (pos ≤ j ∧ j < pos + (n + 1)) := by omega
      simp only [if_neg hj, hsame]

/-- BFI replaces the bits of its field within the element. -/
theorem testBit_bfi (k : Nat) {j : Nat} (hj : j < w) :
    (bfi w a b k).testBit j = if bfPos k ≤ j ∧ j < bfPos k + bfLen k then b.testBit (j - bfPos k) else a.testBit j := by
  have hfield : (bfPos k ≤ j ∧ j < bfPos k + min (bfLen k) (w - min (bfPos k) w)) ↔ (bfPos k ≤ j ∧ j < bfPos k + bfLen k) := by omega
  rw [bfi, testBit_bfi_fold]
  simp only [hfield]

end

/-- Settles O24, bit by bit of the field. -/
theorem bitFieldResults : Obligations.BitFieldResults := by
  unfold Obligations.BitFieldResults
  intro f s c m w
  refine ⟨fun h => ?bfe, fun h => ?bfi⟩
  case bfe =>
    obtain ⟨gr, hnext, hel⟩ := exec_elemSem h rfl (by decide) rfl
    refine ⟨gr, _, hnext, hel, fun l k => ⟨fun j => testBit_bfe_field, bfe_empty, fun hsg hlen hpos j hj hge => ?signed, fun hsg j => ?unsigned⟩⟩
    case signed =>
      rw [hsg]
      refine (testBit_bfe_signed hlen hpos hj).trans (congrArg _ (Nat.min_eq_right ?_))
      simp only [bfPos, bfLen] at *
      omega
    case unsigned =>
      rw [hsg]
      exact testBit_bfe_unsigned_above
  case bfi =>
    obtain ⟨gr, hnext, hel⟩ := exec_elemSem h rfl (by decide) rfl
    exact ⟨gr, _, hnext, hel, fun l k j => testBit_bfi _⟩

end Sys2Proof.Machine
end

section
/-!
PROOF. Integer arithmetic (09 R213): the TYPEs that an opcode accepts, the family's result for an element, then O21.
-/

namespace Sys2Proof.Machine

open Sys2Proof

/-! ### The family of exact results (09 R213) -/

/-- The TYPE of an instruction that issues is one that its opcode accepts. -/
theorem Issues.typeOk {i : Instr} {s : State} {c : Ctx} {m : Meaning} (h : Issues i s c m) (ha : m.always = false) {sp : OpSpec}
    (hsp : opSpec c.op = some sp) : sp.types.testBit c.f.type.toNat = true := by
  obtain ⟨sp', hsp', hfields, -⟩ := fields_of_legal (h.legal ha)
  obtain rfl : sp' = sp := Option.some.inj (hsp'.symm.trans hsp)
  by_contra hty
  simp [fieldsOk, hty] at hfields

/-- The result of the family for one element: the high half of the product, or the exact result wrapped or clamped. -/
def arithOf (i : Instr) (sat sg : Bool) (w a b k : Nat) : Nat :=
  let x := (exactOf i (valOf sg w a) (valOf sg w b) (valOf sg w k)).getD 0
  if isImulh i then wrap w (x / (2 ^ w : Nat)) else narrow sat sg w x

/-- IABS takes the magnitude of a signed element, which is the exact result of the family. -/
theorem natAbs_signed (w a : Nat) : ((signed w a).natAbs : Int) = if valOf true w a < 0 then -valOf true w a else valOf true w a := by
  show ((signed w a).natAbs : Int) = if signed w a < 0 then -signed w a else signed w a
  split <;> omega

/-- The TYPEs of IABS are signed (09 R213). -/
theorem intSigned_of_iabs (ty : BitVec 4) (h : Nat.testBit 0x9141 ty.toNat = true) : intSigned ty.toNat = true := by
  revert ty
  decide

/-- An instruction of the family: its opcode, its meaning, its second operand and its result. -/
theorem arith_meaning {i : Instr} (h : (exactOf i 0 0 0).isSome = true) :
    ∃ op e bImm f, i.parts = some (op, e) ∧ op ∈ genericOps ∧ meaningOf i = some (elemSem bImm f) ∧
      (∀ c l k, secondOf i c l k = secondElem bImm c l k) ∧
      ∀ (c : Ctx) sg w a b k, (op = 0x007 → sg = true) → arithOf i c.f.sat sg w a b k = f c sg w a b k := by
  cases i with
  | iaddB f | iaddE f | iaddImmB f | iaddImmE f | isubB f | isubE f | imulB f | imulE f | imulhB f | imulhE f | imadB f | imadE f
  | iminB f | iminE f | imaxB f | imaxE f =>
    exact ⟨_, _, _, _, rfl, by decide, rfl, fun _ _ _ => rfl, fun _ _ _ _ _ _ _ => rfl⟩
  | iabsB f | iabsE f =>
    refine ⟨_, _, _, _, rfl, by decide, rfl, fun _ _ _ => rfl, fun c sg w a b k hsg => ?_⟩
    obtain rfl := hsg rfl
    exact congrArg (narrow c.f.sat true w) (natAbs_signed w a).symm
  | _ => cases h

/-- Settles O21: the elements of D are the family's results. -/
theorem integerArithmeticResults : Obligations.IntegerArithmeticResults := by
  unfold Obligations.IntegerArithmeticResults
  intro i s c m h hexact w sg
  obtain ⟨op, e, bImm, f, hparts, hop, hmeaning, hsecond, hresult⟩ := arith_meaning hexact
  obtain ⟨gr, hnext, hel⟩ := exec_elemSem h hparts hop hmeaning
  have hsg : op = 0x007 → sg = true := by
    obtain ⟨rfl, rfl⟩ := h.op_meaning hparts hmeaning
    intro hop
    exact intSigned_of_iabs c.f.type (h.typeOk rfl (sp := spUn 0x9141 true) (by rw [hop]; rfl))
  refine ⟨gr, hnext, ?_⟩
  change ElementsOfD c sg w gr fun l k => arithOf i c.f.sat sg w (elemOfA c l k) (secondOf i c l k) (elemOfC c l k)
  simpa only [hsecond, fun a b k => hresult c sg w a b k hsg] using hel

end Sys2Proof.Machine
end

section
/-!
PROOF. The writing of D (09 R209, R210, R219 to R221, R225): what an instruction that writes D alone leaves and poisons, and the elements
that it gives D; then O27, O25 and O26.
-/

namespace Sys2Proof.Machine

open Sys2Proof

/-! ### The frame of D (09 R209, R210) -/

/-- The opcodes of classes 00 and 01 that write D, and no other register, in the common way. -/
def destOps : List Nat := 0x012 :: 0x026 :: genericOps

/-- They complete at their issue and leave nothing behind. -/
theorem dest_completes {op : Nat} (h : op ∈ destOps) :
    ((opSpec op).getD {}).flag = .short ∧ commitsAtIssue op = false ∧ takesTag op = false := by
  obtain rfl | rfl | h := List.mem_cons.1 h |>.imp_right List.mem_cons.1
  · decide
  · decide
  · exact generic_completes h

/-- They use D: LEA always as a pair, the others where the TYPE has 64 bits. -/
theorem dest_uses_dest {op : Nat} (h : op ∈ destOps) (f : EForm) :
    ∀ u ∈ useOf .d f.d (f.modBit 5) (if op = 0x012 ∨ is64 f.type.toNat = true then 2 else 1) true, u ∈ regUses op f := by
  obtain rfl | rfl | h := List.mem_cons.1 h |>.imp_right List.mem_cons.1
  · intro u hu
    exact List.mem_append_left _ (List.mem_append_left _ hu)
  · intro u hu
    have hwidth : (0x026 = 0x012 ∨ is64 f.type.toNat = true) ↔ is64 f.type.toNat = true := or_iff_right (by decide)
    simp only [hwidth] at hu
    simp only [regUses, opSpec, opSpec0, spInt, usesGen, List.append_assoc]
    exact List.mem_append_left _ hu
  · have hlea : op ≠ 0x012 := by
      rintro rfl
      exact absurd h (by decide)
    simpa only [hlea, false_or] using generic_uses_dest h f

section
variable {i : Instr} {s : State} {c : Ctx} {m : Meaning}

/-- In the scalar half D is an s register. -/
theorem Issues.dest_lt (h : Issues i s c m) (hop : c.op ∈ destOps) (ha : m.always = false) : c.f.d.toNat < 64 ∨ c.f.modBit 5 = false := by
  obtain ⟨-, -, -, hnum, -⟩ := fields_of_legal (h.legal ha)
  cases hs : c.f.modBit 5 with
  | false => exact .inr rfl
  | true =>
    have hu : useS c.f.d true ∈ regUses c.op c.f := dest_uses_dest hop c.f _ (by simp [useOf, hs])
    exact .inl (of_decide_eq_true (List.all_eq_true.1 hnum _ hu))

/-- The two registers of D are not the same where D is a pair. -/
theorem Issues.dest_pair_ne (h : Issues i s c m) (hop : c.op ∈ destOps) (ha : m.always = false) (hv : c.f.modBit 5 = false)
    (hpair : c.op = 0x012 ∨ is64 c.f.type.toNat = true) : vNum c.regs c.f.d.toNat ≠ vNum c.regs (c.f.d.toNat + 1) := by
  obtain ⟨-, -, -, -, halign, -⟩ := fields_of_legal (h.legal ha)
  have hu : useV c.f.d 2 2 true ∈ regUses c.op c.f := dest_uses_dest hop c.f _ (by simp [useOf, hv, hpair])
  exact vNum_pair_ne c.regs c.f.d.isLt (beq_iff_eq.1 (List.all_eq_true.1 halign _ hu))

/-- The effect of an instruction is the write of one value in each lane to D, with a poison in each lane. -/
def Meaning.WritesD (m : Meaning) (c : Ctx) (s : State) (wide : Bool) (val : Nat → Nat) (pois : Nat → Bool) : Prop :=
  m.always = false ∧ ∃ F, m.act = onGroup F ∧ F c s = wrDest c (c.f.modBit 5) wide val pois (s.group c.g)

/-- An instruction that writes D changes D alone, and poisons it as it says. -/
theorem exec_writesD {wide : Bool} {val : Nat → Nat} {pois : Nat → Bool} (h : Issues i s c m) (hop : c.op ∈ destOps)
    (hm : m.WritesD c s wide val pois) :
    exec i s = .next (advance c (s.setGroup c.g (wrDest c (c.f.modBit 5) wide val pois c.gr))) ∧
      WritesOnlyD c wide (wrDest c (c.f.modBit 5) wide val pois c.gr) ∧
      PoisonOfD c wide (wrDest c (c.f.modBit 5) wide val pois c.gr) pois := by
  obtain ⟨ha, F, hact, hF⟩ := hm
  obtain ⟨-, -, -, -, -, -, hsp, -⟩ := issueCtx_eq h.ctx
  obtain ⟨hflag, hcommit, htag⟩ := dest_completes hop
  refine ⟨?_, wrDest_only c wide val pois (h.dest_lt hop ha)⟩
  rw [← h.group_eq, ← hF]
  exact exec_onGroup h ha (hsp ▸ hflag) hcommit htag hact

/-- The same with the elements that D then holds. -/
theorem exec_writesD_elements {sg : Bool} {w : Nat} {r : Nat → Nat → Nat} {pois : Nat → Bool} (h : Issues i s c m) (hop : c.op ∈ destOps)
    (hw : IsElemWidth w) (h64 : w = 64 → c.op = 0x012 ∨ is64 c.f.type.toNat = true)
    (hm : m.WritesD c s (w == 64) (fun l => elemResult (c.f.modBit 5) sg w (r l)) pois) :
    ∃ gr, exec i s = .next (advance c (s.setGroup c.g gr)) ∧ WritesOnlyD c (w == 64) gr ∧ ElementsOfD c sg w gr r ∧
      PoisonOfD c (w == 64) gr pois := by
  obtain ⟨hnext, honly, hpois⟩ := exec_writesD h hop hm
  exact ⟨_, hnext, honly, elementsOfD_wrDest c pois c.gr sg hw r fun hv hw64 => h.dest_pair_ne hop hm.1 hv (h64 hw64), hpois⟩

end

section
variable {c : Ctx} {s : State}

/-- The integer TYPEs have 64-bit elements where their format has 64 bits (08 R184; 09 R207). -/
theorem intWidth_eq_64 (ty : Nat) : (intWidth ty == 64) = is64 ty := by
  unfold intWidth
  split <;> simp_all [is64]

theorem elemSem_writesD (bImm : Option Bool) (f : Ctx → Bool → Nat → Nat → Nat → Nat → Nat) :
    ∃ val, (elemSem bImm f).WritesD c s (is64 c.f.type.toNat) val (resPois c) := by
  rw [← intWidth_eq_64]
  exact ⟨_, rfl, _, rfl, rfl⟩

theorem floatSem_writesD (f : Ctx → Fmt → Nat → Nat → Nat → Nat → Nat) : ∃ val, (floatSem f).WritesD c s false val (resPois c) :=
  ⟨_, rfl, _, rfl, rfl⟩

theorem sfuSem_writesD (fn : SfuFn) : ∃ val, (sfuSem fn).WritesD c s false val (resPois c) := floatSem_writesD _

/-- LI names no operand register, and so poisons nothing. -/
theorem resPois_li (hop : c.op = 0x011) (l : Nat) : resPois c l = false := by
  have huses : regUses c.op c.f = useOf .d c.f.d (c.f.modBit 5) (if is64 c.f.type.toNat then 2 else 1) true := by
    rw [hop]
    simp [regUses, opSpec, opSpec0, usesGen, useOf]
  rw [resPois, huses]
  cases hs : c.f.modBit 5 <;> simp [useOf, useS, useV]

theorem liSem_writesD (hop : c.op = 0x011) : ∃ val, liSem.WritesD c s (is64 c.f.type.toNat) val (resPois c) := by
  rw [← intWidth_eq_64, funext (resPois_li hop)]
  exact ⟨_, rfl, _, rfl, rfl⟩

theorem leaSem_writesD : ∃ val, leaSem.WritesD c s true val (resPois c) := ⟨_, rfl, _, rfl, rfl⟩

theorem brmhSem_writesD : ∃ val, brmhSem.WritesD c s (is64 c.f.type.toNat) val (resPois c) := by
  rw [← intWidth_eq_64]
  exact ⟨_, rfl, _, rfl, rfl⟩

theorem dotSem_writesD (n : Nat) : ∃ val, (dotSem n).WritesD c s false val (resPois c) := ⟨_, rfl, _, rfl, rfl⟩

theorem actSem_writesD : ∃ val, actSem.WritesD c s false val (resPois c) :=
  ⟨_, rfl, fun c s => wrDest c (c.f.modBit 5) false _ (resPois c) (s.group c.g), rfl, rfl⟩

/-- An instruction that writes D in the common way, of the width that its opcode and TYPE give: its opcode and its meaning. -/
theorem dest_meaning {i : Instr} {wide : Bool} (h : destWide i c = some wide) :
    ∃ op e m, i.parts = some (op, e) ∧ op ∈ destOps ∧ meaningOf i = some m ∧
      (c.op = op → ∃ val, m.WritesD c s wide val (resPois c)) := by
  cases i with
  | iaddB f | iaddE f | isubB f | isubE f | imulB f | imulE f | imulhB f | imulhE f | imadB f | imadE f | iminB f | iminE f | imaxB f | imaxE f
  | iabsB f | iabsE f | andB f | andE f | orB f | orE f | xorB f | xorE f | andnB f | andnE f | shlB f | shlE f | shrB f | shrE f | sarB f
  | sarE f | notB f | notE f | movB f | movE f | iaddImmB f | iaddImmE f | shlImmB f | shlImmE f | shrImmB f | shrImmE f | sarImmB f | sarImmE f
  | andImmB f | andImmE f | rot f | bfe f | bfi f | popc f | clz f | brev f =>
    cases h
    exact ⟨_, _, _, rfl, by decide, rfl, fun _ => elemSem_writesD _ _⟩
  | liB f | liE f =>
    cases h
    exact ⟨_, _, _, rfl, by decide, rfl, liSem_writesD⟩
  | leaB f | leaE f =>
    cases h
    exact ⟨_, _, _, rfl, by decide, rfl, fun _ => leaSem_writesD⟩
  | brmh f =>
    cases h
    exact ⟨_, _, _, rfl, by decide, rfl, fun _ => brmhSem_writesD⟩
  | faddB f | faddE f | fsubB f | fsubE f | fmulB f | fmulE f | ffmaB f | ffmaE f | fminB f | fminE f | fmaxB f | fmaxE f | fabsB f | fabsE f
  | fnegB f | fnegE f | frnd f =>
    cases h
    exact ⟨_, _, _, rfl, by decide, rfl, fun _ => floatSem_writesD _⟩
  | rcpB f | rcpE f | rsqB f | rsqE f | sqrtB f | sqrtE f | exp2B f | exp2E f | log2B f | log2E f | tanhB f | tanhE f | sigmB f | sigmE f | sin f
  | cos f | gelu f | silu f | erf f =>
    cases h
    exact ⟨_, _, _, rfl, by decide, rfl, fun _ => sfuSem_writesD _⟩
  | dot2 f | dot4 f =>
    cases h
    exact ⟨_, _, _, rfl, by decide, rfl, fun _ => dotSem_writesD _⟩
  | act f =>
    cases h
    exact ⟨_, _, _, rfl, by decide, rfl, fun _ => actSem_writesD⟩
  | _ => cases h

end

/-- Settles O27: each of these instructions writes D in the common way. -/
theorem destinationIsAllThatChanges : Obligations.DestinationIsAllThatChanges := by
  unfold Obligations.DestinationIsAllThatChanges
  intro i s c m wide h hwide
  obtain ⟨op, e, m', hparts, hop, hmeaning, hwrites⟩ := dest_meaning (s := s) hwide
  obtain ⟨rfl, rfl⟩ := h.op_meaning hparts hmeaning
  obtain ⟨val, hval⟩ := hwrites rfl
  exact ⟨_, exec_writesD h hop hval⟩

/-! ### Moves and selection (09 R219, R221) -/

/-- Elements are taken modulo their width. -/
theorem ElementsOfD.of_mod_eq {c : Ctx} {sg : Bool} {w : Nat} {gr : Group} {r r' : Nat → Nat → Nat} (h : ElementsOfD c sg w gr r)
    (hr : ∀ l k, r l k % 2 ^ w = r' l k % 2 ^ w) : ElementsOfD c sg w gr r' where
  vector hv l k hl hk := (h.vector hv l k hl hk).trans (hr l k)
  scalar hs hd l hl := (h.scalar hs hd l hl).trans (by rw [hr])
  hardwired := h.hardwired

/-- An element of the operand chosen is that operand's. -/
theorem elemAt_ite (b : Bool) (w x y k : Nat) : elemAt w (if b then x else y) k = if b then elemAt w x k else elemAt w y k :=
  apply_ite (elemAt w · k) _ x y

/-- Settles O25: each writes D, SEL with a poison of its own. -/
theorem moveAndSelectResults : Obligations.MoveAndSelectResults := by
  unfold Obligations.MoveAndSelectResults
  intro i s c m h w sg
  have hw : IsElemWidth w := isElemWidth_intWidth _
  have h64 (hw64 : w = 64) : c.op = 0x012 ∨ is64 c.f.type.toNat = true := .inr (is64_of_intWidth hw64)
  refine ⟨?mov, ?li, ?sel⟩
  case mov => rintro (⟨f, rfl⟩ | ⟨f, rfl⟩) <;> exact exec_elemSem h rfl (by decide) rfl
  case li =>
    rintro (⟨f, rfl⟩ | ⟨f, rfl⟩) <;>
    · obtain ⟨hop, rfl⟩ := h.op_meaning rfl rfl
      obtain ⟨gr, hnext, -, hel, -⟩ := exec_writesD_elements h (by rw [hop]; decide) hw h64 ⟨rfl, _, rfl, rfl⟩
      refine ⟨gr, hnext, hel.of_mod_eq fun _ k => ?_⟩
      cases c.f.lit with
      | some x => rfl
      | none => exact Nat.mod_mod _ _
  case sel =>
    rintro ⟨f, rfl⟩ cond
    obtain ⟨hop, rfl⟩ := h.op_meaning rfl rfl
    obtain ⟨gr, hnext, honly, hel, hpois⟩ := exec_writesD_elements h (by rw [hop]; decide) hw h64 ⟨rfl, _, rfl, rfl⟩
    simp only [elemAt_ite] at hel
    exact ⟨gr, hnext, honly, hel, hpois⟩

/-! ### LEA and BRMH (09 R220, R225) -/

theorem wrap_lt (w : Nat) (v : Int) : wrap w v < 2 ^ w := (BitVec.ofInt w v).isLt

/-- A value that fills D is its one element, in both halves. -/
theorem elemResult_whole {sd sg : Bool} {w x : Nat} (hw : 32 ≤ w) (hx : x < 2 ^ w) (hext : extendTo64 sg w x = x) :
    elemResult sd sg w (fun _ => x) = x := by
  cases sd with
  | true => simp only [elemResult, if_true, Nat.mod_eq_of_lt hx, hext]
  | false => simp [elemResult, elemCount, hw, packElems, List.range_succ, Nat.mod_eq_of_lt hx]

theorem extendTo64_unsigned {w x : Nat} (hx : x < 2 ^ w) : extendTo64 false w x = x := Nat.mod_eq_of_lt hx

theorem extendTo64_64 {x : Nat} (hx : x < 2 ^ 64) : extendTo64 true 64 x = x := by
  show wrap 64 (signed 64 x) = x
  rw [signed_eq_toInt, wrap_eq_toNat, BitVec.ofInt_toInt, BitVec.toNat_ofNat, Nat.mod_eq_of_lt hx]

/-- The displacement of LEA without a literal is E and C together, sign-extended. -/
theorem toInt_append_bytes (e c : BitVec 8) : (e ++ c : BitVec 16).toInt = signed 16 (e.toNat * 256 + c.toNat) := by
  have hbytes : BitVec.ofNat 16 (e.toNat * 256 + c.toNat) = e ++ c := by
    apply BitVec.eq_of_toNat_eq
    rw [BitVec.toNat_append, ← Nat.shiftLeft_add_eq_or_of_lt c.isLt, Nat.shiftLeft_eq, BitVec.toNat_ofNat, Nat.mod_eq_of_lt (by omega)]
  rw [signed_eq_toInt, hbytes]

/-- No literal replaces B where the opcode's literal is another operand. -/
theorem opB_register {c : Ctx} (hlit : c.sp.lit ≠ .b) (wide : Bool) (l : Nat) :
    opB c wide l = regBits c.gr c.regs c.f.sb c.f.b.toNat wide l := by
  unfold opB
  split
  · next hb _ => exact absurd hb hlit
  · rfl

/-- What LEA writes: the sum of the base, the scaled index and the displacement, modulo 2^64. -/
def leaValue (c : Ctx) (l : Nat) : Nat :=
  let b := opB c (is64 c.f.type.toNat) l
  let x : Int := if is64 c.f.type.toNat then (b : Int) else if c.f.type = 14 then ((b % 2 ^ 32 : Nat) : Int) else signed 32 b
  let disp : Int := match c.f.lit with
    | some d => d.toInt
    | none => (c.f.e ++ c.f.c : BitVec 16).toInt
  wrap 64 ((opA c true l : Int) + x * (2 ^ c.f.modBits 1 0 : Nat) + disp)

theorem leaSem_writes {c : Ctx} {s : State} (hlit : c.sp.lit ≠ .b) :
    leaSem.WritesD c s (64 == 64) (fun l => elemResult (c.f.modBit 5) true 64 fun _ => leaValue c l) (resPois c) := by
  have hval : (fun l => elemResult (c.f.modBit 5) true 64 fun _ => leaValue c l) = leaValue c :=
    funext fun l => elemResult_whole (by decide) (wrap_lt _ _) (extendTo64_64 (wrap_lt _ _))
  rw [hval]
  refine ⟨rfl, _, rfl, ?_⟩
  refine congrArg (fun val => wrDest c (c.f.modBit 5) true val (resPois c) (s.group c.g)) (funext fun l => ?_)
  have htype : (c.f.type.toNat == 14) = decide (c.f.type = 14) := by
    rw [Bool.beq_eq_decide_eq]
    exact decide_eq_decide.2 (BitVec.toNat_inj (y := 14))
  simp only [leaValue, opB_register hlit, htype, decide_eq_true_eq]
  cases c.f.lit with
  | some d => rfl
  | none => simp only [toInt_append_bytes]

/-- BRMH takes 32-bit or 64-bit elements. -/
theorem intWidth_of_brmh (ty : BitVec 4) (h : wideTypes.testBit ty.toNat = true) : 32 ≤ intWidth ty.toNat := by
  revert ty
  decide

/-- What BRMH writes: the reduced remainder of its unsigned operands. -/
def brmhValue (c : Ctx) (l : Nat) : Nat :=
  let w := intWidth c.f.type.toNat
  brmh w (c.f.modBits 4 0) (opA c (w == 64) l % 2 ^ w) (opB c (w == 64) l % 2 ^ w) (opC c (w == 64) l % 2 ^ w)

theorem brmhSem_writes {c : Ctx} {s : State} (hw : 32 ≤ intWidth c.f.type.toNat) :
    brmhSem.WritesD c s (intWidth c.f.type.toNat == 64)
      (fun l => elemResult (c.f.modBit 5) false (intWidth c.f.type.toNat) fun _ => brmhValue c l) (resPois c) := by
  have hval : (fun l => elemResult (c.f.modBit 5) false (intWidth c.f.type.toNat) fun _ => brmhValue c l) = brmhValue c :=
    funext fun l => elemResult_whole hw (wrap_lt _ _) (extendTo64_unsigned (wrap_lt _ _))
  rw [hval]
  exact ⟨rfl, _, rfl, rfl⟩

/-- Settles O26: both write a value that fills D. -/
theorem addressAndReductionResults : Obligations.AddressAndReductionResults := by
  unfold Obligations.AddressAndReductionResults
  intro i s c m h
  refine ⟨?lea, ?brmh⟩
  case lea =>
    rintro (⟨f, rfl⟩ | ⟨f, rfl⟩) <;>
    · obtain ⟨hop, rfl⟩ := h.op_meaning rfl rfl
      obtain ⟨-, -, -, -, -, -, hsp, -⟩ := issueCtx_eq h.ctx
      have hlit : c.sp.lit ≠ .b := by rw [hsp, hop]; decide
      obtain ⟨gr, hnext, -, hel, -⟩ :=
        exec_writesD_elements h (by rw [hop]; decide) (isElemWidth_intWidth 12) (fun _ => .inl hop) (leaSem_writes hlit)
      exact ⟨gr, hnext, hel⟩
  case brmh =>
    rintro ⟨f, rfl⟩ w
    obtain ⟨hop, rfl⟩ := h.op_meaning rfl rfl
    have hspec : opSpec c.op = some { spInt false with c := .r, mod := 0x1F, types := wideTypes } := by rw [hop]; rfl
    have hw : 32 ≤ w := intWidth_of_brmh c.f.type (h.typeOk rfl hspec)
    obtain ⟨gr, hnext, -, hel, -⟩ := exec_writesD_elements h (by rw [hop]; decide) (isElemWidth_intWidth _)
      (fun h64 => .inr (is64_of_intWidth h64)) (brmhSem_writes hw)
    exact ⟨gr, hnext, hel⟩

end Sys2Proof.Machine
end

section
/-!
PROOF. Predicates that a compare or PLOP writes (09 R222, R223; 10 R233): the p registers after `wrPred`, the registers that the three
instructions read, then O28.
-/

namespace Sys2Proof.Machine

open Sys2Proof

/-! ### Writes of a predicate (06 R113, R114) -/

section
variable (gr : Group)

/-- A write of p15 is ignored. -/
theorem getP_poisP_wrP {n l i j : Nat} (x q : Bool) (hl : l < 64) (hj : j < 64) :
    (gr.wrP n l x q).getP i j = (if i = n ∧ n ≠ 15 ∧ j = l then x else gr.getP i j) ∧
    (gr.wrP n l x q).poisP i j = (if i = n ∧ n ≠ 15 ∧ j = l then q else gr.poisP i j) := by
  by_cases hn : n = 15
  · subst hn
    simp only [ne_eq, not_true_eq_false, false_and, and_false, if_false]
    exact ⟨rfl, rfl⟩
  · simp only [ne_eq, hn, not_false_eq_true, true_and]
    exact ⟨getP_wrP gr n l i j x q hn hl hj, poisP_wrP gr n l i j x q hn hl hj⟩

/-- Two groups that differ at most in their p registers, and a third. -/
theorem sameButP_trans {a b c : Group} (h1 : a = { b with p := a.p, pPois := a.pPois, pUe := a.pUe })
    (h2 : b = { c with p := b.p, pPois := b.pPois, pUe := b.pUe }) : a = { c with p := a.p, pPois := a.pPois, pUe := a.pUe } :=
  h1.trans (by rw [h2])

theorem wrP_rest (n l : Nat) (x q : Bool) :
    gr.wrP n l x q = { gr with p := (gr.wrP n l x q).p, pPois := (gr.wrP n l x q).pPois, pUe := (gr.wrP n l x q).pUe } := by
  by_cases hn : n = 15
  · subst hn
    rfl
  · simp [Group.wrP, Group.setP, Group.setPoisP, hn]

variable (n : Nat) (val pois : Nat → Bool)

/-- A fold of predicate writes over lanes. -/
theorem fold_wrP (ls : List Nat) (hls : ∀ l ∈ ls, l < 64) :
    let g' := ls.foldl (fun g l => g.wrP n l (val l) (pois l)) gr
    (∀ i j, j < 64 → g'.getP i j = (if i = n ∧ n ≠ 15 ∧ j ∈ ls then val j else gr.getP i j) ∧
      g'.poisP i j = (if i = n ∧ n ≠ 15 ∧ j ∈ ls then pois j else gr.poisP i j)) ∧
    g' = { gr with p := g'.p, pPois := g'.pPois, pUe := g'.pUe } := by
  induction ls generalizing gr with
  | nil => simp
  | cons a ls ih =>
    obtain ⟨hreads, hrest⟩ := ih (gr.wrP n a (val a) (pois a)) fun l hl => hls l (List.mem_cons_of_mem _ hl)
    refine ⟨fun i j hj => ?_, sameButP_trans hrest (wrP_rest gr n a _ _)⟩
    obtain ⟨hget, hpois⟩ := hreads i j hj
    obtain ⟨hget', hpois'⟩ := getP_poisP_wrP gr (n := n) (i := i) (val a) (pois a) (hls a List.mem_cons_self) hj
    rw [List.foldl_cons, hget, hpois, hget', hpois']
    simp only [← and_assoc, List.mem_cons]
    by_cases hin : i = n ∧ n ≠ 15
    · by_cases hja : j = a
      · subst hja
        simp [hin]
      · simp [hin, hja]
    · simp only [hin, false_and, if_false, and_self]

variable (c : Ctx)

/-- A p register after the write of a predicate in the active lanes, and its poison. -/
theorem getP_poisP_wrPred {i l : Nat} (hl : l < 64) :
    (wrPred c n val pois gr).getP i l = (if i = n ∧ n ≠ 15 ∧ hasLane c.lanes l = true then val l else gr.getP i l) ∧
    (wrPred c n val pois gr).poisP i l = (if i = n ∧ n ≠ 15 ∧ hasLane c.lanes l = true then pois l else gr.poisP i l) := by
  obtain ⟨hreads, -⟩ := fold_wrP gr n val pois (lanesOf c.lanes) fun _ h => hasLane_lt (mem_lanesOf.1 h)
  simp only [mem_lanesOf] at hreads
  exact hreads i l hl

/-- The predicate written holds its value and its poison in an active lane. -/
theorem wrPred_written {l : Nat} (hn : n ≠ 15) (hact : hasLane c.lanes l = true) :
    (wrPred c n val pois gr).getP n l = val l ∧ (wrPred c n val pois gr).poisP n l = pois l := by
  simpa only [true_and, if_pos (⟨hn, hact⟩ : n ≠ 15 ∧ hasLane c.lanes l = true)] using
    getP_poisP_wrPred gr n val pois c (i := n) (hasLane_lt hact)

/-- Another predicate, an inactive lane and p15 are as before. -/
theorem wrPred_kept {i l : Nat} (hl : l < 64) (h : hasLane c.lanes l = false ∨ i ≠ n ∨ i = 15) :
    (wrPred c n val pois gr).getP i l = gr.getP i l ∧ (wrPred c n val pois gr).poisP i l = gr.poisP i l := by
  have hmiss : ¬ (i = n ∧ n ≠ 15 ∧ hasLane c.lanes l = true) := by
    rintro ⟨rfl, hn, hact⟩
    simp [hn, hact] at h
  simpa only [if_neg hmiss] using getP_poisP_wrPred gr n val pois c (i := i) hl

/-- Nothing but p registers changes. -/
theorem wrPred_rest :
    wrPred c n val pois gr = { gr with p := (wrPred c n val pois gr).p, pPois := (wrPred c n val pois gr).pPois,
                                       pUe := (wrPred c n val pois gr).pUe } :=
  (fold_wrP gr n val pois (lanesOf c.lanes) fun _ h => hasLane_lt (mem_lanesOf.1 h)).2

end

/-! ### What compares and PLOP read (09 R210, R222, R223) -/

/-- The registers that an operand field names are all read. -/
theorem any_reads (k : Kind) (n : BitVec 8) (sbit : Bool) (w : Nat) (q : RegUse → Bool) :
    ((useOf k n sbit w false).any fun u => !u.wr && q u) = (useOf k n sbit w false).any q := by
  cases k <;> cases sbit <;> simp [useOf, useV, useS, useP]

section
variable {i : Instr} {s : State} {c : Ctx} {m : Meaning}

/-- Element 0 is the lowest bits. -/
theorem elemAt_zero (w x : Nat) : elemAt w x 0 = x % 2 ^ w := by
  rw [elemAt, Nat.mul_zero, Nat.pow_zero, Nat.div_one]

/-- The value of element 0 is that of the operand's lowest bits. -/
theorem valOf_elemAt_zero (sg : Bool) (w x : Nat) : valOf sg w (elemAt w x 0) = valOf sg w x := by
  simp only [elemAt_zero, valOf, signed, Nat.mod_mod]

/-- A compare's result is poisoned by its operands, and by pC where its mode reads that. -/
theorem resPois_compare (hop : c.op = 0x027 ∨ c.op = 0x120) (l : Nat) :
    resPois c l = ((useOf .r c.f.a c.f.sa (if is64 c.f.type.toNat then 2 else 1) false).any (RegUse.pois c l) ||
      (c.f.lit.isNone && (useOf .r c.f.b c.f.sb (if is64 c.f.type.toNat then 2 else 1) false).any (RegUse.pois c l)) ||
      (c.f.modBits 4 3 ≠ 0 && c.gr.poisP c.f.c.toNat l)) := by
  have huses : regUses c.op c.f = [useP c.f.d true, useP c.f.e true] ++ (if c.f.modBits 4 3 == 0 then [] else [useP c.f.c false]) ++
      useOf .r c.f.a c.f.sa (if is64 c.f.type.toNat then 2 else 1) false ++
      (if c.f.lit.isSome then [] else useOf .r c.f.b c.f.sb (if is64 c.f.type.toNat then 2 else 1) false) := by
    obtain hop | hop := hop <;> rw [hop] <;> rfl
  have hpC : ((if c.f.modBits 4 3 == 0 then [] else [useP c.f.c false]).any fun u => !u.wr && u.pois c l) =
      (c.f.modBits 4 3 ≠ 0 && c.gr.poisP c.f.c.toNat l) := by
    by_cases hmode : c.f.modBits 4 3 = 0 <;> simp [hmode, useP, RegUse.pois]
  have hB : ((if c.f.lit.isSome then [] else useOf .r c.f.b c.f.sb (if is64 c.f.type.toNat then 2 else 1) false).any
        fun u => !u.wr && u.pois c l) =
      (c.f.lit.isNone && (useOf .r c.f.b c.f.sb (if is64 c.f.type.toNat then 2 else 1) false).any (RegUse.pois c l)) := by
    cases c.f.lit with
    | some x => rfl
    | none => simp only [Option.isSome_none, Option.isNone_none, Bool.false_eq_true, if_false, Bool.true_and, any_reads]
  have hwrites : ([useP c.f.d true, useP c.f.e true].any fun u => !u.wr && u.pois c l) = false := rfl
  rw [resPois, huses, List.any_append, List.any_append, List.any_append, hwrites, hpC, hB, any_reads, Bool.false_or,
    Bool.or_comm (decide _ && _), Bool.or_right_comm]

/-- PLOP's result is poisoned by its three operands. -/
theorem resPois_plop (hop : c.op = 0x028) (l : Nat) :
    resPois c l = (c.gr.poisP c.f.a.toNat l || c.gr.poisP c.f.b.toNat l || c.gr.poisP c.f.c.toNat l) := by
  simp [resPois, hop, regUses, opSpec, opSpec0, usesGen, useOf, useP, RegUse.pois, Bool.or_assoc]

/-- A compare's two predicates are different ones, or both p15. -/
theorem Issues.compare_dests (h : Issues i s c m) (hop : c.op = 0x027 ∨ c.op = 0x120) (ha : m.always = false) :
    c.f.d ≠ c.f.e ∨ c.f.d = 15 := by
  obtain ⟨sp, -, hfields, -⟩ := fields_of_legal (h.legal ha)
  have hextra : fieldsExtra c.op c.f = true := Bool.and_elim_right hfields
  obtain hop | hop := hop <;>
  · simp only [hop, fieldsExtra, Bool.and_eq_true, Bool.or_eq_true, decide_eq_true_eq, beq_iff_eq] at hextra
    exact hextra.2

/-- The meaning of a compare, for a comparison that gives t in each lane. -/
theorem compare_meaning {t : Nat → Bool} (h : Issues i s c m)
    (hi : (∃ f, i = .icmp f) ∧ (∀ l, t l = icmpHolds (c.f.modBits 2 0) (intSigned c.f.type.toNat) (intWidth c.f.type.toNat)
        (elemOfA c l 0) (elemOfB c l 0)) ∨
      (∃ f, i = .fcmp f) ∧ (∀ l, t l = fcmpHolds (fmtOf c.f.type.toNat) (c.f.modBits 2 0) (opA c false l % 2 ^ (fmtOf c.f.type.toNat).width)
        (opB c false l % 2 ^ (fmtOf c.f.type.toNat).width))) :
    (c.op = 0x027 ∨ c.op = 0x120) ∧ ∃ holds, m = cmpSem holds ∧ t = holds c := by
  obtain ⟨⟨f, rfl⟩, ht⟩ | ⟨⟨f, rfl⟩, ht⟩ := hi
  · obtain ⟨hop, rfl⟩ := h.op_meaning rfl rfl
    refine ⟨.inl hop, _, rfl, funext fun l => (ht l).trans ?_⟩
    simp only [icmpHolds, elemOfA, elemOfB, valOf_elemAt_zero]
  · obtain ⟨hop, rfl⟩ := h.op_meaning rfl rfl
    refine ⟨.inr hop, _, rfl, funext fun l => (ht l).trans ?_⟩
    simp only [elemAt_zero]

/-- The opcodes that write predicates alone complete at their issue and leave nothing behind. -/
theorem pred_completes {op : Nat} (h : op = 0x027 ∨ op = 0x120 ∨ op = 0x028) :
    ((opSpec op).getD {}).flag = .short ∧ commitsAtIssue op = false ∧ takesTag op = false := by
  obtain rfl | rfl | rfl := h <;> decide

/-- The next state of such an instruction. -/
theorem exec_pred {F : Ctx → Group → Group} (h : Issues i s c (regAct F)) (hop : c.op = 0x027 ∨ c.op = 0x120 ∨ c.op = 0x028) :
    exec i s = .next (advance c (s.setGroup c.g (F c c.gr))) := by
  obtain ⟨-, -, -, -, -, -, hsp, -⟩ := issueCtx_eq h.ctx
  obtain ⟨hflag, hcommit, htag⟩ := pred_completes hop
  rw [← h.group_eq]
  exact exec_onGroup h rfl (hsp ▸ hflag) hcommit htag rfl

end

/-- Settles O28: a compare writes D, then E, which is another predicate unless both are p15; PLOP writes D. -/
theorem predicateResults : Obligations.PredicateResults := by
  unfold Obligations.PredicateResults
  intro i s c m t h w F pc
  have ne15 {x : BitVec 8} (hx : x ≠ 15) : x.toNat ≠ 15 := fun hnum => hx (BitVec.eq_of_toNat_eq hnum)
  refine ⟨fun hcmp => ?compare, ?plop⟩
  case compare =>
    obtain ⟨hop, holds, rfl, rfl⟩ := compare_meaning h hcmp
    have hdests : c.f.d ≠ 15 → c.f.d.toNat ≠ c.f.e.toNat := fun hd hde =>
      (h.compare_dests hop rfl).elim (· (BitVec.eq_of_toNat_eq hde)) hd
    refine ⟨_, exec_pred h (hop.imp_right .inl), sameButP_trans (wrPred_rest ..) (wrPred_rest ..), fun n l hl hout => ?frame,
      fun l hact hd => ?valueD, fun l hact he => ?valueE, fun n l hn hdest hact => ?poison⟩
    case frame =>
      have hnotE : hasLane c.lanes l = false ∨ n ≠ c.f.e.toNat ∨ n = 15 := hout.imp_right (Or.imp_left And.right)
      have hnotD : hasLane c.lanes l = false ∨ n ≠ c.f.d.toNat ∨ n = 15 := hout.imp_right (Or.imp_left And.left)
      obtain ⟨hgetE, hpoisE⟩ := wrPred_kept _ _ _ _ c hl hnotE
      obtain ⟨hgetD, hpoisD⟩ := wrPred_kept _ _ _ _ c hl hnotD
      exact ⟨hgetE.trans hgetD, hpoisE.trans hpoisD⟩
    case valueD =>
      obtain ⟨hgetE, -⟩ := wrPred_kept _ _ _ _ c (hasLane_lt hact) (.inr (.inl (hdests hd)))
      obtain ⟨hgetD, -⟩ := wrPred_written _ _ _ _ c (ne15 hd) hact
      refine (hgetE.trans hgetD).trans ?_
      obtain _ | _ | _ := c.f.modBits 4 3 <;> rfl
    case valueE =>
      obtain ⟨hgetE, -⟩ := wrPred_written _ _ _ _ c (ne15 he) hact
      refine hgetE.trans ?_
      obtain _ | _ | _ := c.f.modBits 4 3 <;> rfl
    case poison =>
      rw [← resPois_compare hop]
      by_cases hne : n = c.f.e.toNat
      · rw [hne] at hn ⊢
        exact (wrPred_written _ _ _ _ c hn hact).2
      · obtain ⟨-, hpoisE⟩ := wrPred_kept _ _ _ _ c (hasLane_lt hact) (.inr (.inl hne))
        rw [hdest.resolve_right hne] at hn hpoisE ⊢
        exact hpoisE.trans (wrPred_written _ _ _ _ c hn hact).2
  case plop =>
    rintro ⟨f, rfl⟩
    obtain ⟨hop, rfl⟩ := h.op_meaning rfl rfl
    refine ⟨_, exec_pred h (.inr (.inr hop)), wrPred_rest .., fun n l hl hout => wrPred_kept _ _ _ _ c hl hout, fun l hact hd => ?_⟩
    rw [← resPois_plop hop]
    exact wrPred_written _ _ _ _ c (ne15 hd) hact

end Sys2Proof.Machine
end

section
/-!
PROOF. Cross-lane instructions (11 R256, R257): what one of them that writes D leaves unchanged and what D then holds; then shuffles and
broadcast (R258, R259) and O31.
-/

namespace Sys2Proof.Machine

open Sys2Proof

/-! ### Cross-lane instructions that write D (11 R256, R257) -/

/-- SHFL.IDX, SHFL.UP, SHFL.DOWN and SHFL.XOR. -/
def shflOps : List Nat := [0x308, 0x309, 0x30A, 0x30B]

/-- The cross-lane opcodes whose D is a v register always: the shuffles and SCAN. -/
def laneDestOps : List Nat := 0x352 :: shflOps

/-- Those, with BCAST, LANEQ and REDUCE, write D and no other register. -/
def crossDestOps : List Nat := 0x30C :: 0x30E :: 0x351 :: laneDestOps

/-- They complete at their issue and leave nothing behind, as VOTE does. -/
theorem crossLane_completes {op : Nat} (h : op ∈ 0x30D :: crossDestOps) :
    ((opSpec op).getD {}).flag = .short ∧ commitsAtIssue op = false ∧ takesTag op = false := by
  have hall : ∀ op ∈ 0x30D :: crossDestOps, ((opSpec op).getD {}).flag = .short ∧ commitsAtIssue op = false ∧ takesTag op = false := by
    decide
  exact hall op h

/-- They use D, a pair where the TYPE has 64 bits. -/
theorem crossDest_uses_dest {op : Nat} {f : EForm} (h : op ∈ crossDestOps) (hv : op ∈ laneDestOps → f.modBit 5 = false) :
    ∀ u ∈ useOf .d f.d (f.modBit 5) (if is64 f.type.toNat then 2 else 1) true, u ∈ regUses op f := by
  have huses : ∃ rest, regUses op f = useOf .d f.d (f.modBit 5) (if is64 f.type.toNat then 2 else 1) true ++ rest := by
    obtain rfl | rfl | rfl | hlane := List.mem_cons.1 h |>.imp_right fun h => List.mem_cons.1 h |>.imp_right List.mem_cons.1
    · exact ⟨_, List.append_assoc ..⟩
    · exact ⟨_, by simp only [regUses, opSpec, opSpec3, usesGen, List.append_assoc]; rfl⟩
    · exact ⟨_, by simp only [regUses, opSpec, opSpec3, usesGen, List.append_assoc]; rfl⟩
    · rw [hv hlane]
      simp only [laneDestOps, shflOps, List.mem_cons, List.not_mem_nil, or_false] at hlane
      obtain rfl | rfl | rfl | rfl | rfl := hlane
      · exact ⟨_, by simp only [regUses, opSpec, opSpec3, usesGen, List.append_assoc]; rfl⟩
      all_goals exact ⟨_, rfl⟩
  obtain ⟨rest, huses⟩ := huses
  intro u hu
  rw [huses]
  exact List.mem_append_left _ hu

/-- What D holds after the write of a value in each lane: in the vector half that of each active lane, in the scalar half that of the
lowest. -/
structure HoldsInD (c : Ctx) (wide : Bool) (gr : Group) (val : Nat → Nat) : Prop where
  vector : c.f.modBit 5 = false → ∀ l, hasLane c.lanes l = true →
    regBits gr c.regs false c.f.d.toNat wide l = val l % 2 ^ (if wide then 64 else 32)
  scalar : c.f.modBit 5 = true → c.f.d.toNat ≠ 63 → gr.getS c.f.d.toNat = BitVec.ofNat 64 (val ((lanesOf c.lanes).headD 0))

section
variable {i : Instr} {s : State} {c : Ctx} {m : Meaning}

/-- An instruction that issues sets no MOD bit that its opcode leaves unassigned. -/
theorem Issues.modBit_unassigned (h : Issues i s c m) (ha : m.always = false) {sp : OpSpec} (hsp : opSpec c.op = some sp) {k : Nat}
    (hk : (63 - (sp.mod ||| (if sp.sd then 32 else 0))).testBit k = true) : c.f.modBit k = false := by
  obtain ⟨sp', hsp', hfields, -⟩ := fields_of_legal (h.legal ha)
  obtain rfl : sp' = sp := Option.some.inj (hsp'.symm.trans hsp)
  have hmask : c.f.mod.toNat &&& (63 - (sp'.mod ||| (if sp'.sd then 32 else 0))) = 0 := by
    by_contra hne
    simp [fieldsOk, hne] at hfields
  simpa [hk, EForm.modBit] using congrArg (Nat.testBit · k) hmask

/-- The shuffles and SCAN have no scalar half. -/
theorem Issues.laneDest_vector (h : Issues i s c m) (ha : m.always = false) (hop : c.op ∈ laneDestOps) : c.f.modBit 5 = false := by
  have hall : ∀ op ∈ laneDestOps, (opSpec op).any (fun sp => (63 - (sp.mod ||| (if sp.sd then 32 else 0))).testBit 5) = true := by
    decide
  obtain ⟨sp, hsp, hbit⟩ := (Option.any_eq_true _ _).1 (hall c.op hop)
  exact h.modBit_unassigned ha hsp hbit

/-- A cross-lane instruction that writes D changes D alone, in which it leaves its values and their poison. -/
theorem exec_crossDest {wide : Bool} {val : Nat → Nat} {pois : Nat → Bool} (h : Issues i s c m) (hop : c.op ∈ crossDestOps)
    (hwide : wide = true → is64 c.f.type.toNat = true) (hm : m.WritesD c s wide val pois) :
    ∃ gr, exec i s = .next (advance c (s.setGroup c.g gr)) ∧ WritesOnlyD c wide gr ∧ PoisonOfD c wide gr pois ∧ HoldsInD c wide gr val := by
  obtain ⟨ha, F, hact, hF⟩ := hm
  obtain ⟨-, -, -, -, -, -, hsp, -⟩ := issueCtx_eq h.ctx
  obtain ⟨hflag, hcommit, htag⟩ := crossLane_completes (List.mem_cons_of_mem _ hop)
  obtain ⟨-, -, -, hnum, halign, -⟩ := fields_of_legal (h.legal ha)
  have huses := crossDest_uses_dest hop (h.laneDest_vector ha)
  have hlt : c.f.d.toNat < 64 ∨ c.f.modBit 5 = false := by
    cases hs : c.f.modBit 5 with
    | false => exact .inr rfl
    | true => exact .inl (of_decide_eq_true (List.all_eq_true.1 hnum (useS c.f.d true) (huses _ (by simp [useOf, hs]))))
  have hpair (hv : c.f.modBit 5 = false) (h64 : wide = true) : vNum c.regs c.f.d.toNat ≠ vNum c.regs (c.f.d.toNat + 1) :=
    vNum_pair_ne c.regs c.f.d.isLt
      (beq_iff_eq.1 (List.all_eq_true.1 halign (useV c.f.d 2 2 true) (huses _ (by simp [useOf, hv, hwide h64]))))
  obtain ⟨honly, hpois⟩ := wrDest_only c wide val pois hlt
  refine ⟨_, ?next, honly, hpois, fun hv l hl => ?vector, fun hs hd => ?scalar⟩
  case next =>
    rw [← h.group_eq, ← hF]
    exact exec_onGroup h ha (hsp ▸ hflag) hcommit htag hact
  case vector =>
    rw [hv]
    exact regBits_wrDest_vector c wide val pois c.gr (hpair hv) hl
  case scalar => simp [hs, wrDest, getS_wrS, hd]

end

/-! ### Values of a lane and their extension (08 R185) -/

theorem regBits_lt (gr : Group) (regs n : Nat) (wide : Bool) (l : Nat) : regBits gr regs false n wide l < 2 ^ (if wide then 64 else 32) := by
  have hlo := (gr.getV (vNum regs n) l).isLt
  have hhi := (gr.getV (vNum regs (n + 1)) l).isLt
  cases wide <;> simp only [regBits, Bool.false_eq_true, if_false, if_true] <;> omega

/-- A value of 32 bits extended into an s register. -/
theorem ofNat_extendTo64_32 (sg : Bool) (x : Nat) :
    BitVec.ofNat 64 (extendTo64 sg 32 x) = if sg then (BitVec.ofNat 32 x).signExtend 64 else BitVec.ofNat 64 (x % 2 ^ 32) := by
  cases sg with
  | false => rfl
  | true => simp only [extendTo64, if_true, signed_eq_toInt, wrap_eq_toNat, BitVec.ofNat_toNat, BitVec.setWidth_eq, BitVec.signExtend]

/-- A value of 64 bits fills the s register. -/
theorem ofNat_extendTo64_64 (sg : Bool) (x : Nat) : BitVec.ofNat 64 (extendTo64 sg 64 x) = BitVec.ofNat 64 x := by
  cases sg with
  | false => simp only [extendTo64, Bool.false_eq_true, if_false, ← BitVec.toNat_ofNat, BitVec.ofNat_toNat, BitVec.setWidth_eq]
  | true =>
    simp only [extendTo64, if_true, signed_eq_toInt, wrap_eq_toNat, BitVec.ofNat_toNat, BitVec.setWidth_eq, BitVec.ofInt_toInt]

/-! ### Shuffles and broadcast (11 R258, R259) -/

section
variable {i : Instr} {s : State} {c : Ctx}

theorem shflN_value (c : Ctx) (l : Nat) :
    (shflN c l).1 = if c.f.modBit 1 then c.f.b.toNat else if c.f.sb then (c.gr.getS c.f.b.toNat).toNat % 2 ^ 32
      else (c.gr.getV (vNum c.regs c.f.b.toNat) l).toNat := by
  unfold shflN
  split
  · rfl
  · split <;> rfl

theorem shflN_poison (c : Ctx) (l : Nat) :
    (shflN c l).2 = (!c.f.modBit 1 && if c.f.sb then c.gr.poisS c.f.b.toNat else c.gr.poisV (vNum c.regs c.f.b.toNat) l) := by
  cases hi : c.f.modBit 1 <;> cases hb : c.f.sb <;> simp [shflN, hi, hb]

theorem shflSem_writesD (src : Ctx → Nat → Nat → Nat → Nat) (hv : c.f.modBit 5 = false) :
    (shflSem src).WritesD c s (is64 c.f.type.toNat) (fun l => laneVal c (src c l (shflN c l).1 c.gr.w))
      (fun l => lanePois c (src c l (shflN c l).1 c.gr.w) || (shflN c l).2) := by
  refine ⟨rfl, _, rfl, ?_⟩
  rw [hv]
  exact List.foldl_map

/-- A shuffle gives an active lane the value of its source lane. -/
theorem exec_shfl {src : Ctx → Nat → Nat → Nat → Nat} (h : Issues i s c (shflSem src)) (hop : c.op ∈ shflOps) :
    ∃ gr, exec i s = .next (advance c (s.setGroup c.g gr)) ∧ WritesOnlyD c (is64 c.f.type.toNat) gr ∧
      PoisonOfD c (is64 c.f.type.toNat) gr (fun l => lanePois c (src c l (shflN c l).1 c.gr.w) || (shflN c l).2) ∧
      ∀ l, hasLane c.lanes l = true →
        regBits gr c.regs false c.f.d.toNat (is64 c.f.type.toNat) l = laneVal c (src c l (shflN c l).1 c.gr.w) := by
  have hlane : c.op ∈ laneDestOps := List.mem_cons_of_mem _ hop
  have hcross : c.op ∈ crossDestOps := by simp [crossDestOps, hlane]
  have hv := h.laneDest_vector rfl hlane
  obtain ⟨gr, hnext, honly, hpois, hval⟩ := exec_crossDest h hcross id (shflSem_writesD src hv)
  exact ⟨gr, hnext, honly, hpois, fun l hl => (hval.vector hv l hl).trans (Nat.mod_eq_of_lt (regBits_lt ..))⟩

/-- The lane that BCAST reads; its number has all 64 bits of s[B] (log 42). -/
def bcastLane (c : Ctx) : Nat := (if c.f.modBit 1 then c.f.b.toNat else sOp c c.f.b) % c.gr.w

/-- What BCAST writes: the lane's value, extended in the scalar half. -/
def bcastValue (c : Ctx) : Nat :=
  if c.f.modBit 5 && !is64 c.f.type.toNat then extendTo64 (c.f.type == 0) 32 (laneVal c (bcastLane c)) else laneVal c (bcastLane c)

theorem bcastSem_writesD : bcastSem.WritesD c s (is64 c.f.type.toNat) (fun _ => bcastValue c)
    (fun _ => lanePois c (bcastLane c) || (!c.f.modBit 1 && c.gr.poisS c.f.b.toNat)) := by
  refine ⟨rfl, _, rfl, ?_⟩
  cases hs : c.f.modBit 5 <;> cases hw : is64 c.f.type.toNat <;> simp [bcastValue, bcastLane, wrDest, hs, hw]

end

/-- Settles O31: a shuffle takes its source lane by its kind, BCAST one lane for all. -/
theorem shuffleResults : Obligations.ShuffleResults := by
  unfold Obligations.ShuffleResults
  intro i s c m src h W wide n np from' fromP
  refine ⟨fun hkind => ?shuffle, ?bcast⟩
  case shuffle =>
    obtain ⟨f, hop, rfl, hsrc⟩ : ∃ f, c.op ∈ shflOps ∧ m = shflSem f ∧ ∀ l, src l = f c l (n l) W := by
      obtain ⟨⟨f, rfl⟩ | ⟨f, rfl⟩, hsrc⟩ | ⟨⟨f, rfl⟩ | ⟨f, rfl⟩, hsrc⟩ | ⟨⟨f, rfl⟩ | ⟨f, rfl⟩, hsrc⟩ |
        ⟨⟨f, rfl⟩ | ⟨f, rfl⟩, hsrc⟩ := hkind <;>
      · obtain ⟨hop, rfl⟩ := h.op_meaning rfl rfl
        exact ⟨_, by rw [hop]; decide, rfl, by simpa using hsrc⟩
    obtain ⟨gr, hnext, honly, hpois, hval⟩ := exec_shfl h hop
    simp only [shflN_value, shflN_poison] at hpois hval
    simp only [hsrc]
    exact ⟨gr, hnext, honly, hpois, hval⟩
  case bcast =>
    intro hi x
    obtain ⟨hop, rfl⟩ : c.op = 0x30C ∧ m = bcastSem := by
      obtain ⟨f, rfl⟩ | ⟨f, rfl⟩ := hi <;> exact h.op_meaning rfl rfl
    obtain ⟨gr, hnext, honly, hpois, hval⟩ := exec_crossDest h (by rw [hop]; decide) id bcastSem_writesD
    have hlt : laneVal c (bcastLane c) < 2 ^ (if is64 c.f.type.toNat then 64 else 32) := regBits_lt ..
    refine ⟨gr, hnext, honly, hpois, fun hv l hl => ?_, fun hs hd => ?_⟩
    · rw [hval.vector hv l hl]
      simp only [bcastValue, hv, Bool.false_and, Bool.false_eq_true, if_false, Nat.mod_eq_of_lt hlt]
      rfl
    · rw [hval.scalar hs hd]
      change _ = if is64 c.f.type.toNat then BitVec.ofNat 64 (laneVal c (bcastLane c)) else _
      cases hw : is64 c.f.type.toNat with
      | true => simp [bcastValue, hs, hw]
      | false =>
        simp only [hw, Bool.false_eq_true, if_false] at hlt
        simp only [bcastValue, hs, hw, Bool.not_false, Bool.and_self, if_true, ofNat_extendTo64_32, Nat.mod_eq_of_lt hlt, beq_iff_eq]
        rfl

end Sys2Proof.Machine
end

section
/-!
PROOF. Votes and queries over the active lanes (11 R260): the meanings of VOTE and LANEQ, then O32.
-/

namespace Sys2Proof.Machine

open Sys2Proof

/-! ### VOTE (11 R260) -/

/-- A write of an s register leaves everything but the s registers. -/
theorem wrS_rest (gr : Group) (n : Nat) (x : DWord) (p : Bool) :
    gr.wrS n x p = { gr with s := (gr.wrS n x p).s, sPois := (gr.wrS n x p).sPois, sUe := (gr.wrS n x p).sUe } := by
  by_cases hn : n = 63
  · subst hn
    rfl
  · simp [Group.wrS, Group.setS, Group.setPoisS, hn]

/-- A two-bit field of MOD holds one of four values. -/
theorem modBits_1_0_cases (f : EForm) : f.modBits 1 0 = 0 ∨ f.modBits 1 0 = 1 ∨ f.modBits 1 0 = 2 ∨ f.modBits 1 0 = 3 := by
  have hlt : f.modBits 1 0 < 4 := Nat.mod_lt _ (by decide)
  omega

/-- A lane's vote. -/
def voteOf (c : Ctx) (l : Nat) : Bool := c.gr.getP c.f.a.toNat l != c.f.modBit 2

/-- Some active lane's vote is poisoned. -/
def votePois (c : Ctx) : Bool := (lanesOf c.lanes).any fun l => c.gr.poisP c.f.a.toNat l

/-- The predicate that VOTE.AND, VOTE.OR and VOTE.SAME give. -/
def voteResult (c : Ctx) : Bool :=
  match c.f.modBits 1 0 with
  | 0 => (lanesOf c.lanes).all (voteOf c)
  | 1 => (lanesOf c.lanes).any (voteOf c)
  | _ => (lanesOf c.lanes).all (voteOf c) || !(lanesOf c.lanes).any (voteOf c)

theorem voteOf_iff (c : Ctx) (l : Nat) : voteOf c l = true ↔ c.gr.getP c.f.a.toNat l = !c.f.modBit 2 := by
  rw [voteOf, bne_iff_ne, Bool.eq_not]

theorem all_votes_iff (c : Ctx) : (lanesOf c.lanes).all (voteOf c) = true ↔
    ∀ x, hasLane c.lanes x = true → c.gr.getP c.f.a.toNat x = !c.f.modBit 2 := by
  simp only [List.all_eq_true, mem_lanesOf, voteOf_iff]

theorem any_vote_iff (c : Ctx) : (lanesOf c.lanes).any (voteOf c) = true ↔
    ∃ x, hasLane c.lanes x = true ∧ c.gr.getP c.f.a.toNat x = !c.f.modBit 2 := by
  simp only [List.any_eq_true, mem_lanesOf, voteOf_iff]

theorem voteResult_iff {c : Ctx} (hmode : c.f.modBits 1 0 ≠ 3) :
    let q (l : Nat) : Prop := c.gr.getP c.f.a.toNat l = !c.f.modBit 2
    let act (l : Nat) : Prop := hasLane c.lanes l = true
    voteResult c = true ↔ (c.f.modBits 1 0 = 0 ∧ ∀ x, act x → q x) ∨ (c.f.modBits 1 0 = 1 ∧ ∃ x, act x ∧ q x) ∨
      (c.f.modBits 1 0 = 2 ∧ ((∀ x, act x → q x) ∨ ∀ x, act x → ¬q x)) := by
  intro q act
  obtain h0 | h1 | h2 | h3 := modBits_1_0_cases c.f
  · simpa [voteResult, h0] using all_votes_iff c
  · simpa [voteResult, h1] using any_vote_iff c
  · have hnone : (lanesOf c.lanes).any (voteOf c) = false ↔ ∀ x, act x → ¬q x := by
      rw [← Bool.not_eq_true, any_vote_iff, not_exists]
      exact forall_congr' fun x => not_and
    simpa [voteResult, h2] using or_congr (all_votes_iff c) hnone
  · exact absurd h3 hmode

section
variable {i : Instr} {s : State} {c : Ctx}

/-- The next state of VOTE. -/
theorem exec_vote (h : Issues i s c voteSem) (hop : c.op = 0x30D) :
    exec i s = .next (advance c (s.setGroup c.g
      (if c.f.modBits 1 0 = 3 then c.gr.wrS c.f.d.toNat (laneSet (voteOf c) (lanesOf c.lanes)) (votePois c)
       else wrPred c c.f.d.toNat (fun _ => voteResult c) (fun _ => votePois c) c.gr))) := by
  obtain ⟨-, -, -, -, -, -, hsp, -⟩ := issueCtx_eq h.ctx
  obtain ⟨hflag, hcommit, htag⟩ := crossLane_completes (List.mem_cons.2 (.inl hop))
  rw [exec_onGroup h rfl (hsp ▸ hflag) hcommit htag rfl, h.group_eq]
  congr 3
  by_cases hmode : c.f.modBits 1 0 = 3
  · simp only [hmode, beq_self_eq_true, if_true]
    rfl
  · simp only [hmode, beq_iff_eq, if_false]
    rfl

end

/-! ### LANEQ (11 R260) -/

/-- The active lanes whose pC is 1. -/
def queried (c : Ctx) : List Nat := (lanesOf c.lanes).filter fun l => c.gr.getP c.f.c.toNat l

/-- What LANEQ writes in a lane. -/
def laneqValue (c : Ctx) (l : Nat) : Nat :=
  match c.f.modBits 1 0 with
  | 0 => ((queried c).filter (· < l)).length
  | 1 => (queried c).length
  | 2 => (queried c).headD (if c.f.modBit 5 then 2 ^ 64 - 1 else 2 ^ 32 - 1)
  | _ => (laneSet (fun _ => true) (queried c)).toNat

theorem lt_of_mem_queried {c : Ctx} {l : Nat} (h : l ∈ queried c) : l < 64 := hasLane_lt (mem_lanesOf.1 (List.mem_filter.1 h).1)

theorem length_queried_le (c : Ctx) : (queried c).length ≤ 64 :=
  calc (queried c).length
    _ ≤ (lanesOf c.lanes).length := List.length_filter_le ..
    _ ≤ (List.range 64).length := List.length_filter_le ..
    _ = 64 := List.length_range

/-- The first lane of the query, or the value that stands for none. -/
theorem headD_queried (c : Ctx) (x : Nat) : (queried c).headD x = if queried c = [] then x else (queried c).headD 0 := by
  cases queried c <;> rfl

theorem headD_queried_lt (c : Ctx) {x : Nat} (hx : x < 2 ^ 32) : (queried c).headD x < 2 ^ 32 := by
  have hmem (l : Nat) (h : l ∈ queried c) : l < 64 := lt_of_mem_queried h
  cases hq : queried c with
  | nil => exact hx
  | cons a r => exact Nat.lt_trans (hmem a (by simp [hq])) (by decide)

section
variable {i : Instr} {s : State} {c : Ctx}

theorem laneqSem_writesD (hrank : c.f.modBits 1 0 = 0 → c.f.modBit 5 = false) :
    laneqSem.WritesD c s false (laneqValue c) (fun _ => (lanesOf c.lanes).any fun l => c.gr.poisP c.f.c.toNat l) := by
  refine ⟨rfl, _, rfl, ?_⟩
  obtain hmode | hmode | hmode | hmode := modBits_1_0_cases c.f
  · simp [hmode, hrank hmode, wrDest, laneqValue, queried]
  all_goals simp [hmode, wrDest, laneqValue, queried]

/-- RANK has no scalar half, and MASK no other (11 R260). -/
theorem Issues.laneq_half (h : Issues i s c laneqSem) (hop : c.op = 0x30E) :
    (c.f.modBits 1 0 = 0 → c.f.modBit 5 = false) ∧ (c.f.modBits 1 0 = 3 → c.f.modBit 5 = true) := by
  obtain ⟨sp, -, hfields, -⟩ := fields_of_legal (h.legal rfl)
  have hextra : fieldsExtra c.op c.f = true := Bool.and_elim_right hfields
  rw [hop] at hextra
  simp only [fieldsExtra] at hextra
  constructor <;> intro hmode <;> simpa [hmode] using hextra

end

/-- Settles O32: VOTE writes a set or one truth value, LANEQ what it finds of the lanes queried. -/
theorem voteAndQueryResults : Obligations.VoteAndQueryResults := by
  unfold Obligations.VoteAndQueryResults
  intro i s c m h q act M
  refine ⟨?vote, ?laneq⟩
  case vote =>
    rintro ⟨f, rfl⟩
    obtain ⟨hop, rfl⟩ := h.op_meaning rfl rfl
    refine ⟨_, exec_vote h hop, ?_⟩
    by_cases hmode : c.f.modBits 1 0 = 3
    · rw [if_pos hmode]
      have hrest := wrS_rest c.gr c.f.d.toNat (laneSet (voteOf c) (lanesOf c.lanes)) (votePois c)
      refine ⟨hrest.trans (by rw [hrest]), fun _ => ⟨by simp, fun n hn => ?_, fun hd l hl => ?_⟩, (absurd hmode ·)⟩
      · rw [getS_wrS]
        exact if_neg fun ⟨hn', _⟩ => hn hn'
      · rw [getS_wrS, if_pos ⟨rfl, hd⟩]
        show hasLane _ l = true ↔ _
        rw [hasLane_laneSet _ _ (fun _ hx => hasLane_lt (mem_lanesOf.1 hx)), mem_lanesOf, voteOf_iff]
    · rw [if_neg hmode]
      have hrest := wrPred_rest c.gr c.f.d.toNat (fun _ => voteResult c) (fun _ => votePois c) c
      refine ⟨hrest.trans (by rw [hrest]), (absurd · hmode), fun _ => ⟨by rw [hrest], fun n l hl hout => ?_, fun hd l hl => ?_⟩⟩
      · exact (wrPred_kept _ _ _ _ c hl (hout.symm.imp_right .inl)).1
      · rw [(wrPred_written _ _ _ _ c hd hl).1]
        exact voteResult_iff hmode
  case laneq =>
    rintro ⟨f, rfl⟩
    obtain ⟨hop, rfl⟩ := h.op_meaning rfl rfl
    obtain ⟨hrank, hmask⟩ := h.laneq_half hop
    obtain ⟨gr, hnext, honly, -, hval⟩ := exec_crossDest (wide := false) h (by rw [hop]; decide) (by simp) (laneqSem_writesD hrank)
    refine ⟨gr, hnext, honly, fun hv l hl => ?vector, fun hs hd => ?scalar⟩
    case vector =>
      have hget : (gr.getV (vNum c.regs c.f.d.toNat) l).toNat = laneqValue c l % 2 ^ 32 := hval.vector hv l hl
      have hlen := length_queried_le c
      rw [hget]
      obtain hmode | hmode | hmode | hmode := modBits_1_0_cases c.f
      · have hrank := List.length_filter_le (· < l) (queried c)
        simp only [hmode, laneqValue]
        exact Nat.mod_eq_of_lt (by omega)
      · simp only [hmode, laneqValue]
        exact Nat.mod_eq_of_lt (by omega)
      · simp only [hmode, laneqValue, hv]
        exact Nat.mod_eq_of_lt (headD_queried_lt c (by decide))
      · simp [hmask hmode] at hv
    case scalar =>
      rw [hval.scalar hs hd]
      refine ⟨fun hmode => ?count, fun hmode => ?first, fun hmode l hl => ?mask⟩
      case count => simp only [hmode, laneqValue]; rfl
      case first =>
        simp only [hmode, laneqValue, hs, if_true]
        rw [headD_queried, apply_ite (BitVec.ofNat 64)]
        rfl
      case mask =>
        simp only [hmode, laneqValue, BitVec.ofNat_toNat, BitVec.setWidth_eq]
        exact (hasLane_laneSet _ _ (fun _ => lt_of_mem_queried) l).trans (and_iff_left rfl)

end Sys2Proof.Machine
end

section
/-!
PROOF. Integer addition over the active lanes (11 R261 to R263): the fold in lane order and the tree give the sum of their inputs modulo
the width, then O33.
-/

namespace Sys2Proof.Machine

open Sys2Proof

/-! ### The combining of elements (11 R261) -/

/-- The number that a place of the tree stands for: 0 where no lane fills it. -/
def treeNum (t : List (Option RedEl)) (i : Nat) : Nat := ((t.getD i none).map (·.x)).getD 0

/-- The width of the elements of SCAN and REDUCE. -/
def redWidth (c : Ctx) : Nat := if is64 c.f.type.toNat then 64 else 32

section
variable {c : Ctx} (hadd : c.f.modBits 3 0 = 0)
include hadd

theorem redCombine_add (a b : RedEl) : (redCombine c a b).x ≡ a.x + b.x [MOD 2 ^ redWidth c] := by
  simp only [redCombine, hadd]
  exact Nat.mod_modEq _ _

/-! ### The fold in lane order (11 R262) -/

theorem redFold_add (a : RedEl) (ls : List Nat) :
    (ls.foldl (fun a l => redCombine c a (redIn c l)) a).x ≡ a.x + (ls.map (laneVal c)).sum [MOD 2 ^ redWidth c] := by
  induction ls generalizing a with
  | nil => rfl
  | cons l ls ih =>
    calc (ls.foldl (fun a l => redCombine c a (redIn c l)) (redCombine c a (redIn c l))).x
      _ ≡ (redCombine c a (redIn c l)).x + (ls.map (laneVal c)).sum [MOD 2 ^ redWidth c] := ih _
      _ ≡ a.x + laneVal c l + (ls.map (laneVal c)).sum [MOD 2 ^ redWidth c] := (redCombine_add hadd a (redIn c l)).add_right _
      _ = a.x + ((l :: ls).map (laneVal c)).sum := by rw [List.map_cons, List.sum_cons, Nat.add_assoc]

/-- The fold of no lane stands for 0. -/
theorem redLin_add (ls : List Nat) : (((redLin c ls).map (·.x)).getD 0) ≡ (ls.map (laneVal c)).sum [MOD 2 ^ redWidth c] := by
  cases ls with
  | nil => rfl
  | cons l ls => exact redFold_add hadd (redIn c l) ls

/-! ### The tree (11 R262) -/

theorem treeNum_redHalf (t : List (Option RedEl)) {h i : Nat} (hi : i < h) :
    treeNum (redHalf c h t) i ≡ treeNum t i + treeNum t (i + h) [MOD 2 ^ redWidth c] := by
  simp only [treeNum, redHalf, List.getD_eq_getElem?_getD, List.getElem?_map, List.getElem?_range hi, Option.map_some, Option.getD_some]
  cases t[i]?.getD none with
  | none =>
    show _ ≡ 0 + _ [MOD _]
    rw [Nat.zero_add]
  | some a =>
    cases t[i + h]?.getD none with
    | none => rfl
    | some b => exact redCombine_add hadd a b

/-- A halving keeps the sum of the places. -/
theorem sum_redHalf (t : List (Option RedEl)) (h : Nat) :
    ∑ i ∈ Finset.range h, treeNum (redHalf c h t) i ≡ ∑ i ∈ Finset.range (h + h), treeNum t i [MOD 2 ^ redWidth c] :=
  calc ∑ i ∈ Finset.range h, treeNum (redHalf c h t) i
    _ ≡ ∑ i ∈ Finset.range h, (treeNum t i + treeNum t (i + h)) [MOD 2 ^ redWidth c] :=
      Nat.ModEq.sum fun _ hi => treeNum_redHalf hadd t (Finset.mem_range.1 hi)
    _ = ∑ i ∈ Finset.range (h + h), treeNum t i := by
      simp only [Finset.sum_add_distrib, Finset.sum_range_add, Nat.add_comm _ h]

/-- The root of a tree of 2^k places is their sum. -/
theorem redTree_add (n : Nat) : ∀ (k : Nat) (t : List (Option RedEl)), k ≤ n →
    treeNum (redTree c (2 ^ k) n t) 0 ≡ ∑ i ∈ Finset.range (2 ^ k), treeNum t i [MOD 2 ^ redWidth c] := by
  induction n with
  | zero =>
    intro k t hk
    obtain rfl := Nat.le_zero.1 hk
    rw [Nat.pow_zero, Finset.sum_range_one]
    rfl
  | succ n ih =>
    intro k t hk
    cases k with
    | zero =>
      rw [Nat.pow_zero, Finset.sum_range_one]
      rfl
    | succ k =>
      have hhalf : 2 ^ (k + 1) / 2 = 2 ^ k := by rw [Nat.pow_succ, Nat.mul_div_cancel _ (by decide)]
      have hbig : ¬ 2 ^ (k + 1) ≤ 1 := Nat.not_le.2 (Nat.one_lt_two_pow k.succ_ne_zero)
      rw [redTree, if_neg hbig, hhalf, Nat.pow_succ, Nat.mul_two]
      exact (ih k _ (Nat.le_of_succ_le_succ hk)).trans (sum_redHalf hadd t _)

end

/-- The lanes of a set that lie below n are those of the first n. -/
theorem filter_range_eq_lanesOf {m : Lanes} {n : Nat} (hn : n ≤ 64) (hm : ∀ l, hasLane m l = true → l < n) :
    (List.range n).filter (hasLane m) = lanesOf m := by
  have hrest : ((List.range (64 - n)).map (n + ·)).filter (hasLane m) = [] := by
    simp only [List.filter_eq_nil_iff, List.mem_map]
    rintro _ ⟨k, -, rfl⟩ hl
    exact absurd (hm _ hl) (by omega)
  rw [lanesOf, ← Nat.add_sub_cancel' hn, List.range_add, List.filter_append, hrest, List.append_nil]

/-- The places of the tree: the input of each active lane at its number. -/
def redLeaves (c : Ctx) (n : Nat) : List (Option RedEl) := (List.range n).map fun i => if hasLane c.lanes i then some (redIn c i) else none

/-- The places sum to the inputs of the active lanes. -/
theorem sum_redLeaves {c : Ctx} {n : Nat} (hn : n ≤ 64) (hlanes : ∀ l, hasLane c.lanes l = true → l < n) :
    ∑ i ∈ Finset.range n, treeNum (redLeaves c n) i = ((lanesOf c.lanes).map (laneVal c)).sum := by
  have hplace (i : Nat) (hi : i ∈ Finset.range n) : treeNum (redLeaves c n) i = if hasLane c.lanes i then laneVal c i else 0 := by
    have hleaf : (redLeaves c n).getD i none = if hasLane c.lanes i then some (redIn c i) else none := by
      simp [redLeaves, List.getD_eq_getElem?_getD, Finset.mem_range.1 hi]
    rw [treeNum, hleaf]
    split <;> rfl
  calc ∑ i ∈ Finset.range n, treeNum (redLeaves c n) i
    _ = ∑ i ∈ Finset.range n, if hasLane c.lanes i then laneVal c i else 0 := Finset.sum_congr rfl hplace
    _ = ((List.range n).map fun i => if hasLane c.lanes i then laneVal c i else 0).sum := by
      rw [← List.toFinset_range, List.sum_toFinset _ List.nodup_range]
    _ = (((List.range n).filter (hasLane c.lanes)).map (laneVal c)).sum := by simp [List.sum_map_ite]
    _ = ((lanesOf c.lanes).map (laneVal c)).sum := by rw [filter_range_eq_lanesOf hn hlanes]

/-! ### REDUCE and SCAN -/

/-- The places of the tree of a group of W lanes: a power of two. -/
def redPlaces (w : Nat) : Nat := if w ≤ 4 then 4 else if w ≤ 8 then 8 else if w ≤ 16 then 16 else if w ≤ 32 then 32 else 64

theorem redPlaces_eq_two_pow {w : Nat} (hw : w ≤ 64) : ∃ k ≤ 6, redPlaces w = 2 ^ k ∧ w ≤ 2 ^ k := by
  unfold redPlaces
  split
  · exact ⟨2, by omega⟩
  split
  · exact ⟨3, by omega⟩
  split
  · exact ⟨4, by omega⟩
  split
  · exact ⟨5, by omega⟩
  · exact ⟨6, by omega⟩

/-- The lanes whose inputs SCAN combines for a lane. -/
def scanLanes (c : Ctx) (l : Nat) : List Nat := (lanesOf c.lanes).filter fun k => if c.f.modBit 4 then k < l else k ≤ l

/-- What SCAN writes in a lane. -/
def scanElement (c : Ctx) (l : Nat) : RedEl := (redLin c (scanLanes c l)).getD { x := redIdentity c, pois := false, lane := l }

theorem scanSem_writesD {s : State} {c : Ctx} (hv : c.f.modBit 5 = false) :
    scanSem.WritesD c s (is64 c.f.type.toNat) (fun l => (scanElement c l).x) (fun l => (scanElement c l).pois) := by
  refine ⟨rfl, _, rfl, ?_⟩
  rw [hv]
  rfl

/-- The result of REDUCE in either order. -/
def reduceValue (c : Ctx) : Nat :=
  ((if c.f.modBit 4 then redLin c (lanesOf c.lanes)
    else (redTree c (redPlaces c.gr.w) 7 (redLeaves c (redPlaces c.gr.w))).headD none).map (·.x)).getD 0

theorem reduceValue_add {c : Ctx} (hadd : c.f.modBits 3 0 = 0) (hw : c.gr.w ≤ 64) (hlanes : ∀ l, hasLane c.lanes l = true → l < c.gr.w) :
    reduceValue c ≡ ((lanesOf c.lanes).map (laneVal c)).sum [MOD 2 ^ redWidth c] := by
  unfold reduceValue
  split
  · exact redLin_add hadd _
  · obtain ⟨k, hk, hplaces, hle⟩ := redPlaces_eq_two_pow hw
    have hk64 : 2 ^ k ≤ 64 := Nat.pow_le_pow_right (by decide) hk
    rw [hplaces, List.headD_eq_head?_getD, List.head?_eq_getElem?, ← List.getD_eq_getElem?_getD]
    refine (redTree_add hadd 7 k _ (by omega)).trans ?_
    rw [sum_redLeaves hk64 fun l hl => (hlanes l hl).trans_le hle]

section
variable {s : State} {c : Ctx} (hadd : c.f.modBits 3 0 = 0)
include hadd

/-- REDUCE of an addition writes its result, extended by TYPE in the scalar half. -/
theorem reduceSem_writesD : reduceSem.WritesD c s (is64 c.f.type.toNat)
    (fun _ => if c.f.modBit 5 then extendTo64 (c.f.type.toNat == 0 || c.f.type.toNat == 12) (redWidth c) (reduceValue c) else reduceValue c)
    (fun _ => (lanesOf c.lanes).any (lanePois c)) := by
  have hwide : (redWidth c == 64) = is64 c.f.type.toNat := by
    unfold redWidth
    cases is64 c.f.type.toNat <;> rfl
  rw [← hwide]
  refine ⟨rfl, _, rfl, ?_⟩
  have hnan : redNan c (lanesOf c.lanes) = none := by simp [redNan, hadd]
  cases hs : c.f.modBit 5 <;>
  · simp only [hnan, hadd, Bool.and_true, Nat.reduceLT, decide_true]
    rfl

theorem scanElement_add (l : Nat) : (scanElement c l).x ≡ ((scanLanes c l).map (laneVal c)).sum [MOD 2 ^ redWidth c] := by
  have hid : redIdentity c = 0 := by simp [redIdentity, hadd]
  have hmap : (scanElement c l).x = ((redLin c (scanLanes c l)).map (·.x)).getD 0 := by
    unfold scanElement
    cases redLin c (scanLanes c l) with
    | none => exact hid
    | some a => rfl
  rw [hmap]
  exact redLin_add hadd _

end

/-- A result of 32 or 64 bits extended into an s register as its TYPE says (08 R185). -/
theorem ofNat_extendTo64_type (ty : BitVec 4) (x : Nat) :
    let wide := is64 ty.toNat
    let w := if wide then 64 else 32
    BitVec.ofNat 64 (extendTo64 (ty.toNat == 0 || ty.toNat == 12) w x) =
      if wide then BitVec.ofNat 64 (x % 2 ^ w)
      else if ty = 0 then (BitVec.ofNat 32 (x % 2 ^ w)).signExtend 64 else BitVec.ofNat 64 (x % 2 ^ w) := by
  intro wide w
  have hmod (n : Nat) : BitVec.ofNat n (x % 2 ^ n) = BitVec.ofNat n x := BitVec.eq_of_toNat_eq (by simp)
  by_cases h64 : is64 ty.toNat = true
  · simp only [w, wide, h64, if_true, ofNat_extendTo64_64, hmod]
  · have h12 : (ty.toNat == 12) = false := by simp_all [is64]
    have h0 : (ty.toNat == 0) = decide (ty = 0) := by
      rw [Bool.beq_eq_decide_eq]
      exact decide_eq_decide.2 (BitVec.toNat_inj (y := 0))
    simp only [w, wide, h64, h12, h0, Bool.or_false, Bool.false_eq_true, if_false, ofNat_extendTo64_32, decide_eq_true_eq, hmod]

/-- Settles O33: D takes results that are their sums modulo the width. -/
theorem additionOverLanes : Obligations.AdditionOverLanes := by
  unfold Obligations.AdditionOverLanes
  intro i s c m h hadd hw64 hlanes wide w x sum
  refine ⟨?scan, ?reduce⟩
  case scan =>
    rintro ⟨f, rfl⟩
    obtain ⟨hop, rfl⟩ := h.op_meaning rfl rfl
    have hv := h.laneDest_vector rfl (by rw [hop]; decide)
    obtain ⟨gr, hnext, honly, -, hval⟩ := exec_crossDest h (by rw [hop]; decide) id (scanSem_writesD hv)
    exact ⟨gr, hnext, honly, fun l hl => (hval.vector hv l hl).trans (scanElement_add hadd l)⟩
  case reduce =>
    rintro ⟨f, rfl⟩
    obtain ⟨hop, rfl⟩ := h.op_meaning rfl rfl
    obtain ⟨gr, hnext, honly, -, hval⟩ := exec_crossDest h (by rw [hop]; decide) id (reduceSem_writesD hadd)
    have hsum : reduceValue c % 2 ^ w = sum (lanesOf c.lanes) := reduceValue_add hadd hw64 hlanes
    refine ⟨gr, hnext, honly, fun hv l hl => ?_, fun hs hd => ?_⟩
    · have hget := hval.vector hv l hl
      simp only [hv, Bool.false_eq_true, if_false] at hget
      exact hget.trans hsum
    · rw [hval.scalar hs hd, if_pos hs, ← hsum]
      exact ofNat_extendTo64_type c.f.type _

end Sys2Proof.Machine
end

section
/-!
PROOF. A dependence counter under TDEP (12 R283, R294): the operand, the counter's next state, the state that holds it, then O55.
-/

namespace Sys2Proof.Machine

open Sys2Proof

section
variable (c : Ctx) (s : State)

/-! ### What looking at the queued operations leaves alone (12 R282) -/

/-- Messages that are each sent at most once change nothing but the messages under way. -/
theorem foldl_wireOnce_rest {α : Type} (msg : α → Msg) (xs : List α) (s : State) :
    ∃ ws, xs.foldl (fun s x => s.wireOnce (msg x)) s = { s with wires := ws } := by
  induction xs generalizing s with
  | nil => exact ⟨s.wires, rfl⟩
  | cons x r ih =>
    obtain ⟨ws, h⟩ := ih (s.wireOnce (msg x))
    refine ⟨ws, ?_⟩
    rw [List.foldl_cons, h, wireOnce_rest]

theorem kickTsch_rest (core : Nat) : ∃ ws, kickTsch s core = { s with wires := ws } := foldl_wireOnce_rest _ _ s

/-! ### The counter -/

/-- The word in which a counter is read (R283). -/
def DepCtr.word (d : DepCtr) : DWord := BitVec.ofNat 64 (d.asid * 2 ^ 32 + (if d.under then 2 ^ 16 else 0) + d.value)

/-- The counter after a signed number is added to it: saturated at both ends, a fall below 0 noted (R283). -/
def DepCtr.add (d : DepCtr) (x : Int) : DepCtr :=
  { d with value := (max 0 (min 65535 ((d.value : Int) + x))).toNat, under := d.under || (d.value : Int) + x < 0 }

@[simp] theorem DepCtr.add_asid (d : DepCtr) (x : Int) : (d.add x).asid = d.asid := rfl

theorem DepCtr.add_value (d : DepCtr) (x : Int) : ((d.add x).value : Int) = max 0 (min 65535 ((d.value : Int) + x)) :=
  Int.toNat_of_nonneg (le_max_left _ _)

theorem DepCtr.add_under (d : DepCtr) (x : Int) : (d.add x).under = true ↔ d.under = true ∨ (d.value : Int) + x < 0 := by
  simp only [DepCtr.add, Bool.or_eq_true, decide_eq_true_eq]

/-- The number that TDEP.ADD adds (R294). -/
def tdepDelta : Int :=
  match c.f.lit with
  | some x => x.toInt
  | none => if c.f.modBit 1 then c.f.b.toInt else (c.gr.getS c.f.b.toNat).toInt

/-- The number that TDEP.SET reads, before its higher bits are dropped (R294). -/
def tdepOperand : Nat :=
  match c.f.lit with
  | some x => x.toNat
  | none => if c.f.modBit 1 then c.f.b.toNat else sOp c c.f.b

/-- The value that TDEP.SET sets: an immediate of 8 bits, or the low 16 bits of the literal or of s[B] (R294). -/
def tdepValue : Nat :=
  match c.f.lit with
  | some x => x.toNat % 2 ^ 16
  | none => if c.f.modBit 1 then c.f.b.toNat else (c.gr.getS c.f.b.toNat).toNat % 2 ^ 16

/-- Of an immediate, which has 8 bits, nothing is dropped. -/
theorem tdepOperand_mod : tdepOperand c % 2 ^ 16 = tdepValue c := by
  unfold tdepOperand tdepValue
  cases c.f.lit with
  | some x => rfl
  | none =>
    cases c.f.modBit 1 with
    | false => rfl
    | true => exact Nat.mod_eq_of_lt (c.f.b.isLt.trans (by decide))

/-- The counter that TDEP leaves. -/
def tdepCtr : DepCtr :=
  if c.f.modBit 0 then (getDc s c.gr.core c.f.c.toNat).add (tdepDelta c)
  else { asid := s.ctxOf c.gr, under := false, value := tdepOperand c % 2 ^ 16 }

theorem tdepCtr_set (h : c.f.modBit 0 = false) :
    tdepCtr c s = { asid := s.ctxOf c.gr, under := false, value := tdepValue c } := by
  simp only [tdepCtr, h, tdepOperand_mod, Bool.false_eq_true, if_false]

theorem tdepCtr_add (h : c.f.modBit 0 = true) : tdepCtr c s = (getDc s c.gr.core c.f.c.toNat).add (tdepDelta c) := if_pos h

/-! ### The state -/

/-- The state with the counter read and updated, before the queued operations are looked at. -/
def tdepState : State :=
  (s.modGroup c.g fun gr => gr.wrS c.f.d.toNat (getDc s c.gr.core c.f.c.toNat).word false).modCore c.gr.core
    fun x => { x with dcs := tput x.dcs c.f.c.toNat (tdepCtr c s) }

theorem tdepSem_act : tdepSem.act c s =
    (if (tdepCtr c s).value == 0 then kickTsch (tdepState c s) c.gr.core else tdepState c s, false) := rfl

/-- TDEP leaves that state, but for the messages under way. -/
theorem tdepSem_act_rest : ∃ ws, (tdepSem.act c s).1 = { tdepState c s with wires := ws } := by
  rw [tdepSem_act]
  dsimp only
  split
  · exact kickTsch_rest _ _
  · exact ⟨_, rfl⟩

theorem tdepState_group : (tdepState c s).group c.g = (s.group c.g).wrS c.f.d.toNat (getDc s c.gr.core c.f.c.toNat).word false :=
  group_modGroup_same s c.g fun gr => gr.wrS c.f.d.toNat (getDc s c.gr.core c.f.c.toNat).word false

theorem tdepState_core : (tdepState c s).core c.gr.core =
    { s.core c.gr.core with dcs := tput (s.core c.gr.core).dcs c.f.c.toNat (tdepCtr c s) } := core_modCore_same _ _ _

theorem getDc_tdepState_same : getDc (tdepState c s) c.gr.core c.f.c.toNat = tdepCtr c s := by
  rw [getDc, tdepState_core, tget_tput_same]

theorem getDc_tdepState_ne {j : Nat} (h : j ≠ c.f.c.toNat) : getDc (tdepState c s) c.gr.core j = getDc s c.gr.core j := by
  rw [getDc, tdepState_core, tget_tput_ne _ _ _ h, getDc]

end

/-! ### The obligation -/

/-- Settles O55: the read, the frame, and the counter of TDEP.SET and of TDEP.ADD. -/
theorem dependenceCounterResults : Obligations.DependenceCounterResults := by
  unfold Obligations.DependenceCounterResults
  intro f s c m h k d word v delta t
  obtain ⟨-, rfl⟩ := h.op_meaning rfl rfl
  obtain ⟨ws, ht⟩ : ∃ ws, t = { tdepState c s with wires := ws } := tdepSem_act_rest c s
  have hk : getDc t c.gr.core k = tdepCtr c s := by rw [ht]; exact getDc_tdepState_same c s
  refine ⟨exec_issues h, ?group, ?mem, fun j hj => ?others, fun hset => ?set, fun hadd => ?add⟩
  case group => rw [ht, ← h.group_eq]; exact tdepState_group c s
  case mem => rw [ht]; rfl
  case others => rw [ht]; exact getDc_tdepState_ne c s hj
  case set => exact hk.trans (tdepCtr_set c s hset)
  case add =>
    rw [hk, tdepCtr_add c s hadd]
    exact ⟨d.add_asid delta, d.add_value delta, d.add_under delta⟩

end Sys2Proof.Machine
end

section
/-!
PROOF. BESTMAX (14 R330; 15 R372, R373; 17 R400): the pair under a list of steps, the issue of an instruction that commits at its issue
and writes no register, the release that BESTMAX is, then O37.
-/

namespace Sys2Proof.Machine

open Sys2Proof

/-! ### The pair under a list of steps (15 R373) -/

section
variable {la : Launch} {xs : List (Nat × Nat)} {x : Nat × Nat}

/-- The score of a step: the low half of its operand. -/
def offeredScore (x : Nat × Nat) : Word := BitVec.ofNat 32 x.1

theorem bestSteps_cons (la : Launch) (x : Nat × Nat) (xs : List (Nat × Nat)) : bestSteps la (x :: xs) = bestSteps (bestSteps la [x]) xs := rfl

theorem bestSteps_append (la : Launch) (xs ys : List (Nat × Nat)) : bestSteps la (xs ++ ys) = bestSteps (bestSteps la xs) ys :=
  List.foldl_append

/-- A better score takes the pair. -/
theorem bestSteps_better (h : la.bestScore.toInt < (offeredScore x).toInt) :
    bestSteps la [x] = { la with bestScore := offeredScore x, bestData := BitVec.ofNat 32 x.2 } :=
  if_pos (BitVec.slt_iff_toInt_lt.2 h)

/-- A score that is not better leaves it. -/
theorem bestSteps_notBetter (h : (offeredScore x).toInt ≤ la.bestScore.toInt) : bestSteps la [x] = la :=
  if_neg fun hlt => not_lt.2 h (BitVec.slt_iff_toInt_lt.1 hlt)

/-- One step leaves the larger of the two scores. -/
theorem toInt_bestScore_bestSteps_one (la : Launch) (x : Nat × Nat) :
    (bestSteps la [x]).bestScore.toInt = max la.bestScore.toInt (offeredScore x).toInt := by
  obtain h | h := lt_or_ge la.bestScore.toInt (offeredScore x).toInt
  · rw [bestSteps_better h, max_eq_right h.le]
  · rw [bestSteps_notBetter h, max_eq_left h]

/-- The steps change the pair alone. -/
theorem bestSteps_rest (la : Launch) (xs : List (Nat × Nat)) :
    bestSteps la xs = { la with bestScore := (bestSteps la xs).bestScore, bestData := (bestSteps la xs).bestData } := by
  induction xs generalizing la with
  | nil => rfl
  | cons x xs ih =>
    rw [bestSteps_cons, ih]
    obtain h | h := lt_or_ge la.bestScore.toInt (offeredScore x).toInt
    · rw [bestSteps_better h]
    · rw [bestSteps_notBetter h]

/-- The best score after the steps is the largest of the one before and theirs: it is below what they are all below. -/
theorem bestScore_bestSteps_lt_iff {b : Int} :
    (bestSteps la xs).bestScore.toInt < b ↔ la.bestScore.toInt < b ∧ ∀ x ∈ xs, (offeredScore x).toInt < b := by
  induction xs generalizing la with
  | nil => simp [bestSteps]
  | cons x xs ih =>
    rw [bestSteps_cons, ih, toInt_bestScore_bestSteps_one, max_lt_iff, List.forall_mem_cons, and_assoc]

/-- It is at least the one before and every score of the steps. -/
theorem le_bestScore_bestSteps (la : Launch) (xs : List (Nat × Nat)) :
    la.bestScore.toInt ≤ (bestSteps la xs).bestScore.toInt ∧
      ∀ x ∈ xs, (offeredScore x).toInt ≤ (bestSteps la xs).bestScore.toInt := by
  obtain ⟨hla, hxs⟩ := bestScore_bestSteps_lt_iff.1 (Int.lt_add_one_iff.2 (le_refl (bestSteps la xs).bestScore.toInt))
  exact ⟨Int.lt_add_one_iff.1 hla, fun x hx => Int.lt_add_one_iff.1 (hxs x hx)⟩

/-- Steps without a better score keep the pair. -/
theorem bestSteps_kept (h : ∀ x ∈ xs, (offeredScore x).toInt ≤ la.bestScore.toInt) : bestSteps la xs = la := by
  induction xs with
  | nil => rfl
  | cons x xs ih =>
    obtain ⟨hx, hxs⟩ := List.forall_mem_cons.1 h
    rw [bestSteps_cons, bestSteps_notBetter hx, ih hxs]

/-- The first step that has the best score after all of them, better than the one before, gives its data: it takes the pair, and
the steps after it keep it. -/
theorem bestData_bestSteps_first {a b : List (Nat × Nat)} (hbest : offeredScore x = (bestSteps la (a ++ x :: b)).bestScore)
    (hla : la.bestScore.toInt < (offeredScore x).toInt) (ha : ∀ y ∈ a, (offeredScore y).toInt < (offeredScore x).toInt) :
    (bestSteps la (a ++ x :: b)).bestData = BitVec.ofNat 32 x.2 := by
  have hall := (le_bestScore_bestSteps la (a ++ x :: b)).2
  rw [← hbest] at hall
  have htaken := bestSteps_better (bestScore_bestSteps_lt_iff.2 ⟨hla, ha⟩)
  rw [bestSteps_append, bestSteps_cons, htaken, bestSteps_kept]
  exact fun y hy => hall y (List.mem_append_right _ (List.mem_cons_of_mem _ hy))

end

/-! ### An instruction that commits at its issue and writes no register (17 R400) -/

section
variable {s t : State} {c : Ctx} {m : Meaning}

/-- Registers that are only read are not hazarded (06 R136). -/
theorem hazOf_reads {us : List RegUse} (h : ∀ u ∈ us, u.wr = false) : hazOf c us = [] := by
  cases hflag : c.flag with
  | none => exact hazOf_none us hflag
  | some k =>
    simp only [hazOf, hflag, List.flatMap_eq_nil_iff]
    intro u hu
    rw [h u hu]
    rfl

theorem useOf_reads (k : Kind) (n : BitVec 8) (sbit : Bool) (w : Nat) : ∀ u ∈ useOf k n sbit w false, u.wr = false := by
  cases k <;> cases sbit <;> simp [useOf, useV, useS, useP]

/-- BESTMAX only reads registers. -/
theorem regUses_bestmax_reads (f : EForm) : ∀ u ∈ regUses 0x349 f, u.wr = false := by
  have huses : regUses 0x349 f = useOf .r f.a f.sa 1 false ++ useOf .r f.b f.sb 1 false := rfl
  rw [huses]
  exact List.forall_mem_append.2 ⟨useOf_reads .r f.a f.sa 1, useOf_reads .r f.b f.sb 1⟩

/-- The group with the lanes of an instruction that commits passed to the region after it (17 R400). -/
def Ctx.committed (c : Ctx) (gr : Group) : Group := gr.enterRegion c.entry (c.pc + BitVec.ofNat 64 (4 * c.nw)) (nextHdr c)

/-- Such an instruction leaves, beside its effect, the new region of its lanes and, when it is complete, the count on its flag. -/
theorem afterAct_commits {pending : Bool} (hw : ∀ u ∈ regUses c.op c.f ++ m.uses c s, u.wr = false) (hc : commitsAtIssue c.op = true)
    (ht : takesTag c.op = false) (he : (t.group c.g).ended = false) :
    afterAct c m s (t, pending) = t.setGroup c.g
      (c.committed (if pending then t.group c.g else (t.group c.g).decFlag c.gr.hm c.flag)) := by
  simp only [afterAct, modGroup_eq, hc, ht, hazOf_reads hw, List.append_nil, Bool.false_eq_true, if_false, if_true]
  exact congrArg (t.setGroup c.g) (if_neg (Bool.eq_false_iff.1 he))

end

/-! ### BESTMAX at its issue (14 R330; 15 R372, R373) -/

section
variable {s : State} {c : Ctx}

theorem bestLate_iff {gr : Group} :
    bestLate s gr = true ↔ cancelled s gr = true ∨ (s.launch gr.launch).deadline.toNat ≤ s.time.toNat := by
  rw [bestLate, Bool.or_eq_true, decide_eq_true_iff]
  rfl

/-- A release waits for no store of the cluster when each is write-combining or younger than the release (14 R330). -/
theorem drainOk_of_storeQ {g : Nat} {p : Pend}
    (h : ∀ e ∈ (s.cluster (clusterOf (s.group g).core)).storeQ, e.wc = true ∨ p.drain.getD s.nextId ≤ e.id) : drainOk s g p = true := by
  rw [drainOk, Bool.or_eq_true, Bool.not_eq_true', Bool.not_eq_true', List.any_eq_false]
  refine .inr fun e he => ?_
  obtain hwc | hid := h e he
  · simp [hwc]
  · simp [hid]

/-- The scores and data of the active lanes, in ascending order. -/
def Ctx.offers (c : Ctx) : List (Nat × Nat) := (lanesOf c.lanes).map fun l => (opA c false l, opB c false l)

theorem group_addPend (s : State) (g : Nat) (p : Pend) :
    (addPend s g p).group g = { s.group g with pend := (s.group g).pend ++ [p] } :=
  group_modGroup_same s g fun gr => { gr with pend := gr.pend ++ [p] }

/-- The BESTMAX that waits for earlier accesses of its group. -/
def bestmaxPend (c : Ctx) (s : State) : Pend := { newPend c s.nextId s with addrs := c.offers, after := earlier c.gr }

/-- With nothing outstanding before it, its steps are performed at its issue, or dropped (log 46). -/
theorem bestmaxSem_act_idle (h0 : earlier c.gr = []) (hd : drainOk s c.g (bestmaxPend c s) = true) :
    bestmaxSem.act c s =
      (if bestLate s c.gr then s else s.setLaunch c.gr.launch (bestSteps (s.launch c.gr.launch) c.offers), false) :=
  if_pos (Bool.and_eq_true_iff.2 ⟨List.isEmpty_iff.2 h0, hd⟩)

/-- Behind an access of its group it is pending. -/
theorem bestmaxSem_act_pending (h : earlier c.gr ≠ []) :
    bestmaxSem.act c s = ((addPend s.fresh.2 c.g (bestmaxPend c s)).wire (.instrComplete c.g s.nextId), true) :=
  if_neg fun hb => h (List.isEmpty_iff.1 (Bool.and_eq_true_iff.1 hb).1)

theorem afterAct_bestmax {t : State} {gr : Group} {pending : Bool} (hop : c.op = 0x349) (hgr : t.group c.g = gr) (he : gr.ended = false) :
    afterAct c bestmaxSem s (t, pending) = t.setGroup c.g (c.committed (if pending then gr else gr.decFlag c.gr.hm c.flag)) := by
  subst hgr
  refine afterAct_commits ?reads (by rw [hop]; decide) (by rw [hop]; decide) he
  case reads =>
    rw [hop]
    exact List.forall_mem_append.2 ⟨regUses_bestmax_reads c.f, List.forall_mem_nil _⟩

/-- The state after the issue of a BESTMAX with nothing outstanding before it: complete, its steps performed unless they are too late. -/
theorem afterAct_bestmax_idle (hop : c.op = 0x349) (hgr : s.group c.g = c.gr) (he : c.gr.ended = false) (h0 : earlier c.gr = [])
    (hq : ∀ e ∈ (s.cluster (clusterOf c.gr.core)).storeQ, e.wc = true ∨ s.nextId ≤ e.id) :
    afterAct c bestmaxSem s (bestmaxSem.act c s) =
      (if bestLate s c.gr then s else s.setLaunch c.gr.launch (bestSteps (s.launch c.gr.launch) c.offers)).setGroup c.g
        (c.committed (c.gr.decFlag c.gr.hm c.flag)) := by
  have hdrain : drainOk s c.g (bestmaxPend c s) = true := drainOk_of_storeQ (by rw [hgr]; exact hq)
  rw [bestmaxSem_act_idle h0 hdrain, afterAct_bestmax hop (gr := c.gr) ?group he]
  · rfl
  case group =>
    split <;> exact hgr

/-- The state after the issue of a BESTMAX behind an access of its group: pending, its completion under way. -/
theorem afterAct_bestmax_pending (hop : c.op = 0x349) (hgr : s.group c.g = c.gr) (he : c.gr.ended = false) (h : earlier c.gr ≠ []) :
    afterAct c bestmaxSem s (bestmaxSem.act c s) = { s with
      nextId := s.nextId + 1, wires := s.wires ++ [.instrComplete c.g s.nextId]
      groups := tput s.groups c.g (c.committed { c.gr with pend := c.gr.pend ++ [bestmaxPend c s] }) } := by
  have hgroup : ((addPend s.fresh.2 c.g (bestmaxPend c s)).wire (.instrComplete c.g s.nextId)).group c.g =
      { c.gr with pend := c.gr.pend ++ [bestmaxPend c s] } := by
    rw [← hgr]
    exact group_addPend s.fresh.2 c.g (bestmaxPend c s)
  rw [bestmaxSem_act_pending h, afterAct_bestmax hop hgroup he]
  simp only [addPend, modGroup_eq, State.setGroup, State.wire, State.fresh, tput_tput, if_true]

/-- The completion of a BESTMAX whose earlier accesses are performed performs its steps, or drops them (15 R373). -/
theorem bestStep_performs {g : Nat} {p : Pend} (ha : (s.group g).afterOk p = true) (hd : drainOk s g p = true) :
    bestStep s g p = finishPend (if bestLate s (s.group g) then s
      else s.modLaunch (s.group g).launch fun la => bestSteps la p.addrs) g p.id := by
  simp only [bestStep, ha, hd, Bool.not_true, Bool.false_eq_true, if_false]

end

/-- Settles O37: the issue in time, too late and behind an access, the completion, and the pair that the steps leave. -/
theorem bestmaxResult : Obligations.BestmaxResult := by
  unfold Obligations.BestmaxResult
  refine ⟨?issue, fun s g p => bestStep_performs, ?pair⟩
  case issue =>
    intro f s c m h he xs after idle late
    obtain ⟨hop, rfl⟩ := h.op_meaning rfl rfl
    rw [exec_issues h]
    refine ⟨fun ⟨h0, hq⟩ hlate => ?inTime, fun ⟨h0, hq⟩ hlate => ?tooLate, fun h0 => ⟨bestmaxPend c s, rfl, rfl, rfl, rfl, ?behind⟩⟩
    case inTime => rw [afterAct_bestmax_idle hop h.group_eq he h0 hq, if_neg (mt bestLate_iff.1 hlate)]; rfl
    case tooLate => rw [afterAct_bestmax_idle hop h.group_eq he h0 hq, if_pos (bestLate_iff.2 hlate)]; rfl
    case behind => rw [afterAct_bestmax_pending hop h.group_eq he h0]; rfl
  case pair =>
    intro la xs nl score
    obtain ⟨hla, hxs⟩ := le_bestScore_bestSteps la xs
    refine ⟨bestSteps_rest la xs, hla, hxs, fun htie => ?kept, fun a x b hsplit hbest hlt hfirst => ?first⟩
    case kept =>
      have hkept : nl = la := bestSteps_kept htie
      rw [hkept]
      exact ⟨rfl, rfl⟩
    case first =>
      subst hsplit
      exact bestData_bestSteps_first hbest hlt hfirst

end Sys2Proof.Machine
end

section
/-!
PROOF. Control flow (15 R354 to R356): what a control instruction that completes at its issue leaves, the targets of branches and the link of
a call, then O34.
-/

namespace Sys2Proof.Machine

open Sys2Proof

/-! ### Control instructions that complete at their issue -/

/-- Branches, EXIT, NOP and YIELD (0x300 to 0x306), BENROL, BJOIN and BAR. -/
def controlOps : List Nat := [0x300, 0x301, 0x302, 0x303, 0x304, 0x305, 0x306, 0x340, 0x341, 0x342]

theorem control_completes {op : Nat} (h : op ∈ controlOps) :
    ((opSpec op).getD {}).flag = .short ∧ commitsAtIssue op = false ∧ takesTag op = false := by
  have hall : ∀ op ∈ controlOps, ((opSpec op).getD {}).flag = .short ∧ commitsAtIssue op = false ∧ takesTag op = false := by decide
  exact hall op h

section
variable {i : Instr} {s t : State} {c : Ctx} {m : Meaning}

/-- The run of an issue is that of its group. -/
theorem Issues.run_eq (h : Issues i s c m) : c.gr.run = some c.r := by
  obtain ⟨-, -, hrun, -⟩ := issueCtx_eq h.ctx
  exact hrun

/-- Such an instruction leaves its effect and nothing else. -/
theorem exec_control (h : Issues i s c m) (hop : c.op ∈ controlOps) (ha : m.always = false) (hact : m.act c s = (t, false)) :
    exec i s = .next (advance c (t.setGroup c.g (t.group c.g))) := by
  obtain ⟨-, -, -, -, -, -, hsp, -⟩ := issueCtx_eq h.ctx
  obtain ⟨hflag, hcommit, htag⟩ := control_completes hop
  exact exec_modGroup h ha (hsp ▸ hflag) hcommit htag hact

/-- An effect on the group. -/
theorem exec_controlGroup {F : Group → Group} (h : Issues i s c m) (hop : c.op ∈ controlOps) (ha : m.always = false)
    (hact : m.act c s = (s.modGroup c.g F, false)) : exec i s = .next (advance c (s.setGroup c.g (F c.gr))) := by
  rw [exec_control h hop ha hact, modGroup_eq, group_setGroup_same, setGroup_setGroup, h.group_eq]

/-- An effect on the run in progress. -/
theorem exec_controlRun {f : Run → Run} (h : Issues i s c m) (hop : c.op ∈ controlOps) (ha : m.always = false)
    (hact : m.act c s = (modRun s c.g f, false)) :
    exec i s = .next (advance c (s.setGroup c.g { c.gr with run := some (f c.r) })) := by
  rw [exec_controlGroup h hop ha hact, h.run_eq]
  rfl

end

/-! ### Where lanes go (15 R354, R355) -/

/-- A table after a write at each key of a list holds what was written there. -/
theorem tfind_foldl_tput {α : Type} (dest : Nat → α) (ls : List Nat) (t : Sp α) (l : Nat) :
    tfind (ls.foldl (fun t l => tput t l (dest l)) t) l = if l ∈ ls then some (dest l) else tfind t l := by
  induction ls generalizing t with
  | nil => rfl
  | cons j r ih =>
    rw [List.foldl_cons, ih]
    by_cases hj : l = j
    · subst hj
      simp
    · simp [hj, tfind_tput_ne]

/-- The next PCs of the run's lanes, with a destination for each active lane. -/
def Ctx.moved (c : Ctx) (dest : Nat → DWord) : Sp DWord := (lanesOf c.lanes).foldl (fun n l => tput n l (dest l)) c.r.next

/-- The group with its active lanes on their way. -/
def Ctx.branched (c : Ctx) (dest : Nat → DWord) : Group := { c.gr with run := some { c.r with next := c.moved dest } }

theorem tfind_moved (c : Ctx) (dest : Nat → DWord) (l : Nat) :
    tfind (c.moved dest) l = if hasLane c.lanes l then some (dest l) else tfind c.r.next l := by
  simp only [Ctx.moved, tfind_foldl_tput, mem_lanesOf]

/-- The target of BR and CALL: the literal, or an offset in words (R354). -/
theorem brTarget_eq (c : Ctx) : brTarget c = match c.f.lit with
    | some x => x
    | none => c.pc + 4 * (c.f.e ++ c.f.c ++ c.f.b : BitVec 24).signExtend 64 := by
  unfold brTarget
  cases c.f.lit with
  | some x => exact BitVec.setWidth_eq x
  | none =>
    dsimp only
    rw [BitVec.shiftLeft_eq_mul_twoPow, BitVec.mul_comm]
    rfl

section
variable {i : Instr} {s : State} {c : Ctx} {m : Meaning}

theorem exec_br (h : Issues i s c brSem) (hop : c.op = 0x300) :
    exec i s = .next (advance c (s.setGroup c.g (c.branched fun _ => brTarget c))) :=
  exec_controlRun h (by rw [hop]; decide) rfl rfl

/-- RET and BRX. -/
theorem exec_indirect (h : Issues i s c m) (hm : c.op = 0x302 ∧ m = retSem ∨ c.op = 0x304 ∧ m = brxSem) :
    exec i s = .next (advance c (s.setGroup c.g (c.branched (indTarget c)))) := by
  obtain ⟨hop, rfl⟩ | ⟨hop, rfl⟩ := hm <;> exact exec_controlRun h (by rw [hop]; decide) rfl rfl

/-! ### The link of a call (15 R354) -/

/-- The group after a CALL: on its way, with the link in v[D], v[D+1]. -/
def Ctx.called (c : Ctx) : Group :=
  wrDest c false true (fun _ => (c.pc + BitVec.ofNat 64 (4 * c.nw)).toNat) (fun _ => false) (c.branched fun _ => brTarget c)

theorem exec_call (h : Issues i s c callSem) (hop : c.op = 0x301) : exec i s = .next (advance c (s.setGroup c.g c.called)) := by
  rw [exec_control h (by rw [hop]; decide) rfl rfl]
  simp only [setNext, modRun, modGroup_eq, group_setGroup_same, setGroup_setGroup, h.group_eq, h.run_eq]
  rfl

/-- The pair that a CALL writes is aligned. -/
theorem Issues.link_pair_ne (h : Issues i s c m) (hop : c.op = 0x301) (ha : m.always = false) :
    vNum c.regs c.f.d.toNat ≠ vNum c.regs (c.f.d.toNat + 1) := by
  obtain ⟨-, -, -, -, halign, -⟩ := fields_of_legal (h.legal ha)
  have hu : useV c.f.d 2 2 true ∈ regUses c.op c.f := by
    rw [hop]
    exact List.mem_singleton_self _
  exact vNum_pair_ne c.regs c.f.d.isLt (beq_iff_eq.1 (List.all_eq_true.1 halign _ hu))

/-- An active lane reads back the address of the next word. -/
theorem regBits_called (hpair : vNum c.regs c.f.d.toNat ≠ vNum c.regs (c.f.d.toNat + 1)) {l : Nat} (hl : hasLane c.lanes l = true) :
    regBits c.called c.regs false c.f.d.toNat true l = (c.pc + BitVec.ofNat 64 (4 * c.nw)).toNat := by
  refine (regBits_wrDest_vector c true _ _ _ (fun _ => hpair) hl).trans ?_
  exact Nat.mod_eq_of_lt (BitVec.isLt _)

/-- The link is all that a CALL writes. -/
theorem called_frame (c : Ctx) :
    c.called = { c.branched (fun _ => brTarget c) with v := c.called.v, vPois := c.called.vPois, vUe := c.called.vUe } ∧
    ∀ r l, l < 64 → hasLane c.lanes l = false ∨ (r ≠ vNum c.regs c.f.d.toNat ∧ r ≠ vNum c.regs (c.f.d.toNat + 1)) →
      c.called.getV r l = c.gr.getV r l := by
  obtain ⟨hget, -, hrest⟩ := fold_wrVec (c.branched fun _ => brTarget c) c.regs c.f.d.toNat true
    (fun _ => (c.pc + BitVec.ofNat 64 (4 * c.nw)).toNat) (fun _ => false) (lanesOf c.lanes) (fun _ h => hasLane_lt (mem_lanesOf.1 h))
    (nodup_lanesOf _)
  refine ⟨hrest, fun r l hl hout => (hget r l hl).trans ?_⟩
  obtain hinactive | ⟨hlow, hhigh⟩ := hout
  · simp only [mem_lanesOf, hinactive, Bool.false_eq_true, false_and, if_false]
    rfl
  · simp only [hlow, hhigh, and_false, if_false]
    rfl

end

/-! ### The obligation -/

/-- Settles O34: each instruction of control flow by its own next state. -/
theorem branchResults : Obligations.BranchResults := by
  unfold Obligations.BranchResults
  intro i s c m h target moves
  have hmoves (dest : Nat → DWord) : moves dest (c.moved dest) := tfind_moved c dest
  have htarget : brTarget c = target := brTarget_eq c
  refine ⟨fun hi => ?br, fun hi => ?indirect, fun hi => ?call, fun hi => ?exit, fun hi => ?nop, fun hi => ?yield⟩
  case br =>
    obtain ⟨hop, rfl⟩ : c.op = 0x300 ∧ m = brSem := by obtain ⟨f, rfl⟩ | ⟨f, rfl⟩ := hi <;> exact h.op_meaning rfl rfl
    exact ⟨_, hmoves _, htarget ▸ exec_br h hop⟩
  case indirect =>
    refine ⟨_, hmoves _, exec_indirect h ?_⟩
    obtain ⟨f, rfl⟩ | ⟨f, rfl⟩ | ⟨f, rfl⟩ | ⟨f, rfl⟩ := hi
    · exact .inl (h.op_meaning rfl rfl)
    · exact .inl (h.op_meaning rfl rfl)
    · exact .inr (h.op_meaning rfl rfl)
    · exact .inr (h.op_meaning rfl rfl)
  case call =>
    obtain ⟨hop, rfl⟩ : c.op = 0x301 ∧ m = callSem := by obtain ⟨f, rfl⟩ | ⟨f, rfl⟩ := hi <;> exact h.op_meaning rfl rfl
    obtain ⟨hrest, hkept⟩ := called_frame c
    refine ⟨c.moved fun _ => brTarget c, c.called, ?_, hrest, fun l => regBits_called (h.link_pair_ne hop rfl), hkept, exec_call h hop⟩
    rw [← htarget]
    exact hmoves _
  case exit =>
    obtain ⟨hop, rfl⟩ : c.op = 0x303 ∧ m = exitSem := by obtain ⟨f, rfl⟩ | ⟨f, rfl⟩ := hi <;> exact h.op_meaning rfl rfl
    exact exec_controlRun h (by rw [hop]; decide) rfl rfl
  case nop =>
    obtain ⟨hop, rfl⟩ : c.op = 0x305 ∧ m = nopSem := by obtain ⟨f, rfl⟩ | ⟨f, rfl⟩ := hi <;> exact h.op_meaning rfl rfl
    rw [exec_control h (by rw [hop]; decide) rfl rfl, h.group_eq]
  case yield =>
    obtain ⟨hop, rfl⟩ : c.op = 0x306 ∧ m = yieldSem := by obtain ⟨f, rfl⟩ | ⟨f, rfl⟩ := hi <;> exact h.op_meaning rfl rfl
    exact exec_controlRun h (by rw [hop]; decide) rfl rfl

end Sys2Proof.Machine
end

section
/-!
PROOF. Join barriers (15 R357) and hardware barriers (15 R360 to R362): BENROL and BJOIN, then O35; the comparison of phases, BAR.PH and
BAR.WAIT, then O36.
-/

namespace Sys2Proof.Machine

open Sys2Proof

/-! ### Join barriers (15 R357) -/

section
variable {i : Instr} {s : State} {c : Ctx} {m : Meaning}

/-- BENROL and BJOIN name one of the eight join barriers. -/
theorem Issues.joinNumber_lt (h : Issues i s c m) (hop : c.op = 0x340 ∨ c.op = 0x341) (ha : m.always = false) : c.f.c.toNat < 8 := by
  obtain ⟨sp, -, hfields, -⟩ := fields_of_legal (h.legal ha)
  have hextra : fieldsExtra c.op c.f = true := by
    rw [fieldsOk, Bool.and_eq_true] at hfields
    exact hfields.2
  obtain hop | hop := hop <;> rw [hop] at hextra <;> exact of_decide_eq_true hextra

/-- The active lanes that are members of the barrier that BJOIN names. -/
def Ctx.joining (c : Ctx) : Lanes := c.lanes &&& (c.gr.jb.getD c.f.c.toNat { m := 0, a := 0 }).m

/-- The join barriers after a BJOIN. -/
def Ctx.joined (c : Ctx) : List JoinBar := modAt c.gr.jb c.f.c.toNat fun b => { b with a := b.a ||| c.joining }

/-- The waits of the run after a BJOIN. -/
def Ctx.joinWaits (c : Ctx) : List (Wait × Lanes) :=
  if c.joining = 0 then c.r.waits else c.r.waits ++ [(.join c.f.c.toNat, c.joining)]

theorem exec_benrol (h : Issues i s c benrolSem) (hop : c.op = 0x340) :
    exec i s = .next (advance c (s.setGroup c.g
      { c.gr with jb := modAt c.gr.jb c.f.c.toNat fun b => { b with m := b.m ||| c.lanes } })) :=
  exec_controlGroup h (by rw [hop]; decide) rfl rfl

theorem exec_bjoin (h : Issues i s c bjoinSem) (hop : c.op = 0x341) :
    exec i s = .next (advance c (s.setGroup c.g { c.gr with jb := c.joined, run := some { c.r with waits := c.joinWaits } })) := by
  have hact : bjoinSem.act c s = (if c.joining == 0 then s.setGroup c.g { c.gr with jb := c.joined }
      else modRun (s.setGroup c.g { c.gr with jb := c.joined }) c.g fun r =>
        { r with waits := r.waits ++ [(.join c.f.c.toNat, c.joining)] }, false) := by
    simp only [bjoinSem, modGroup_eq, h.group_eq]
    rfl
  rw [exec_control h (by rw [hop]; decide) rfl hact]
  by_cases hnone : c.joining = 0
  · simp only [Ctx.joinWaits, hnone, beq_self_eq_true, if_true, group_setGroup_same, setGroup_setGroup, ← h.run_eq]
  · simp only [Ctx.joinWaits, beq_eq_false_iff_ne.2 hnone, hnone, Bool.false_eq_true, if_false, modRun, modGroup_eq, group_setGroup_same,
      setGroup_setGroup, h.run_eq, Option.map_some]

end

/-- Settles O35: BENROL and BJOIN change the named barrier alone. -/
theorem joinBarrierResults : Obligations.JoinBarrierResults := by
  unfold Obligations.JoinBarrierResults
  intro i s c m h hlen k b
  refine ⟨fun ⟨f, hi⟩ => ?benrol, fun ⟨f, hi⟩ => ?bjoin⟩ <;> subst hi
  case benrol =>
    obtain ⟨hop, rfl⟩ := h.op_meaning rfl rfl
    have hk : k < c.gr.jb.length := hlen ▸ h.joinNumber_lt (.inl hop) rfl
    exact ⟨_, exec_benrol h hop, (length_modAt _ _ _).trans hlen, getD_modAt_same _ _ hk, fun j => getD_modAt_ne _ _⟩
  case bjoin =>
    obtain ⟨hop, rfl⟩ := h.op_meaning rfl rfl
    have hk : k < c.gr.jb.length := hlen ▸ h.joinNumber_lt (.inr hop) rfl
    exact ⟨c.joined, c.joinWaits, exec_bjoin h hop, getD_modAt_same _ _ hk, fun j => getD_modAt_ne _ _, rfl⟩

/-! ### Phases (15 R360) -/

/-- One of the last 2^31 phases before the count is complete. -/
theorem phaseComplete_before {k q : Nat} (hlt : q < k) (hk : k ≤ q + 2 ^ 31) : phaseComplete k (BitVec.ofNat 32 q) = true := by
  rw [phaseComplete, decide_eq_true_iff]
  bv_omega

/-- One of the 2^31 phases from the count on is not. -/
theorem phaseComplete_after {k q : Nat} (hle : k ≤ q) (hq : q < k + 2 ^ 31) : phaseComplete k (BitVec.ofNat 32 q) = false := by
  rw [phaseComplete, decide_eq_false_iff_not]
  bv_omega

/-! ### BAR.PH and BAR.WAIT (15 R361, R362) -/

/-- The barrier that a BAR names. -/
def barOf (c : Ctx) (s : State) : BarRef := barRef c.gr (s.block c.gr.block) (c.f.modBits 3 2) c.f.c.toNat

section
variable {i : Instr} {s : State} {c : Ctx}

theorem exec_barPh (h : Issues i s c barSem) (hop : c.op = 0x342) (hmode : c.f.modBits 1 0 = 3) :
    exec i s = .next (advance c (s.setGroup c.g
      (c.gr.wrS c.f.d.toNat (BitVec.ofNat 64 ((getBar s (barOf c s)).k % 2 ^ 32)) false))) :=
  exec_controlGroup (F := fun gr => gr.wrS c.f.d.toNat (BitVec.ofNat 64 ((getBar s (barOf c s)).k % 2 ^ 32)) false) h
    (by rw [hop]; decide) rfl (by simp only [barSem, hmode]; rfl)

/-- A WAIT for a phase that is not complete adds a wait to the run. -/
theorem exec_barWait_incomplete (h : Issues i s c barSem) (hop : c.op = 0x342) (hmode : c.f.modBits 1 0 = 1)
    (hphase : phaseComplete (getBar s (barOf c s)).k ((c.gr.getS c.f.a.toNat).setWidth 32) = false) :
    exec i s = .next (advance c (s.setGroup c.g { c.gr with run := some { c.r with
      waits := c.r.waits ++ [(.phase (barOf c s) ((c.gr.getS c.f.a.toNat).setWidth 32) 0 false, c.entry)] } })) := by
  have hact : barSem.act c s = (waitPhase s c (barOf c s) ((c.gr.getS c.f.a.toNat).setWidth 32), false) := by
    simp only [barSem, hmode]
    exact if_neg (Bool.eq_false_iff.1 hphase)
  exact exec_controlRun h (by rw [hop]; decide) rfl hact

/-- A WAIT for a complete phase is passed at its issue (04 R82; 05 R109). -/
theorem exec_barWait_complete (h : Issues i s c barSem) (hop : c.op = 0x342) (hmode : c.f.modBits 1 0 = 1)
    (hphase : phaseComplete (getBar s (barOf c s)).k ((c.gr.getS c.f.a.toNat).setWidth 32) = true) :
    exec i s = .next (advance c ((guardDrop s (clusterOf c.gr.core) (getBar s (barOf c s)).guards).modGroup c.g fun gr => gr.nextIv 1)) := by
  have hact : barSem.act c s =
      ((guardDrop s (clusterOf c.gr.core) (getBar s (barOf c s)).guards).modGroup c.g fun gr => gr.nextIv 1, false) := by
    simp only [barSem, hmode]
    exact if_pos hphase
  rw [exec_control h (by rw [hop]; decide) rfl hact, modGroup_eq, group_setGroup_same, setGroup_setGroup]

end

/-- Settles O36: the comparison on both sides of the count, then BAR.PH, and BAR.WAIT as its phase is complete or not. -/
theorem barrierPhases : Obligations.BarrierPhases := by
  unfold Obligations.BarrierPhases
  refine ⟨fun k q => phaseComplete_before, fun k q => phaseComplete_after, ?_⟩
  intro f s c m h b
  obtain ⟨hop, rfl⟩ := h.op_meaning rfl rfl
  exact ⟨exec_barPh h hop, fun hmode => ⟨exec_barWait_incomplete h hop hmode, exec_barWait_complete h hop hmode⟩⟩

end Sys2Proof.Machine
end

section
/-!
PROOF. Semaphores (15 R364): what the drop of guard ranges leaves alone (04 R82), what SEMP leaves, then O38.
-/

namespace Sys2Proof.Machine

open Sys2Proof

/-! ### Cache maintenance touches no group and no block (04 R80, R82) -/

/-- Two states have the same groups and the same blocks. -/
structure SameThreads (s t : State) : Prop where
  groups : t.groups = s.groups
  blocks : t.blocks = s.blocks

section
variable {s t u : State}

theorem SameThreads.refl (s : State) : SameThreads s s := ⟨rfl, rfl⟩

theorem SameThreads.trans (h : SameThreads s t) (k : SameThreads t u) : SameThreads s u :=
  ⟨k.groups.trans h.groups, k.blocks.trans h.blocks⟩

theorem SameThreads.foldl {α : Type} {f : State → α → State} (hf : ∀ s x, SameThreads s (f s x)) (xs : List α) (s : State) :
    SameThreads s (xs.foldl f s) := by
  induction xs generalizing s with
  | nil => exact .refl s
  | cons x r ih => exact (hf s x).trans (ih _)

theorem SameThreads.group (h : SameThreads s t) (g : Nat) : t.group g = s.group g := by
  simp only [State.group, h.groups]

theorem SameThreads.getSem (h : SameThreads s t) (b k : Nat) : getSem t b k = getSem s b k := by
  simp only [Machine.getSem, State.block, h.blocks]

end

theorem modCluster_sameThreads (s : State) (c : Nat) (f : Cluster → Cluster) : SameThreads s (s.modCluster c f) := ⟨rfl, rfl⟩

theorem wbUe_sameThreads (s : State) (frame : Nat) (m : BitVec 32) : SameThreads s (wbUe s frame m) := by
  refine .foldl (fun s j => ?_) _ s
  split
  · exact ⟨rfl, rfl⟩
  · exact .refl s

theorem sendWb_sameThreads (s : State) (c frame : Nat) (m : BitVec 32) : SameThreads s (sendWb s c frame m) := by
  unfold sendWb
  split <;> exact ⟨rfl, rfl⟩

theorem evWb_sameThreads (s : State) (c frame : Nat) (mask : BitVec 32) (keep : Bool) : SameThreads s (evWb c frame mask keep s) := by
  unfold evWb
  extract_lets held t
  have ht : SameThreads s t := ⟨rfl, rfl⟩
  split
  · exact ht.trans ⟨rfl, rfl⟩
  · exact ht

theorem dropFrom_sameThreads (s : State) (c key : Nat) (m : BitVec 32) : SameThreads s (dropFrom s c key m) := by
  unfold dropFrom
  split
  · exact .refl s
  · exact (modCluster_sameThreads ..).trans ((wbUe_sameThreads ..).trans (sendWb_sameThreads ..))

theorem cleanSlot_sameThreads (s : State) (c key : Nat) (m : BitVec 32) : SameThreads s (cleanSlot s c key m) := by
  unfold cleanSlot
  split
  · exact .refl s
  · dsimp only
    split
    · exact .refl s
    · exact (wbUe_sameThreads ..).trans ((modCluster_sameThreads ..).trans (evWb_sameThreads ..))

theorem maintain_sameThreads (s : State) (c : Nat) (sel : CSlot → BitVec 32) (gone : Nat → Bool) :
    SameThreads s (maintain s c sel gone) := by
  refine .foldl (fun s e => ?_) _ s
  extract_lets m t
  have ht : SameThreads s t := cleanSlot_sameThreads s c e.1 m
  split
  · exact .refl s
  · split
    · exact ht
    · dsimp only
      split
      · exact ht
      · exact ht.trans (dropFrom_sameThreads ..)

/-- The drop of guard ranges is cache maintenance. -/
theorem guardDrop_sameThreads (s : State) (c : Nat) (gs : Sp GuardRange) : SameThreads s (guardDrop s c gs) :=
  .foldl (fun s _ => maintain_sameThreads s c _ _) gs s

/-! ### SEMP (15 R364) -/

theorem getSem_modSem (s : State) (b k : Nat) (f : Sem → Sem) : getSem (modSem s b k f) b k = f (getSem s b k) := by
  simp only [getSem, modSem, State.modBlock, block_setBlock_same, tmod, tget_tput_same]

@[simp] theorem group_modSem (s : State) (b k g : Nat) (f : Sem → Sem) : (modSem s b k f).group g = s.group g := rfl

@[simp] theorem getSem_modGroup (s : State) (b k g : Nat) (f : Group → Group) : getSem (s.modGroup g f) b k = getSem s b k := rfl

@[simp] theorem getSem_modRun (s : State) (b k g : Nat) (f : Run → Run) : getSem (modRun s g f) b k = getSem s b k := rfl

section
variable (c : Ctx) (s : State)

/-- The state after a SEMP that takes a token. -/
def sempTaken : State :=
  (guardDrop (modSem s c.gr.block c.f.c.toNat Sem.take) (clusterOf c.gr.core) (getSem s c.gr.block c.f.c.toNat).guards).modGroup c.g
    fun gr => gr.nextIv 1

/-- The state after a SEMP whose entry waits. -/
def sempWaiting : State :=
  modRun (modSem s c.gr.block c.f.c.toNat fun m => { m with waiting := m.waiting ++ [(c.g, c.entry)] }) c.g fun r =>
    { r with waits := r.waits ++ [(.sem c.f.c.toNat 0, c.entry)] }

theorem sempSem_act_taken (hcount : (getSem s c.gr.block c.f.c.toNat).count ≠ 0) (hwaiting : (getSem s c.gr.block c.f.c.toNat).waiting = []) :
    (sempSem.act c s).1 = sempTaken c s := by
  simp [sempSem, hcount, hwaiting, sempTaken]

theorem sempSem_act_waiting (h : (getSem s c.gr.block c.f.c.toNat).count = 0 ∨ (getSem s c.gr.block c.f.c.toNat).waiting ≠ []) :
    (sempSem.act c s).1 = sempWaiting c s := by
  have hnot : ((getSem s c.gr.block c.f.c.toNat).count ≠ 0 && (getSem s c.gr.block c.f.c.toNat).waiting.isEmpty) = false := by
    obtain hcount | hwaiting := h
    · simp [hcount]
    · simp [hwaiting]
  exact congrArg Prod.fst (if_neg (Bool.eq_false_iff.1 hnot))

theorem getSem_sempTaken : getSem (sempTaken c s) c.gr.block c.f.c.toNat = (getSem s c.gr.block c.f.c.toNat).take := by
  rw [sempTaken, getSem_modGroup, (guardDrop_sameThreads ..).getSem, getSem_modSem]

theorem group_sempTaken : (sempTaken c s).group c.g = (s.group c.g).nextIv 1 := by
  rw [sempTaken, group_modGroup_same, (guardDrop_sameThreads ..).group, group_modSem]

theorem getSem_sempWaiting : getSem (sempWaiting c s) c.gr.block c.f.c.toNat =
    { getSem s c.gr.block c.f.c.toNat with waiting := (getSem s c.gr.block c.f.c.toNat).waiting ++ [(c.g, c.entry)] } := by
  rw [sempWaiting, getSem_modRun, getSem_modSem]

theorem run_sempWaiting : ((sempWaiting c s).group c.g).run =
    (s.group c.g).run.map fun r => { r with waits := r.waits ++ [(.sem c.f.c.toNat 0, c.entry)] } := by
  rw [sempWaiting, modRun, group_modGroup_same, group_modSem]

end

/-- Settles O38, from the semaphore and the group in each of the two states that a SEMP leaves. -/
theorem semaphoreTakesATokenOrWaits : Obligations.SemaphoreTakesATokenOrWaits := by
  unfold Obligations.SemaphoreTakesATokenOrWaits
  intro f s c m h k sem t
  obtain ⟨-, rfl⟩ := h.op_meaning rfl rfl
  have hrun : (s.group c.g).run = some c.r := h.group_eq ▸ h.run_eq
  refine ⟨exec_issues h, fun hcount hwaiting => ?taken, fun hwait => ?waiting⟩
  case taken =>
    have ht : t = sempTaken c s := sempSem_act_taken c s hcount hwaiting
    rw [ht, getSem_sempTaken, group_sempTaken]
    exact ⟨rfl, hwaiting, hrun⟩
  case waiting =>
    have ht : t = sempWaiting c s := sempSem_act_waiting c s hwait
    rw [ht, getSem_sempWaiting, run_sempWaiting, hrun]
    exact ⟨rfl, rfl, rfl⟩

end Sys2Proof.Machine
end

section
/-!
PROOF. The machine goes on from every state (17 R397, R405): every row of an agent has its step, and every instruction and header that a turn
brings to its issue has a run to issue in; then O13 and O8.
-/

namespace Sys2Proof.Machine

open Sys2Proof

/-! ### Steps of agents -/

theorem parts_none_of_isEvent {i : Instr} (h : isEvent i = true) : i.parts = none := by
  unfold isEvent at h
  split at h
  · cases h
  · exact Option.isNone_iff_eq_none.1 h

/-- What is neither a header nor an instruction is a row of an agent. -/
theorem eventOf_of_isEvent {i : Instr} (h : isEvent i = true) : ∃ F, eventOf i = some F := by
  obtain ⟨r, rfl⟩ | hparts | hevent := parts_or_event i
  · cases h
  · rw [parts_none_of_isEvent h] at hparts
    cases hparts
  · exact Option.isSome_iff_exists.1 hevent

/-- Settles O13. -/
theorem everyEventHasItsEffect : Obligations.EveryEventHasItsEffect := by
  unfold Obligations.EveryEventHasItsEffect
  intro i s h
  obtain ⟨F, hF⟩ := eventOf_of_isEvent h
  exact ⟨F, hF, exec_of_event i s hF⟩

/-! ### Issues in a run -/

section
variable {s : State} {r : Run}

/-- A group whose run has issued gives an instruction its context. -/
theorem issueCtx_of_run (op : Nat) (f : EForm) (hr : (s.group s.cur).run = some r) (hi : r.issued = true) :
    ∃ c, issueCtx s op f = some c := by
  simp only [issueCtx, hr, hi, Bool.not_true, Bool.false_eq_true, if_false]
  exact ⟨_, rfl⟩

/-- With a context, each branch of the issue answers a next state. -/
theorem issue_next {op : Nat} {f : EForm} {c : Ctx} (m : Meaning) (hc : issueCtx s op f = some c) : ∃ t, issue op f m s = .next t := by
  simp only [issue, hc]
  split
  case isTrue =>
    split
    · exact ⟨_, rfl⟩
    · split
      · exact ⟨_, rfl⟩
      · split <;> exact ⟨_, rfl⟩
  case isFalse =>
    split
    · exact ⟨_, rfl⟩
    · split
      · exact ⟨_, rfl⟩
      · split
        · exact ⟨_, rfl⟩
        · split <;> exact ⟨_, rfl⟩

/-- An instruction or an agent's row is carried out when the current group's run has issued. -/
theorem exec_next {i : Instr} (hi : ∀ h, i ≠ .run h) (hr : (s.group s.cur).run = some r) (hissued : r.issued = true) :
    ∃ t, exec i s = .next t := by
  obtain ⟨h, rfl⟩ | hparts | hevent := parts_or_event i
  · exact absurd rfl (hi h)
  · obtain ⟨⟨op, f⟩, hp⟩ := Option.isSome_iff_exists.1 hparts
    obtain ⟨m, -, hexec⟩ := exec_of_parts i s hp
    obtain ⟨c, hc⟩ := issueCtx_of_run op f hr hissued
    rw [hexec]
    exact issue_next m hc
  · obtain ⟨F, hF⟩ := Option.isSome_iff_exists.1 hevent
    exact ⟨F s, exec_of_event i s hF⟩

/-- A run header is carried out when the current group's run has not issued: it traps, waits or issues. -/
theorem exec_run_next (h : HForm) (hr : (s.group s.cur).run = some r) (hissued : r.issued = false) : ∃ t, exec (.run h) s = .next t := by
  have hexec : exec (.run h) s = issueRun h s := rfl
  simp only [hexec, issueRun, hr, hissued, Bool.false_eq_true, if_false]
  split
  · exact ⟨_, rfl⟩
  · split
    · exact ⟨_, rfl⟩
    · exact ⟨_, rfl⟩
    · split <;> exact ⟨_, rfl⟩

end

/-! ### The next step -/

/-- A group's turn that goes on with its run. -/
theorem issueNext_running {s : State} {g : Nat} {r : Run} (hr : ((s.turn g).group g).run = some r) : ∃ t, issueNext s g = .next t := by
  simp only [issueNext, hr]
  split
  · exact ⟨_, rfl⟩
  · split
    case isTrue hnew => exact exec_run_next r.h hr (by simpa using hnew)
    case isFalse hissued =>
      split
      · exact ⟨_, rfl⟩
      · split
        · exact ⟨_, rfl⟩
        · next hnotRun _ => exact exec_next hnotRun hr (by simpa using hissued)
        · exact ⟨_, rfl⟩

/-- A group's turn without a run: it begins the run of an entry, traps at its header, or waits. -/
theorem issueNext_idle {s : State} {g : Nat} (hr : ((s.turn g).group g).run = none) : ∃ t, issueNext s g = .next t := by
  simp only [issueNext, hr]
  split
  · exact ⟨_, rfl⟩
  · split
    · exact ⟨_, rfl⟩
    · split
      · exact ⟨_, rfl⟩
      · split
        · exact ⟨_, rfl⟩
        · exact exec_run_next _ (congrArg Group.run (group_modGroup_same (s.turn g) g _)) rfl

theorem issueNext_next (s : State) (g : Nat) : ∃ t, issueNext s g = .next t := by
  cases hr : ((s.turn g).group g).run with
  | none => exact issueNext_idle hr
  | some r => exact issueNext_running hr

theorem runDue_next (d : Due) (s : State) : ∃ t, runDue s d = .next t := by
  cases d with
  | event i =>
    simp only [runDue]
    split
    · next hi =>
      obtain ⟨F, -, hexec⟩ := everyEventHasItsEffect i (unstall s) hi
      exact ⟨_, hexec⟩
    · exact ⟨_, rfl⟩
  | wire n => exact ⟨_, rfl⟩
  | issue g => exact issueNext_next s g
  | tick ns => exact ⟨_, rfl⟩

/-- Settles O8: a given step is carried out, and so is the one that is chosen when none is given. -/
theorem everyStepHasANextState : Obligations.EveryStepHasANextState := by
  unfold Obligations.EveryStepHasANextState
  intro s
  simp only [step, nextStep]
  split
  · exact runDue_next _ _
  · split
    · exact ⟨_, rfl⟩
    · split
      · exact issueNext_next _ _
      · split
        · exact issueNext_next _ _
        · exact ⟨_, rfl⟩
      · exact ⟨_, rfl⟩
      · exact ⟨_, rfl⟩

end Sys2Proof.Machine
end

section
/-!
PROOF. The state after reset (16 R383, R395; 22 R474; logs 1, 2 and 12) and the registers of the management port (22 R474): O58 and O56.
-/

namespace Sys2Proof.Machine

open Sys2Proof

/-- Settles O58: the tables are empty, so that every core and every register of the window reads as reset leaves it. -/
theorem resetValues : Obligations.ResetValues := by
  unfold Obligations.ResetValues
  exact ⟨rfl, rfl, rfl, rfl, rfl, rfl, rfl, rfl, rfl, rfl, rfl, fun _ => rfl, rfl, rfl, fun _ => rfl, memOk_reset⟩

/-- A write of PLIM below, above and within its range. -/
theorem toNat_clampedPlim (v : BitVec 16) :
    (BitVec.ofNat 16 (min 320 (max 180 v.toNat))).toNat = if v.toNat < 180 then 180 else if 320 < v.toNat then 320 else v.toNat := by
  have hfits : min 320 (max 180 v.toNat) < 2 ^ 16 := by omega
  rw [BitVec.toNat_ofNat, Nat.mod_eq_of_lt hfits]
  split
  · omega
  · split <;> omega

/-- Settles O56. -/
theorem managementRegisterWrites : Obligations.ManagementRegisterWrites := by
  unfold Obligations.ManagementRegisterWrites
  intro s v a
  refine ⟨⟨_, rfl, toNat_clampedPlim v⟩, ⟨_, rfl, fun j hj => ?cleared⟩, rfl⟩
  case cleared => simp only [BitVec.getLsbD_and, BitVec.getLsbD_not, hj, decide_true, Bool.true_and]

end Sys2Proof.Machine
end

section
/-!
PROOF. The least element that `minBy` finds, and with it the primary cause of a cause vector and each lane's own cause (17 R398); then O43.
-/

namespace Sys2Proof.Machine

open Sys2Proof

/-! ### The least element -/

section
variable {α β : Type} [LinearOrder β] {key : α → β} {lt : α → α → Bool} {xs : List α} {x : α}

/-- The element carried through a list is the one before it or one of the list, and its key is at most that of each. -/
theorem foldl_least (hlt : ∀ a b, lt a b = true ↔ key a < key b) (xs : List α) (a : α) :
    let x := xs.foldl (fun a b => if lt b a then b else a) a
    x ∈ a :: xs ∧ ∀ y ∈ a :: xs, key x ≤ key y := by
  induction xs generalizing a with
  | nil => simp
  | cons b r ih =>
    obtain ⟨hmem, hle⟩ := ih (if lt b a then b else a)
    rw [List.foldl_cons]
    have hcarried : (if lt b a then b else a) ∈ [a, b] ∧ ∀ y ∈ [a, b], key (if lt b a then b else a) ≤ key y := by
      split
      · next h => simpa using ((hlt b a).1 h).le
      · next h => simpa using le_of_not_gt fun hk => h ((hlt b a).2 hk)
    refine ⟨?_, fun y hy => ?_⟩
    · rcases List.mem_cons.1 hmem with h | h
      · rw [h]
        exact List.mem_append_left r hcarried.1
      · exact List.mem_append_right [a, b] h
    · rcases List.mem_append.1 (show y ∈ [a, b] ++ r from hy) with h | h
      · exact (hle _ List.mem_cons_self).trans (hcarried.2 y h)
      · exact hle y (List.mem_cons_of_mem _ h)

theorem minBy_least (hlt : ∀ a b, lt a b = true ↔ key a < key b) (h : minBy lt xs = some x) : x ∈ xs ∧ ∀ y ∈ xs, key x ≤ key y := by
  cases xs with
  | nil => cases h
  | cons a r =>
    cases h
    exact foldl_least hlt r a

theorem minBy_eq_none (h : minBy lt xs = none) : xs = [] := by
  cases xs with
  | nil => rfl
  | cons a r => cases h

end

/-! ### Cause vectors (17 R398) -/

/-- Causes by their position, and lanes of one cause by their number. -/
def LaneCause.rank (k : LaneCause) : ℕ ×ₗ ℕ := toLex (k.cause, k.lane)

theorem rank_lt_iff (a b : LaneCause) :
    (decide (a.cause < b.cause) || (a.cause == b.cause && decide (a.lane < b.lane))) = true ↔ a.rank < b.rank := by
  simp [LaneCause.rank, Prod.Lex.toLex_lt_toLex]

theorem rank_le_iff (a b : LaneCause) : a.rank ≤ b.rank ↔ a.cause < b.cause ∨ a.cause = b.cause ∧ a.lane ≤ b.lane := by
  simp [LaneCause.rank, Prod.Lex.toLex_le_toLex]

/-- The primary cause of a vector that is not empty is that of an element of least rank. -/
theorem primary_least {cs : List LaneCause} (h : cs ≠ []) : ∃ k ∈ cs, primary cs = (k.cause, k.sub) ∧ ∀ j ∈ cs, k.rank ≤ j.rank := by
  unfold primary
  split
  · next k hk =>
    obtain ⟨hmem, hle⟩ := minBy_least rank_lt_iff hk
    exact ⟨k, hmem, rfl, hle⟩
  · next hnone => exact absurd (minBy_eq_none hnone) h

/-- A lane without a cause holds none; another holds the lowest of those it raised. -/
theorem laneCause_least (cs : List LaneCause) (l : Nat) :
    ((∀ k ∈ cs, k.lane ≠ l) ∧ (laneCause cs l).cause = 0) ∨
    (laneCause cs l ∈ cs ∧ (laneCause cs l).lane = l ∧ ∀ k ∈ cs, k.lane = l → (laneCause cs l).cause ≤ k.cause) := by
  unfold laneCause
  split
  · next k hk =>
    obtain ⟨hmem, hle⟩ := minBy_least (key := LaneCause.cause) (fun _ _ => decide_eq_true_iff) hk
    obtain ⟨hk, hlane⟩ := List.mem_filter.1 hmem
    exact .inr ⟨hk, eq_of_beq hlane, fun j hj hjl => hle j (List.mem_filter.2 ⟨hj, beq_iff_eq.2 hjl⟩)⟩
  · next hnone =>
    have hempty := List.filter_eq_nil_iff.1 (minBy_eq_none hnone)
    exact .inl ⟨fun k hk hl => hempty k hk (beq_iff_eq.2 hl), rfl⟩

/-- Settles O43, from the elements of least rank and of least cause. -/
theorem primaryCauseOfAVector : Obligations.PrimaryCauseOfAVector := by
  unfold Obligations.PrimaryCauseOfAVector
  intro cs
  refine ⟨fun j hj => ?least, fun hne => ?lowestLane, fun l hnone => ?without, fun l hsome => ?own⟩
  case least =>
    obtain ⟨k, -, hk, hle⟩ := primary_least (List.ne_nil_of_mem hj)
    rw [hk]
    obtain h | ⟨h, -⟩ := (rank_le_iff k j).1 (hle j hj)
    · exact h.le
    · exact h.le
  case lowestLane =>
    obtain ⟨k, hmem, hk, hle⟩ := primary_least hne
    refine ⟨k, hmem, hk, fun j hj hjk => ?_⟩
    obtain h | ⟨-, h⟩ := (rank_le_iff k j).1 (hle j hj)
    · exact absurd hjk h.ne'
    · exact h
  case without =>
    obtain ⟨-, h⟩ | ⟨hmem, hlane, -⟩ := laneCause_least cs l
    · exact h
    · exact absurd hlane (hnone _ hmem)
  case own =>
    obtain ⟨k, hk, hl⟩ := hsome
    obtain ⟨hnone, -⟩ | h := laneCause_least cs l
    · exact absurd hl (hnone k hk)
    · exact h

end Sys2Proof.Machine
end

section
/-!
PROOF. Traps at issue (17 R399, R405, R419) and the instructions of the system (17 R420, R423, R425): O11, then TRAP and BKPT, whose causes
are those of their own check; then O42 and O41.
-/

namespace Sys2Proof.Machine

open Sys2Proof

variable {i : Instr} {op : Nat} {f : EForm} {s : State} {c : Ctx} {m : Meaning}

/-- Settles O11: with a cause and nothing before it to wait for, the instruction takes its precise trap. -/
theorem issueFaultsAreTakenPrecisely : Obligations.IssueFaultsAreTakenPrecisely := by
  unfold Obligations.IssueFaultsAreTakenPrecisely
  intro i s c m hp hm hc hcs hrb hrp heng
  rw [exec_eq_issue hp hm, issue_traps hc hcs hrb hrp heng]

/-! ### TRAP and BKPT (17 R419) -/

theorem lanesOf_ne_nil {ls : Lanes} (h : ls ≠ 0) : lanesOf ls ≠ [] := by
  obtain ⟨l, hl⟩ := exists_lane h
  exact List.ne_nil_of_mem (mem_lanesOf.2 hl)

/-- An instruction with an active lane and no common cause is legal. -/
theorem legal_of_commonCauses (hc : issueCtx s op f = some c) (hl : c.lanes ≠ 0) (h : commonCauses c m s = []) :
    illegalSub c.op c.f c.regs c.flag.isSome = none := by
  unfold commonCauses at h
  split at h
  · obtain ⟨l, hl⟩ := exists_lane hl
    have hentry := List.map_eq_nil_iff.1 h
    exact absurd hentry (List.ne_nil_of_mem (mem_lanesOf.2 (active_entry hc hl)))
  · assumption

/-- The causes of an instruction of lanes that every instruction's checks let pass, and that looks for no others, are those of its own check. -/
theorem issueCauses_eq_check (hc : issueCtx s op f = some c) (hl : c.lanes ≠ 0) (h : commonCauses c m s = []) (hg : c.sp.group = false)
    (ho : ∀ ls, m.others c s ls = []) : issueCauses c m s = m.check c s := by
  have hactive : (c.lanes == 0) = false := beq_eq_false_iff_ne.2 hl
  have hstage : stageCauses c m s = m.check c s := by
    simp only [stageCauses, h, hactive, groupPois_of_lanes hg, Bool.false_and, Bool.false_eq_true, if_false, List.isEmpty_nil, if_true,
      List.nil_append]
  simp only [issueCauses, legal_of_commonCauses hc hl h, hstage, ho, List.append_nil]
  split
  · next hempty => exact (List.isEmpty_iff.1 hempty).symm
  · rfl

/-- A vector without ACC_FIRST_USE names no accumulator tile. -/
theorem atileOf_eq_none {cs : List LaneCause} (h : ∀ k ∈ cs, k.cause ≠ 15) : atileOf cs = none := by
  unfold atileOf
  split
  · next k hk =>
    obtain ⟨hmem, -⟩ := minBy_least (key := LaneCause.cause) (fun _ _ => decide_eq_true_iff) hk
    exact if_neg (by simpa using h k hmem)
  · rfl

theorem cause_of_mem_onLanes {ls : Lanes} {cause sub : Nat} {k : LaneCause} (h : k ∈ onLanes ls cause sub) : k.cause = cause := by
  obtain ⟨l, -, rfl⟩ := List.mem_map.1 h
  rfl

/-- An instruction whose causes are one cause on its active lanes traps with it, unless the cause carries a tile. -/
theorem issue_traps_onLanes {cause sub : Nat} (hc : issueCtx s op f = some c) (hl : c.lanes ≠ 0) (hrb : rollsBack c.gr c.entry = false)
    (hrp : c.gr.regPending c.entry = false) (heng : m.engine c s = none) (hnotes : m.notes c s = s) (htile : cause ≠ 15)
    (hcs : issueCauses c m s = onLanes c.lanes cause sub) : issue op f m s = .next (trapPrecise c (onLanes c.lanes cause sub) none s) := by
  have hne : issueCauses c m s ≠ [] := by
    rw [hcs]
    exact fun h => lanesOf_ne_nil hl (List.map_eq_nil_iff.1 h)
  have hatile : atileOf (onLanes c.lanes cause sub) = none := atileOf_eq_none fun k hk => cause_of_mem_onLanes hk ▸ htile
  rw [issue_traps hc hne hrb hrp heng, hnotes, ite_self, hcs, hatile]

/-- An instruction at which the debug agent stops the group stops it (18 R427). -/
theorem issue_stops (hc : issueCtx s op f = some c) (hcs : issueCauses c m s = []) (hl : c.lanes ≠ 0) (hrb : rollsBack c.gr c.entry = false)
    (hh : m.halts c s = true) : issue op f m s = .next (stopAt c (m.notes c s)) := by
  have hactive : (c.lanes == 0) = false := beq_eq_false_iff_ne.2 hl
  simp only [issue, hc, hcs, hactive, hrb, hh, List.isEmpty_nil, Bool.not_true, Bool.false_and, Bool.false_eq_true, if_false, if_true]

/-- Settles O42: the causes of TRAP and of BKPT are those of their own checks, and BKPT has none where the agent stops the group. -/
theorem trapAndBreakpointEffects : Obligations.TrapAndBreakpointEffects := by
  unfold Obligations.TrapAndBreakpointEffects
  intro f s c hc hl hrb hrp
  obtain ⟨-, -, -, -, -, -, hsp, -⟩ := issueCtx_eq hc
  refine ⟨fun hp hcommon => ?trap, fun hp hcommon => ?bkpt⟩
  case trap =>
    have hop : c.op = 0x370 := (congrArg Prod.fst (Option.some.inj hp)).symm
    rw [exec_eq_issue hp rfl]
    exact issue_traps_onLanes hc hl hrb hrp rfl rfl (by decide)
      (issueCauses_eq_check hc hl hcommon (by rw [hsp, hop]; rfl) fun _ => rfl)
  case bkpt =>
    have hop : c.op = 0x375 := (congrArg Prod.fst (Option.some.inj hp)).symm
    have hcauses : issueCauses c bkptSem s = bkptSem.check c s :=
      issueCauses_eq_check hc hl hcommon (by rw [hsp, hop]; rfl) fun _ => rfl
    rw [exec_eq_issue hp rfl]
    refine ⟨fun hoff => ?_, fun hon => ?_⟩
    · exact issue_traps_onLanes hc hl hrb hrp rfl rfl (by decide) (hcauses.trans (if_neg (Bool.eq_false_iff.1 hoff)))
    · exact issue_stops hc (hcauses.trans (if_pos hon)) hl hrb hon

/-! ### ASIDSW, HALT and ERET (17 R420, R423, R425) -/

theorem system_completes {op : Nat} (h : op = 0x371 ∨ op = 0x373 ∨ op = 0x376) :
    ((opSpec op).getD {}).flag = .short ∧ commitsAtIssue op = false ∧ takesTag op = false := by
  obtain rfl | rfl | rfl := h <;> decide

/-- An effect of one of these on its group is all that it leaves. -/
theorem exec_system {F : Group → Group} (h : Issues i s c m) (hop : c.op = 0x371 ∨ c.op = 0x373 ∨ c.op = 0x376) (ha : m.always = false)
    (hact : m.act c s = (s.modGroup c.g F, false)) : exec i s = .next (advance c (s.setGroup c.g (F c.gr))) := by
  obtain ⟨-, -, -, -, -, -, hsp, -⟩ := issueCtx_eq h.ctx
  obtain ⟨hflag, hcommit, htag⟩ := system_completes hop
  rw [exec_modGroup h ha (hsp ▸ hflag) hcommit htag hact, modGroup_eq, group_setGroup_same, setGroup_setGroup, h.group_eq]

/-- HALT and ERET, which give their run a wait. -/
theorem exec_systemWait {w : Wait} {ls : Lanes} (h : Issues i s c m) (hop : c.op = 0x371 ∨ c.op = 0x373 ∨ c.op = 0x376)
    (ha : m.always = false) (hact : m.act c s = (modRun s c.g fun r => { r with waits := r.waits ++ [(w, ls)] }, false)) :
    exec i s = .next (advance c (s.setGroup c.g { c.gr with run := some { c.r with waits := c.r.waits ++ [(w, ls)] } })) := by
  rw [exec_system h hop ha hact, h.run_eq]
  rfl

/-- Settles O41. -/
theorem systemInstructionResults : Obligations.SystemInstructionResults := by
  unfold Obligations.SystemInstructionResults
  intro f s c m
  refine ⟨fun h => ?asidsw, fun h => ?halt, fun h => ?eret⟩
  case asidsw =>
    obtain ⟨hop, rfl⟩ := h.op_meaning rfl rfl
    exact exec_system h (.inr (.inl hop)) rfl rfl
  case halt =>
    obtain ⟨hop, rfl⟩ := h.op_meaning rfl rfl
    exact exec_systemWait h (.inr (.inr hop)) rfl rfl
  case eret =>
    obtain ⟨hop, rfl⟩ := h.op_meaning rfl rfl
    exact exec_systemWait h (.inl hop) rfl rfl

end Sys2Proof.Machine
end

section
/-!
PROOF. What a trap, a return and the end of a group leave of a group's standing: its handler mode, the trap it is in, its region count and
whether it has ended (15 R348; 17 R405, R409, R420); then O45.
-/

namespace Sys2Proof.Machine

open Sys2Proof

/-- A quantity that no step of a list changes. -/
theorem foldl_keeps {α β γ : Type} {φ : β → γ} {f : β → α → β} (hf : ∀ b x, φ (f b x) = φ b) (xs : List α) (b : β) :
    φ (xs.foldl f b) = φ b := by
  induction xs generalizing b with
  | nil => rfl
  | cons x r ih => exact (ih _).trans (hf b x)

/-- Handler mode, the trap, the region count and the end of a group. -/
def Group.standing (gr : Group) : Bool × Option TrapCtx × Word × Bool := (gr.hm, gr.trap, gr.rgncnt, gr.ended)

/-- The standing of a group of a state. -/
def State.standing (s : State) (g : Nat) : Bool × Option TrapCtx × Word × Bool := (s.group g).standing

section
variable (s : State) (g : Nat)

theorem standing_of_groups {s t : State} (e : t.groups = s.groups) (g : Nat) : t.standing g = s.standing g := by
  simp only [State.standing, State.group, e]

theorem standing_setGroup (gr : Group) : (s.setGroup g gr).standing g = gr.standing := congrArg Group.standing (group_setGroup_same s g gr)

theorem standing_modGroup {F : Group → Group} (hF : ∀ gr, (F gr).standing = gr.standing) : (s.modGroup g F).standing g = s.standing g :=
  (standing_setGroup s g _).trans (hF _)

/-! ### The end of a group -/

theorem standing_releaseFut (k lane : Nat) : (releaseFut s g k lane).standing g = s.standing g := by
  unfold releaseFut
  dsimp only
  split
  · exact standing_modGroup s g fun _ => rfl
  · refine Eq.trans ?_ (standing_of_groups (s := s) rfl g)
    exact standing_modGroup _ g fun _ => rfl

theorem standing_finishPend (id : Nat) : (finishPend s g id).standing g = s.standing g := by
  cases hp : (s.group g).findPend id with
  | none => simp only [finishPend, hp]
  | some p =>
    obtain ⟨ps, fl, hf, ws, e, -⟩ := finishPend_rest hp
    rw [e]
    exact standing_setGroup s g _

theorem standing_cancelPend (id : Nat) : (cancelPend s g id).standing g = s.standing g :=
  (standing_finishPend _ g id).trans (standing_modGroup s g fun _ => rfl)

/-- A group that is ended has ended, without a trap when it was in none or had not ended; its handler mode and region count stay (15 R348). -/
structure HasEnded (a b : Group) : Prop where
  ended : b.ended = true
  hm : b.hm = a.hm
  rgncnt : b.rgncnt = a.rgncnt
  trap : a.trap = none → b.trap = none

theorem HasEnded.of_standing {a b : Group} (h : b.standing = (a.hm, none, a.rgncnt, true)) : HasEnded a b := by
  simp only [Group.standing, Prod.mk.injEq] at h
  obtain ⟨hhm, htrap, hrgncnt, hended⟩ := h
  exact ⟨hended, hhm, hrgncnt, fun _ => htrap⟩

theorem hasEnded_endGroup : HasEnded (s.group g) ((endGroup s g).group g) := by
  unfold endGroup
  extract_lets gr futures faults unparked left ended wired unbound dev unsaved unqueued pushes unpushed dropped pc passed done
  split
  case isTrue h => exact ⟨h, rfl, rfl, id⟩
  case isFalse =>
    have hfutures : futures.standing g = s.standing g := foldl_keeps (φ := (State.standing · g)) (fun u e => standing_releaseFut u g _ _) _ _
    have hfaults : faults.groups = futures.groups := groups_foldl (fun u e => by simp) _ _
    have hunparked : unparked.groups = faults.groups := groups_foldl (fun u p => unpark_groups u p true) _ _
    have hbefore : unparked.standing g = gr.standing := (standing_of_groups (hunparked.trans hfaults) g).trans hfutures
    have hended : ended.standing g = (gr.hm, none, gr.rgncnt, true) := by
      rw [show gr.hm = (unparked.group g).hm from (congrArg Prod.fst hbefore).symm,
        show gr.rgncnt = (unparked.group g).rgncnt from (congrArg (fun x => x.2.2.1) hbefore).symm]
      exact standing_setGroup unparked g _
    have hwired : wired.groups = ended.groups := groups_foldl (fun u p => by split <;> rfl) _ _
    have hdropped : dropped.standing g = wired.standing g :=
      (foldl_keeps (φ := (State.standing · g)) (fun u id => standing_cancelPend u g id) _ _).trans (standing_of_groups rfl g)
    have hpassed : passed.groups = dropped.groups := groups_foldl (fun u b => advanceBar_groups u b g pc gr.last 4) _ _
    have hdone : done.groups = passed.groups := by
      unfold done
      split
      · rfl
      · refine (wire_groups _ _).trans (groups_foldl (fun u b => ?_) _ _)
        split
        · exact wireOnce_groups u _
        · rfl
    refine .of_standing ?_
    calc (childKick (replace done)).standing g
      _ = dropped.standing g := standing_of_groups (((childKick_groups _).trans (replace_groups _)).trans (hdone.trans hpassed)) g
      _ = ended.standing g := hdropped.trans (standing_of_groups hwired g)
      _ = (gr.hm, none, gr.rgncnt, true) := hended

theorem ended_endGroupCause (cause sub pc : Nat) : ((endGroupCause s g cause sub pc).group g).ended = true :=
  (hasEnded_endGroup _ g).ended

end

/-! ### A trap without a handler to take it -/

/-- In handler mode, without TVEC.EN, or with a frame that cannot be written, the group ends (17 R405, R409). -/
theorem ended_takeTrap {s : State} {g : Nat} {t : TrapInfo}
    (h : (s.group g).hm = true ∨ bitOf (ctxDw s (s.ctxOf (s.group g)) 1) 0 = false ∨
      (frameBad (causesTrigger s t.causes) (s.group g).core (s.ctxOf (s.group g)) (tframe (causesTrigger s t.causes) (s.group g)) true).isSome =
        true) : ((takeTrap s g t).group g).ended = true := by
  unfold takeTrap
  dsimp only
  split
  case isTrue => exact ended_endGroupCause ..
  case isFalse hgoes =>
    split
    case h_1 => exact ended_endGroupCause ..
    case h_2 hframe =>
      simp only [hframe, Option.isSome_none, Bool.false_eq_true, or_false] at h
      obtain hhm | hen := h
      · simp [hhm] at hgoes
      · simp [hen] at hgoes

/-- A fault of one of its frame's accesses ends the group. -/
theorem ended_frameFault (s : State) (g : Nat) (p : Pend) (use : FrameUse) (causes : List LaneCause) :
    ((frameFault s g p use causes).group g).ended = true := by
  unfold frameFault
  dsimp only
  split
  case isTrue h => exact (congrArg (fun x => x.2.2.2) (standing_finishPend s g p.id)).trans h
  case isFalse => cases use <;> exact ended_endGroupCause ..

/-- Settles O45, for the trap itself and for a fault of its frame's accesses later. -/
theorem trapWithoutHandlerEndsTheGroup : Obligations.TrapWithoutHandlerEndsTheGroup := by
  unfold Obligations.TrapWithoutHandlerEndsTheGroup
  refine ⟨?now, fun s g id p use causes hp huse => ?later⟩
  case now =>
    intro s g t s1 h
    exact ended_takeTrap h
  case later =>
    simp only [deferFault, hp, huse]
    exact ended_frameFault ..

end Sys2Proof.Machine
end

section
/-!
PROOF. Taking a trap (17 R405, R406): what the signals of a fault leave of the contexts, the pending stores of the frame, and the group in its
handler; then O44.
-/

namespace Sys2Proof.Machine

open Sys2Proof

/-! ### What signals leave of the launches and the context table (17 R414) -/

/-- The launches and the context table, on which a trap frame's place and contents rest. -/
def State.contexts (s : State) : Sp Launch × (Nat → Nat → Nat) := (s.launches, ctxDw s)

section
variable (s : State)

/-- A register below the context table is none of it. -/
theorem contexts_winSet {o : Nat} (v : Nat) (ho : o < 0x1000000) : (winSet s o v).contexts = s.contexts := by
  refine Prod.ext rfl (funext fun asid => funext fun i => ?_)
  have hkey : ctxOfs asid i / 8 ≠ o / 8 := by
    unfold ctxOfs
    omega
  exact congrArg (fun x : Option DWord => (x.getD _).toNat) (tfind_tput_ne s.win _ hkey)

theorem contexts_wireOnce (m : Msg) : (s.wireOnce m).contexts = s.contexts := by
  unfold State.wireOnce
  split <;> rfl

theorem contexts_dbgEvt (bit : Nat) : (dbgEvt s bit).contexts = s.contexts := by
  unfold dbgEvt
  dsimp only
  split <;> exact contexts_winSet s _ (by decide)

theorem contexts_leuth (cls kind payload core group seq pc : Nat) (dev orphan : Bool) :
    (leuth s cls kind payload core group seq pc dev orphan).contexts = s.contexts := by
  unfold leuth
  dsimp only
  split
  · rfl
  · split
    · exact contexts_winSet s _ (by decide)
    · split
      · exact contexts_wireOnce _ _
      · exact contexts_winSet _ _ (by decide)

theorem contexts_rfrzTrigger (bit : Nat) : (rfrzTrigger s bit).contexts = s.contexts := by
  unfold rfrzTrigger
  dsimp only
  split
  · rfl
  · split
    · exact contexts_winSet s _ (by decide)
    · exact (contexts_leuth ..).trans ((contexts_dbgEvt _ 1).trans (contexts_winSet s _ (by decide)))

theorem contexts_causeTrigger (cause : Nat) : (causeTrigger s cause).contexts = s.contexts := by
  unfold causeTrigger
  split
  · exact contexts_rfrzTrigger s 1
  · split
    · exact contexts_rfrzTrigger s 2
    · rfl

theorem contexts_causesTrigger (cs : List LaneCause) : (causesTrigger s cs).contexts = s.contexts :=
  foldl_keeps contexts_causeTrigger _ s

theorem contexts_frameWatch (g asid a : Nat) (pc : DWord) (wr : Bool) : (frameWatch s g asid a pc wr).contexts = s.contexts := by
  refine foldl_keeps (φ := State.contexts) (fun u h => ?_) _ s
  dsimp only
  split <;> exact contexts_leuth ..

end

/-! ### The frame (17 R406, R407) -/

section
variable {s t : State}

theorem launches_of_contexts (h : t.contexts = s.contexts) : t.launches = s.launches := congrArg Prod.fst h

theorem ctxDw_of_contexts (h : t.contexts = s.contexts) (asid i : Nat) : ctxDw t asid i = ctxDw s asid i :=
  congrFun (congrFun (congrArg Prod.snd h) asid) i

theorem recOf_of_contexts (h : t.contexts = s.contexts) (gr : Group) : t.recOf gr = s.recOf gr := by
  simp only [State.recOf, State.launch, launches_of_contexts h]

/-- The place of a frame and what it holds rest on no more of the state than the contexts. -/
theorem tframe_of_contexts (h : t.contexts = s.contexts) (gr : Group) : tframe t gr = tframe s gr := by
  simp only [tframe, State.ctxOf, recOf_of_contexts h, ctxDw_of_contexts h]

theorem framePieces_of_contexts (h : t.contexts = s.contexts) (gr : Group) (k : TrapInfo) : framePieces t gr k = framePieces s gr k := by
  have hdword (i : Nat) : frameDword t gr k i = frameDword s gr k i := by
    simp only [frameDword, State.regsOf, recOf_of_contexts h]
  simp only [framePieces, hdword]

end

section
variable (s : State) (gr : Group) (id : Nat) (use : FrameUse) (lanes : Lanes) (a : Nat) (pc : DWord) (vals : List (Nat × Nat))

theorem addrs_framePend : (framePend s gr id use lanes a pc vals).addrs = (List.range 512).map fun i => (i, a + 16 * i) := by
  simp only [framePend]

theorem vals_framePend : (framePend s gr id use lanes a pc vals).vals = vals := by
  simp only [framePend]

theorem frame_framePend : (framePend s gr id use lanes a pc vals).frame = some use := by
  simp only [framePend]

end

/-! ### The entry to the handler (17 R405) -/

/-- The entry at which the lanes of a trap begin their handler. -/
def handlerEntry (vec : DWord) (lanes : Lanes) (prio : Nat) : Entry :=
  { pc := vec, hdr := vec, mask := lanes, prio := prio, pass := 0, waits := [], issued := 0 }

/-- The address in TVEC. -/
theorem tvec_address (x : Nat) : bits x 55 2 * 4 = x % 2 ^ 56 / 4 * 4 := by
  unfold bits
  omega

section
variable (s : State) (g : Nat) (t : TrapInfo)

/-- The state when a trap's causes have pulled their triggers and the watchpoints that its frame hits have left their records. -/
def trapWatched : State :=
  frameWatch (causesTrigger s t.causes) g (s.ctxOf (s.group g)) (tframe (causesTrigger s t.causes) (s.group g)) t.ipc true

theorem contexts_trapWatched : (trapWatched s g t).fresh.2.contexts = s.contexts :=
  (contexts_frameWatch ..).trans (contexts_causesTrigger s t.causes)

/-- The pending stores of a trap's frame. -/
def trapStores : Pend :=
  framePend (trapWatched s g t).fresh.2 (s.group g) (trapWatched s g t).nextId (.save (primary t.causes).1 (primary t.causes).2) t.lanes
    (tframe (trapWatched s g t).fresh.2 (s.group g)) t.ipc (framePieces (trapWatched s g t).fresh.2 (s.group g) t)

theorem addrs_trapStores :
    (trapStores s g t).addrs = (List.range 512).map fun i => (i, tframe (causesTrigger s t.causes) (s.group g) + 16 * i) := by
  rw [trapStores, addrs_framePend, tframe_of_contexts (contexts_trapWatched s g t), tframe_of_contexts (contexts_causesTrigger s t.causes)]

theorem vals_trapStores :
    (trapStores s g t).vals = (List.range 512).map fun i =>
      (i, frameDword s (s.group g) t (2 * i) + 2 ^ 64 * frameDword s (s.group g) t (2 * i + 1)) := by
  rw [trapStores, vals_framePend, framePieces_of_contexts (contexts_trapWatched s g t), framePieces]

/-- The group has taken the trap: it is in its handler, from TVEC on, with its other lanes paused and the stores of the frame pending. -/
structure InHandler (gr : Group) : Prop where
  hm : gr.hm = true
  hflags : gr.hflags = List.replicate 12 FlagSt.reset
  run : gr.run = none
  held : gr.held = []
  entries : ∃ prio, gr.entries =
    [handlerEntry (BitVec.ofNat 64 (bits (ctxDw s (s.ctxOf (s.group g)) 1) 55 2 * 4)) t.lanes prio]
  trap : ∃ k, gr.trap = some k ∧ k.lanes = t.lanes ∧ k.kind = t.kind ∧ k.frame = tframe (causesTrigger s t.causes) (s.group g)
  paused : ∀ e ∈ (s.group g).entries, (e.mask &&& ~~~ t.lanes) ≠ 0 → { e with mask := e.mask &&& ~~~ t.lanes } ∈ gr.paused
  pend : trapStores s g t ∈ gr.pend

end

variable {s : State} {g : Nat} {t : TrapInfo}

theorem addPend_setGroup (s : State) (g : Nat) (gr : Group) (p : Pend) :
    addPend (s.setGroup g gr) g p = s.setGroup g { gr with pend := gr.pend ++ [p] } := by
  rw [addPend, modGroup_eq, group_setGroup_same, setGroup_setGroup]

/-- A group with a handler to take it, and a frame that can be written, takes the trap. -/
theorem takeTrap_enters (hhm : (s.group g).hm = false) (hen : bitOf (ctxDw s (s.ctxOf (s.group g)) 1) 0 = true)
    (hframe : frameBad (causesTrigger s t.causes) (s.group g).core (s.ctxOf (s.group g))
      (tframe (causesTrigger s t.causes) (s.group g)) true = none) :
    ∃ gr, takeTrap s g t = ((trapWatched s g t).fresh.2.setGroup g gr).wire (.instrComplete g (trapStores s g t).id) ∧ InHandler s g t gr := by
  unfold takeTrap
  extract_lets gr asid tvec s1 vec prio others ctx
  have hgoes : ¬ (gr.hm || !bitOf tvec 0) = true := by
    show ¬ ((s.group g).hm || !bitOf (ctxDw s (s.ctxOf (s.group g)) 1) 0) = true
    rw [hhm, hen]
    decide
  dsimp only
  rw [if_neg hgoes, show frameBad s1 gr.core asid (tframe s1 gr) true = none from hframe]
  refine ⟨_, congrArg (State.wire · _) (addPend_setGroup ..), rfl, rfl, rfl, rfl, ⟨prio, rfl⟩, ⟨ctx, rfl, rfl, rfl, rfl⟩, ?paused, ?pend⟩
  case paused =>
    intro e he hmask
    exact List.mem_filter.2 ⟨List.mem_append_left _ (List.mem_map.2 ⟨e, he, rfl⟩), decide_eq_true hmask⟩
  case pend => exact List.mem_append_right _ (List.mem_singleton_self _)

/-- Settles O44, from the group in its handler. -/
theorem trapEntersTheHandler : Obligations.TrapEntersTheHandler := by
  unfold Obligations.TrapEntersTheHandler
  intro s g t hhm hen s1 a hframe gr vec
  obtain ⟨gr', htake, h⟩ := takeTrap_enters hhm hen hframe
  have hgr : gr = gr' := (congrArg (State.group · g) htake).trans (group_setGroup_same _ g gr')
  obtain ⟨prio, hentries⟩ := h.entries
  rw [hgr]
  refine ⟨h.hm, h.hflags, h.run, h.held, ⟨_, hentries, ?vec, ?vec, rfl, rfl, rfl⟩, h.trap, fun e he hmask => ?paused,
    trapStores s g t, h.pend, rfl, ?due, addrs_trapStores s g t, vals_trapStores s g t⟩
  case vec => exact congrArg (BitVec.ofNat 64) (tvec_address _)
  case paused => exact ⟨_, h.paused e he hmask, rfl, rfl, rfl, rfl⟩
  case due =>
    rw [htake]
    exact List.mem_append_right _ (List.mem_singleton_self _)

end Sys2Proof.Machine
end

section
/-!
PROOF. The return from a trap (17 R420): the read of the frame, then the registers and the standing of the group that returns; then O46.
-/

namespace Sys2Proof.Machine

open Sys2Proof

/-! ### The read of the frame -/

/-- When every handler lane stands at ERET, and no store to a frame that can be read is under way, the read of it is pending. -/
theorem eretTry_reads {s : State} {g : Nat} {t : TrapCtx} (ht : (s.group g).trap = some t) (hready : eretReady (s.group g) = true)
    (hidle : (s.group g).pend.any (fun p => p.frame == some .restore) = false) (hstores : frameStores (s.group g) t = false)
    (hframe : frameBad s (s.group g).core (s.ctxOf (s.group g)) t.frame false = none) :
    ∃ u p, eretTry s g = (addPend u g p).wire (.instrComplete g p.id) ∧ p.frame = some .restore ∧
      p.addrs = (List.range 512).map fun i => (i, t.frame + 16 * i) := by
  unfold eretTry
  simp only [ht, hready, hidle, hstores, hframe, Bool.not_true, Bool.or_self, Bool.false_eq_true, if_false]
  exact ⟨_, _, rfl, frame_framePend .., addrs_framePend ..⟩

theorem pend_addPend (s : State) (g : Nat) (p : Pend) : ((addPend s g p).group g).pend = (s.group g).pend ++ [p] :=
  congrArg Group.pend (group_modGroup_same s g _)

/-! ### Registers from the frame -/

section
variable (regs : Nat) (fr : List Nat)

theorem getP_foldl_wrP (val pois : Nat → Bool) {n l : Nat} (hn : n ≤ 15) (hl : l < 64) (gr : Group) {k j : Nat} (hj : j < 64) :
    ((List.range n).foldl (fun (gr : Group) k => gr.wrP k l (val k) (pois k)) gr).getP k j =
      if k < n ∧ j = l then val k else gr.getP k j := by
  induction n with
  | zero => simp
  | succ n ih =>
    rw [List.range_succ, List.foldl_append, List.foldl_cons, List.foldl_nil, getP_wrP _ _ _ _ _ _ _ (by omega) hl hj, ih (by omega)]
    by_cases hk : k = n
    · subst hk
      by_cases hjl : j = l <;> simp [hjl]
    · have hlt : k < n + 1 ↔ k < n := by omega
      simp only [hk, false_and, if_false, hlt]

/-- A lane that returns has its p0 to p14 from the frame. -/
theorem getP_restoreLane (gr : Group) {l k j : Nat} (hl : l < 64) (hk : k < 15) (hj : j < 64) :
    (restoreLane regs fr gr l).getP k j = if j = l then (fr.getD (208 + k) 0).testBit j else gr.getP k j := by
  unfold restoreLane
  extract_lets restored
  calc _
    _ = restored.getP k j := foldl_keeps (φ := fun gr : Group => gr.getP k j) (fun gr i => getP_wrV gr _ l k j _ _) _ restored
    _ = if k < 15 ∧ j = l then (fr.getD (208 + k) 0).testBit l else gr.getP k j := getP_foldl_wrP _ _ (le_refl 15) hl gr hj
    _ = _ := by by_cases hjl : j = l <;> simp [hjl, hk]

theorem getP_foldl_restoreLane (ls : List Nat) (hls : ∀ l ∈ ls, l < 64) (gr : Group) {k j : Nat} (hk : k < 15) (hj : j < 64) :
    (ls.foldl (restoreLane regs fr) gr).getP k j = if j ∈ ls then (fr.getD (208 + k) 0).testBit j else gr.getP k j := by
  induction ls generalizing gr with
  | nil => rfl
  | cons l r ih =>
    rw [List.foldl_cons, ih (fun x hx => hls x (List.mem_cons_of_mem _ hx)), getP_restoreLane regs fr gr (hls l List.mem_cons_self) hk hj]
    by_cases hjr : j ∈ r <;> by_cases hjl : j = l <;> simp [hjr, hjl]

/-- The frame's s56 to s62 are put back. -/
def Group.restoreS (fr : List Nat) (gr : Group) : Group :=
  (List.range 7).foldl (fun (gr : Group) j => gr.wrS (56 + j) (BitVec.ofNat 64 (fr.getD (256 + j) 0)) (bitOf (fr.getD 263 0) j)) gr

theorem getS_foldl_wrS (val : Nat → DWord) (pois : Nat → Bool) {n : Nat} (hn : n ≤ 7) (gr : Group) {j : Nat} (hj : j < n) :
    let gr' := (List.range n).foldl (fun (gr : Group) j => gr.wrS (56 + j) (val j) (pois j)) gr
    gr'.getS (56 + j) = val j ∧ gr'.poisS (56 + j) = pois j := by
  induction n with
  | zero => exact absurd hj (Nat.not_lt_zero j)
  | succ n ih =>
    rw [List.range_succ, List.foldl_append, List.foldl_cons, List.foldl_nil]
    dsimp only
    rw [getS_wrS, poisS_wrS _ _ _ _ _ (by omega) (by omega)]
    by_cases h : j = n
    · subst h
      rw [if_pos ⟨rfl, by omega⟩, if_pos ⟨rfl, by omega⟩]
      exact ⟨rfl, rfl⟩
    · rw [if_neg (by omega), if_neg (by omega)]
      exact ih (by omega) (by omega)

theorem getS_restoreS (gr : Group) {j : Nat} (hj : j < 7) :
    (gr.restoreS fr).getS (56 + j) = BitVec.ofNat 64 (fr.getD (256 + j) 0) ∧ (gr.restoreS fr).poisS (56 + j) = (fr.getD 263 0).testBit j :=
  getS_foldl_wrS _ _ (le_refl 7) gr hj

theorem getP_restoreS (gr : Group) (k l : Nat) : (gr.restoreS fr).getP k l = gr.getP k l :=
  foldl_keeps (φ := fun gr : Group => gr.getP k l) (fun gr _ => getP_wrS gr _ _ _ _ _) _ gr

/-! ### The standing of a group in its return -/

theorem standing_wrS (gr : Group) (n : Nat) (x : DWord) (q : Bool) : (gr.wrS n x q).standing = gr.standing := by
  simp only [Group.standing, wrS_hm, wrS_trap, wrS_rgncnt, wrS_ended]

theorem standing_wrV (gr : Group) (n l : Nat) (x : Word) (q : Bool) : (gr.wrV n l x q).standing = gr.standing := rfl

theorem standing_wrP (gr : Group) (n l : Nat) (x q : Bool) : (gr.wrP n l x q).standing = gr.standing := by
  simp only [Group.standing, wrP_hm, wrP_trap, wrP_rgncnt, wrP_ended]

theorem standing_restoreLane (gr : Group) (l : Nat) : (restoreLane regs fr gr l).standing = gr.standing := by
  unfold restoreLane
  extract_lets restored
  calc _
    _ = restored.standing := foldl_keeps (φ := Group.standing) (fun gr j => standing_wrV gr _ l _ _) _ restored
    _ = gr.standing := foldl_keeps (φ := Group.standing) (fun gr k => standing_wrP gr k l _ _) _ gr

theorem standing_restoreS (gr : Group) : (gr.restoreS fr).standing = gr.standing := foldl_keeps (fun gr _ => standing_wrS gr _ _ _) _ gr

end

section
variable (gr : Group)

theorem standing_join (pc hdr : DWord) (mask : Lanes) (prio : Nat) (ws : List Wait) : (gr.join pc hdr mask prio ws).standing = gr.standing := by
  obtain ⟨es, hs, h⟩ := join_rest gr pc hdr mask prio ws
  rw [h]
  rfl

theorem standing_joinAll (prio : DWord → Nat) (moves : List Held) : (gr.joinAll prio moves).standing = gr.standing :=
  foldl_keeps (φ := Group.standing) (fun gr _ => standing_join gr _ _ _ _ _) _ gr

theorem standing_unhold (prio : DWord → Nat) (n : Nat) : (gr.unhold prio n).standing = gr.standing := by
  induction n generalizing gr with
  | zero => rfl
  | succ n ih =>
    unfold Group.unhold
    split
    · rfl
    · split
      · exact (ih _).trans (standing_join ..)
      · rfl

theorem standing_merge : gr.merge.standing = gr.standing := by
  refine (foldl_keeps (φ := Group.standing) (fun gr e => ?_) _ _).trans ?_
  · split
    · exact standing_join ..
    · rfl
  · rfl

theorem standing_joinRelease : gr.joinRelease.standing = gr.standing := by
  refine foldl_keeps (φ := Group.standing) (fun gr k => ?_) _ gr
  dsimp only
  split <;> rfl

theorem standing_settle (s : State) (g : Nat) : (settle s g).standing g = s.standing g :=
  standing_modGroup s g fun _ => (standing_unhold ..).trans (standing_merge _)

theorem standing_takeLater (s : State) (g : Nat) : (takeLater s g).standing g = s.standing g := by
  unfold takeLater
  split
  · rfl
  · refine Eq.trans (standing_of_groups (wire_groups _ _) g) ?_
    exact standing_modGroup s g fun _ => rfl

end

/-! ### The group that returns -/

section
variable {a b : Group} (h : SameRegs a b)
include h

theorem SameRegs.getS (n : Nat) : b.getS n = a.getS n := by simp only [Group.getS, h.s]

theorem SameRegs.poisS (n : Nat) : b.poisS n = a.poisS n := by simp only [Group.poisS, h.sPois]

theorem SameRegs.getP (n l : Nat) : b.getP n l = a.getP n l := by simp only [Group.getP, Group.getPM, h.p]

end

theorem KeepsRegs.takeLater {s t : State} {g : Nat} (h : KeepsRegs s t) : KeepsRegs s (takeLater t g) := by
  unfold Machine.takeLater
  split
  · exact h
  · refine (h.modGroup fun _ => ?_).of_groups (wire_groups _ _)
    exact ⟨rfl, rfl, rfl, rfl, rfl, rfl⟩

/-- The registers of a group with those of the frame put back: p and v of the lanes that return, and s56 to s62. -/
def restored (s : State) (g : Nat) (fr : List Nat) (lanes : Lanes) : Group :=
  ((lanesOf lanes).foldl (restoreLane (s.regsOf (s.group g)) fr) (s.group g)).restoreS fr

theorem standing_restored (s : State) (g : Nat) (fr : List Nat) (lanes : Lanes) : (restored s g fr lanes).standing = s.standing g :=
  (standing_restoreS ..).trans (foldl_keeps (standing_restoreLane _ fr) _ _)

theorem rgncnt_restored (s : State) (g : Nat) (fr : List Nat) (lanes : Lanes) :
    (restored s g fr lanes).rgncnt = (s.group g).rgncnt := by
  have h := standing_restored s g fr lanes
  simp only [State.standing, Group.standing, Prod.mk.injEq] at h
  obtain ⟨-, -, hrgncnt, -⟩ := h
  exact hrgncnt

theorem getP_restored (s : State) (g : Nat) (fr : List Nat) (lanes : Lanes) {k l : Nat} (hk : k < 15) (hl : l < 64) :
    (restored s g fr lanes).getP k l = if hasLane lanes l then (fr.getD (208 + k) 0).testBit l else (s.group g).getP k l := by
  rw [restored, getP_restoreS, getP_foldl_restoreLane _ _ _ (fun x hx => hasLane_lt (mem_lanesOf.1 hx)) _ hk hl]
  simp only [mem_lanesOf]

/-- The group is out of its trap, with the registers that were put back. -/
structure Returned (a b : Group) : Prop where
  regs : SameRegs a b
  hm : b.hm = false
  trap : b.trap = none
  rgncnt : b.rgncnt = a.rgncnt + 1

/-- What keeps the registers and the standing of a group that is out of its trap leaves it so. -/
theorem Returned.keeps {a b c : Group} (h : Returned a b) (hregs : SameRegs b c) (hstanding : c.standing = b.standing) : Returned a c := by
  simp only [Group.standing, Prod.mk.injEq] at hstanding
  obtain ⟨hhm, htrap, hrgncnt, -⟩ := hstanding
  exact ⟨h.regs.trans hregs, hhm.trans h.hm, htrap.trans h.trap, hrgncnt.trans h.rgncnt⟩

/-- At the end of its return a group without lanes ends, and another takes a deferred fault that is due. -/
theorem Returned.ends {a : Group} {s : State} {g : Nat} (h : Returned a (s.group g)) :
    Returned a ((if (s.group g).live == 0 then endGroup s g else takeLater s g).group g) := by
  split
  · have hended := hasEnded_endGroup s g
    exact ⟨h.regs.trans ((KeepsRegs.refl s).endGroup.group g), hended.hm.trans h.hm, hended.trap h.trap, hended.rgncnt.trans h.rgncnt⟩
  · exact h.keeps ((KeepsRegs.refl s).takeLater.group g) (standing_takeLater s g)

/-- What follows the restoring of the registers ends the trap and changes no register. -/
theorem returnFromTrap_returned {s : State} {g : Nat} {t : TrapCtx} (fr : List Nat) (ht : (s.group g).trap = some t) :
    Returned (restored s g fr (t.lanes &&& (s.group g).live)) ((returnFromTrap s g fr).group g) := by
  unfold returnFromTrap
  extract_lets gr regs pcOf hdOf
  split
  case h_1 hnone => cases ht.symm.trans hnone
  case h_2 t' ht' =>
    cases Option.some.inj (ht.symm.trans ht')
    extract_lets lanes keep done lanesBack back counted out inside outs gone moves unowed joined settled unparked passed
    have hcounted : SameRegs back counted := by
      refine (SameRegs.refl back).foldl (fun _ _ => ?_) _
      exact ⟨rfl, rfl, rfl, rfl, rfl, rfl⟩
    have hrgncnt : counted.rgncnt = back.rgncnt := by
      refine foldl_keeps (φ := Group.rgncnt) (fun _ _ => ?_) _ _
      rfl
    have hout : Returned back out := ⟨hcounted.trans ⟨rfl, rfl, rfl, rfl, rfl, rfl⟩, rfl, rfl, congrArg (· + 1) hrgncnt⟩
    have hjoined : Returned back joined.joinRelease := by
      refine hout.keeps (SameRegs.joinAll ?_).joinRelease ((standing_joinRelease joined).trans (standing_joinAll _ _ _))
      exact ⟨rfl, rfl, rfl, rfl, rfl, rfl⟩
    have hpassed : passed.groups = settled.groups := by
      refine (passWires_groups ..).trans ?_
      unfold unparked
      split
      · exact unpark_groups ..
      · rfl
    have hregs : KeepsRegs (s.setGroup g joined.joinRelease) passed := (KeepsRegs.refl _).settle.of_groups hpassed
    have hstanding : passed.standing g = (s.setGroup g joined.joinRelease).standing g :=
      (standing_of_groups hpassed g).trans (standing_settle _ g)
    refine Returned.ends (Returned.keeps ?_ (hregs.group g) hstanding)
    rw [group_setGroup_same]
    exact hjoined

/-- Settles O46: the read of the frame, then what it brings. -/
theorem returnRestoresFromTheFrame : Obligations.ReturnRestoresFromTheFrame := by
  unfold Obligations.ReturnRestoresFromTheFrame
  refine ⟨fun s g t ht hready hidle hstores hframe => ?reads, ?returns⟩
  case reads =>
    obtain ⟨u, p, h, hframe, haddrs⟩ := eretTry_reads ht hready hidle hstores hframe
    rw [h]
    refine ⟨p, ?pending, hframe, List.mem_append_right _ (List.mem_singleton_self _), haddrs⟩
    case pending =>
      show p ∈ ((addPend u g p).group g).pend
      rw [pend_addPend]
      exact List.mem_append_right _ (List.mem_singleton_self _)
  case returns =>
    intro s g t fr ht gr
    obtain ⟨hregs, hhm, htrap, hrgncnt⟩ := returnFromTrap_returned fr ht
    rw [rgncnt_restored] at hrgncnt
    refine ⟨hhm, htrap, hrgncnt, fun j hj => ?scalars, fun k l hk hl => ?predicates⟩
    case scalars =>
      rw [hregs.getS, hregs.poisS]
      exact getS_restoreS fr _ hj
    case predicates =>
      rw [hregs.getP, getP_restored s g fr _ hk hl]

end Sys2Proof.Machine
end
